-- ==== Sys2Proof/Word.lean ====
section
/-! DEFINITION. The word types of the VX9 (R6, R43): bytes, 32-bit registers, 64-bit words and addresses. -/

namespace Sys2Proof

/-- One byte of memory. -/
abbrev Byte := BitVec 8

/-- The data bits of one register (R18). -/
abbrev Word := BitVec 32

/-- A register pair, an instruction word or a virtual address (R22, R63, R25). -/
abbrev DWord := BitVec 64

/-- A register number of an instruction field (R70). -/
abbrev Reg := BitVec 8

end Sys2Proof
end

