-- ==== Sys2Proof/Syntax.lean ====
section
/-! DEFINITION. The instructions of the KZ instruction set and the steps of the machine (R3, R63 to R80,
spec/opcode_table.json), and the names of their operand fields. -/

namespace Sys2Proof

/-- Rounding codes (R45). -/
inductive Rnd | rne | rz | rdn | rup
  deriving DecidableEq, Repr

/-- Scope codes (R10, R67). -/
inductive Scope | grp | core | clu | die | pkg | swm | sys
  deriving DecidableEq, Repr

/-- The ordering code of a word with the scope that it names (R67, R216); without an ordering the scope field is zero. -/
inductive MemOrder
  | none
  | acq (sc : Scope)
  | rel (sc : Scope)
  | acqrel (sc : Scope)
  deriving DecidableEq, Repr

/-- Access size of class M (R67). -/
inductive Size | x8 | x16 | x32 | x64 | x128
  deriving DecidableEq, Repr

/-- Cache policy of class M (R30, R67). -/
inductive CPol | norm | stream | skipl1 | skipcc | keep
  deriving DecidableEq, Repr

/-- Conditions of ICMP; the last four are the natural comparisons `.n` (R68). -/
inductive ICond | eq | ne | lt | le | gt | ge | ltn | len | gtn | gen
  deriving DecidableEq, Repr

/-- Conditions of FCMP (R68, R109). -/
inductive FCond | eq | ne | lt | le | gt | ge | un | ord
  deriving DecidableEq, Repr

/-- Element formats (R30). -/
inductive Fmt
  | x8 | x16 | x32 | x64 | x128 | i8 | i16 | i32 | i64 | n8 | n16 | n32 | n64 | fp32 | bf16 | e4m3 | e5m2
  deriving DecidableEq, Repr

/-- Operators of GRED and GSCAN (R198). -/
inductive RedOp | add | fadd | min | max | minn | maxn | fmin | fmax | and | or | xor
  deriving DecidableEq, Repr

/-- Modes of GSHF (R200). -/
inductive ShfMode | idx | up | down | xor
  deriving DecidableEq, Repr

/-- Modes of GVOTE (R202). -/
inductive VoteMode | any | all | count | ballot | uni
  deriving DecidableEq, Repr

/-- Operations of ATOM and ATOMS (R220). -/
inductive AtomOp | add | fadd | min | max | minn | maxn | and | or | xor | exch | cas | fmin | fmax | inc
  deriving DecidableEq, Repr

/-- Special registers (R36). -/
inductive SReg | lane | tidx | widlo | widhi | gwidth | core | clu | die | pkg | clk
  deriving DecidableEq, Repr

/-- Element kinds of PACK2 and UNPK2 (R119). -/
inductive Pk2 | bf16 | x16 | i16
  deriving DecidableEq, Repr

/-- 8-bit float formats of QDOT4 (R114). -/
inductive QFmt | e4m3 | e5m2
  deriving DecidableEq, Repr

/-- How far a forked task may be stolen (R345, R346). -/
inductive Reach | core | clu | die
  deriving DecidableEq, Repr


/-- The operation of one half of a pair word with its modifiers, as the pair opcode map gives them (R74, R78). -/
inductive HalfOp
  | iadd
  | isub
  | imul
  | imin (nat : Bool)
  | imax (nat : Bool)
  | and
  | or
  | xor
  | andn
  | shl
  | shr
  | shra
  | rotl
  | icmp (cc : ICond)
  | mov
  | iaddImm (imm : BitVec 9)
  | imulImm (imm : BitVec 9)
  | andImm (imm : BitVec 9)
  | orImm (imm : BitVec 9)
  | xorImm (imm : BitVec 9)
  | shlImm (imm : BitVec 9)
  | shrImm (imm : BitVec 9)
  | shraImm (imm : BitVec 9)
  | movi (imm : BitVec 9)
  | iabs
  | clz
  | popc
  | brev
  | fadd (rm : Rnd)
  | fsub (rm : Rnd)
  | fmul (rm : Rnd)
  | fmin
  | fmax
  | fcmp (cc : FCond)
  | hadd2 (rm : Rnd)
  | hmul2 (rm : Rnd)
  | frcp (rm : Rnd)
  | frsq (rm : Rnd)
  | fsqrt (rm : Rnd)
  | fexp2
  | flog2
  | fsin
  | fcos
  | ftanh
  | cvtI32Fp32 (rm : Rnd)
  | cvtFp32I32 (rm : Rnd)
  deriving DecidableEq, Repr

/-- One half of a pair word: its operation, the field D (destination and first source) and the field B (R71).
A half whose form does not read B holds zero there (R72). -/
structure Half where
  op : HalfOp
  d : Reg
  b : Reg
  deriving DecidableEq, Repr

/-- Cause codes of poison (R144). -/
inductive Cause
  | pageMiss | perm | bounds | spadBounds | ecc | illegal | invalid | writeFrozen | scaleCount | format | abft
  | remoteUnacked | remoteFault | swmLost | txConflict | txLocal | txCapacity | txPreempt | noncanon | overflow | user
  deriving DecidableEq, Repr

/-- Kinds of access that translation checks (R210, R359). -/
inductive AccKind | read | write | atomic | fetch
  deriving DecidableEq, Repr

/-- Destinations of a flow (R393): a device, a switch of a plane, or a scale-out peer. -/
inductive Dest | dev (n : Nat) | switch (plane sw : Nat) | peer (k : Nat)
  deriving DecidableEq, Repr

/-- A flow of this device (R393). -/
structure FlowKey where
  core : Nat
  dest : Dest
  stream : Nat
  deriving DecidableEq, Repr

/-- What a fabric request asks for (R394). -/
inductive FabOp
  | load
  | store
  | atomic (op : AtomOp) (wide : Bool) (d e : DWord)
  | transfer
  deriving DecidableEq, Repr

/-- The endpoint of a transfer packet: core, workgroup slot and barrier object (R394, R410). -/
structure Endpoint where
  core : Nat
  slot : Nat
  bar : Option Nat
  /-- The packet writes the endpoint's scratchpad (DKIND 1), not memory. -/
  spad : Bool
  deriving DecidableEq, Repr

/-- A request packet: the fields of R394 that programs can affect, its payload and the poison bit of each payload sector. -/
structure Packet where
  ftid : Nat
  sdev : Nat
  score : Nat
  dest : Dest
  stream : Nat
  seq : Nat
  ord : Bool
  op : FabOp
  addr : Nat
  endpoint : Option Endpoint
  len : Nat
  bytes : List Byte
  poison : List Bool
  cause : Cause
  /-- The key under which it is sealed; its tag passes under that key alone (R375). -/
  key : Nat
  /-- The source address of a scale-out packet that comes from a peer (R408). -/
  fromPeer : Option (List Byte)
  /-- The primary whose flow it belongs to, where it goes to the mirror in its place (R407). -/
  named : Option Nat
  /-- Cycle in which it was sent, from which its AGE counts (R388). -/
  born : Nat
  deriving DecidableEq, Repr

/-- Replies (R395); a FAULT that comes from a link asks for another attempt at once (R396), and one of a target fault freezes its flow
(R401). DONE carries a load's data or an atomic's old value, the poison of the data and whether it is a frozen grant. -/
inductive ReplyBody
  | done (bytes : List Byte) (poison : Option Cause) (grant : Bool)
  | fault (c : Cause) (link freezes : Bool)
  | frozen
  | busy
  deriving DecidableEq, Repr

/-- A reply on its way to this device: the flow and SEQ of its request. -/
structure Reply where
  flow : FlowKey
  seq : Nat
  body : ReplyBody
  /-- The key under which it is sealed (R375). -/
  key : Nat
  /-- Cycle in which it was sent (R388). -/
  born : Nat
  deriving DecidableEq, Repr

/-- SPDM requests (R378). -/
inductive Spdm | version | capabilities | algorithms | digests | certificate | challenge | measurements | keyExchange
  deriving DecidableEq, Repr

/-- An SPDM request, at the management port or from a device of the fabric (R378). -/
structure SpdmCall where
  peer : Option Nat
  req : Spdm
  deriving DecidableEq, Repr

/-- The activity counts of a workgroup in an interval: words issued, lanes active, matrix k-steps, copy units, and accesses to scratchpad and to the
L1 (R349); or a coefficient for each of
them. -/
structure Activity where
  words : Nat
  lanes : Nat
  steps : Nat
  units : Nat
  spad : Nat
  l1 : Nat
  deriving DecidableEq, Repr

/-- A turn of a core's matrix engine: the core, and how many k-steps or rows it performs at most (R252, R351). -/
structure MxTurn where
  core : Nat
  n : Nat
  deriving DecidableEq, Repr

/-- Redfish requests (R384). -/
inductive Redfish
  | inventory
  | firmware (image : List Byte)
  | power (on : Bool)
  | telemetry
  | errorCounts
  | coreOff
  deriving DecidableEq, Repr

/-- Where a detected error lies (R379, R381). -/
inductive EccSite
  | reg (th r : Nat)
  | pipe (th r : Nat)
  | fifo (wg key k : Nat)
  | spad (wg sector : Nat)
  | l1 (core sector : Nat)
  | cluster (cl sector : Nat)
  | memory (sector : Nat)
  /-- A home slice's copy of a sector of this package's memory (R287). -/
  | slice (sector : Nat)
  | tileRow (wg tile row : Nat)
  | icache (core pa : Nat)
  /-- An upset of one element in the array, which the checksums find (R249, R250). -/
  | array (wg tile row col : Nat) (bits : Word)
  /-- An error corrected in place, with the number of its structure in the table of R379. -/
  | corrected (structure_ : Nat)
  deriving DecidableEq, Repr

/-- The rows of the table: every KZ instruction, then every indivisible step of the machine's other agents
(spec/95_what_each_step_holds.md). A pair word is one instruction, named by its half A; `other` is its half B. A machine step
carries what selects it: the core, the pending operation, or the value that an outside agent supplies. -/
inductive Instr
  /-- `IADD`: integer add (R99). -/
  | iadd (d : Reg) (a : Reg) (b : Reg)
  /-- `IADD_IMM`: integer add (R99), immediate. -/
  | iaddImm (d : Reg) (a : Reg) (imm : Word)
  /-- `IADD_W`: integer add (R99), wide. -/
  | iaddW (d : Reg) (a : Reg) (b : Reg)
  /-- `IADD_W_IMM`: integer add (R99), wide immediate. -/
  | iaddWImm (d : Reg) (a : Reg) (imm : Word)
  /-- `ISUB`: integer subtract (R99). -/
  | isub (d : Reg) (a : Reg) (b : Reg)
  /-- `ISUB_W`: integer subtract (R99), wide. -/
  | isubW (d : Reg) (a : Reg) (b : Reg)
  /-- `IMUL`: low product (R99). -/
  | imul (d : Reg) (a : Reg) (b : Reg)
  /-- `IMUL_IMM`: low product (R99), immediate. -/
  | imulImm (d : Reg) (a : Reg) (imm : Word)
  /-- `IMUL_W`: low product (R99), wide. -/
  | imulW (d : Reg) (a : Reg) (b : Reg)
  /-- `IMUL_W_IMM`: low product (R99), wide immediate. -/
  | imulWImm (d : Reg) (a : Reg) (imm : Word)
  /-- `IMULHI`: high product (R99). -/
  | imulhi (d : Reg) (a : Reg) (b : Reg) (nat : Bool)
  /-- `IMULHI_W`: high product (R99), wide. -/
  | imulhiW (d : Reg) (a : Reg) (b : Reg) (nat : Bool)
  /-- `IMAD`: multiply and add (R99). -/
  | imad (d : Reg) (a : Reg) (b : Reg) (c : Reg)
  /-- `IMAD_W`: multiply and add (R99), wide. -/
  | imadW (d : Reg) (a : Reg) (b : Reg) (c : Reg)
  /-- `IMIN`: integer minimum (R99, R69). -/
  | imin (d : Reg) (a : Reg) (b : Reg) (nat : Bool)
  /-- `IMIN_IMM`: integer minimum (R99, R69), immediate. -/
  | iminImm (d : Reg) (a : Reg) (imm : Word) (nat : Bool)
  /-- `IMIN_W`: integer minimum (R99, R69), wide. -/
  | iminW (d : Reg) (a : Reg) (b : Reg) (nat : Bool)
  /-- `IMIN_W_IMM`: integer minimum (R99, R69), wide immediate. -/
  | iminWImm (d : Reg) (a : Reg) (imm : Word) (nat : Bool)
  /-- `IMAX`: integer maximum (R99, R69). -/
  | imax (d : Reg) (a : Reg) (b : Reg) (nat : Bool)
  /-- `IMAX_IMM`: integer maximum (R99, R69), immediate. -/
  | imaxImm (d : Reg) (a : Reg) (imm : Word) (nat : Bool)
  /-- `IMAX_W`: integer maximum (R99, R69), wide. -/
  | imaxW (d : Reg) (a : Reg) (b : Reg) (nat : Bool)
  /-- `IMAX_W_IMM`: integer maximum (R99, R69), wide immediate. -/
  | imaxWImm (d : Reg) (a : Reg) (imm : Word) (nat : Bool)
  /-- `IABS`: absolute value (R99). -/
  | iabs (d : Reg) (a : Reg)
  /-- `IABS_W`: absolute value (R99), wide. -/
  | iabsW (d : Reg) (a : Reg)
  /-- `AND`: bitwise and (R100). -/
  | and (d : Reg) (a : Reg) (b : Reg)
  /-- `AND_IMM`: bitwise and (R100), immediate. -/
  | andImm (d : Reg) (a : Reg) (imm : Word)
  /-- `AND_W`: bitwise and (R100), wide. -/
  | andW (d : Reg) (a : Reg) (b : Reg)
  /-- `AND_W_IMM`: bitwise and (R100), wide immediate. -/
  | andWImm (d : Reg) (a : Reg) (imm : Word)
  /-- `OR`: bitwise or (R100). -/
  | or (d : Reg) (a : Reg) (b : Reg)
  /-- `OR_IMM`: bitwise or (R100), immediate. -/
  | orImm (d : Reg) (a : Reg) (imm : Word)
  /-- `OR_W`: bitwise or (R100), wide. -/
  | orW (d : Reg) (a : Reg) (b : Reg)
  /-- `OR_W_IMM`: bitwise or (R100), wide immediate. -/
  | orWImm (d : Reg) (a : Reg) (imm : Word)
  /-- `XOR`: bitwise exclusive or (R100). -/
  | xor (d : Reg) (a : Reg) (b : Reg)
  /-- `XOR_IMM`: bitwise exclusive or (R100), immediate. -/
  | xorImm (d : Reg) (a : Reg) (imm : Word)
  /-- `XOR_W`: bitwise exclusive or (R100), wide. -/
  | xorW (d : Reg) (a : Reg) (b : Reg)
  /-- `XOR_W_IMM`: bitwise exclusive or (R100), wide immediate. -/
  | xorWImm (d : Reg) (a : Reg) (imm : Word)
  /-- `ANDN`: A and not B (R100). -/
  | andn (d : Reg) (a : Reg) (b : Reg)
  /-- `ANDN_W`: A and not B (R100), wide. -/
  | andnW (d : Reg) (a : Reg) (b : Reg)
  /-- `SHL`: shift left (R100). -/
  | shl (d : Reg) (a : Reg) (b : Reg)
  /-- `SHL_IMM`: shift left (R100), immediate. -/
  | shlImm (d : Reg) (a : Reg) (imm : Word)
  /-- `SHL_W`: shift left (R100), wide. -/
  | shlW (d : Reg) (a : Reg) (b : Reg)
  /-- `SHL_W_IMM`: shift left (R100), wide immediate. -/
  | shlWImm (d : Reg) (a : Reg) (imm : Word)
  /-- `SHR`: shift right, zero fill (R100). -/
  | shr (d : Reg) (a : Reg) (b : Reg)
  /-- `SHR_IMM`: shift right, zero fill (R100), immediate. -/
  | shrImm (d : Reg) (a : Reg) (imm : Word)
  /-- `SHR_W`: shift right, zero fill (R100), wide. -/
  | shrW (d : Reg) (a : Reg) (b : Reg)
  /-- `SHR_W_IMM`: shift right, zero fill (R100), wide immediate. -/
  | shrWImm (d : Reg) (a : Reg) (imm : Word)
  /-- `SHRA`: shift right, sign fill (R100). -/
  | shra (d : Reg) (a : Reg) (b : Reg)
  /-- `SHRA_IMM`: shift right, sign fill (R100), immediate. -/
  | shraImm (d : Reg) (a : Reg) (imm : Word)
  /-- `SHRA_W`: shift right, sign fill (R100), wide. -/
  | shraW (d : Reg) (a : Reg) (b : Reg)
  /-- `SHRA_W_IMM`: shift right, sign fill (R100), wide immediate. -/
  | shraWImm (d : Reg) (a : Reg) (imm : Word)
  /-- `ROTL`: rotate left (R100). -/
  | rotl (d : Reg) (a : Reg) (b : Reg)
  /-- `ROTL_IMM`: rotate left (R100), immediate. -/
  | rotlImm (d : Reg) (a : Reg) (imm : Word)
  /-- `ROTL_W`: rotate left (R100), wide. -/
  | rotlW (d : Reg) (a : Reg) (b : Reg)
  /-- `ROTL_W_IMM`: rotate left (R100), wide immediate. -/
  | rotlWImm (d : Reg) (a : Reg) (imm : Word)
  /-- `SHF`: funnel shift (R101). -/
  | shf (d : Reg) (a : Reg) (b : Reg) (c : Reg) (right : Bool)
  /-- `SHF_W`: funnel shift (R101), wide. -/
  | shfW (d : Reg) (a : Reg) (b : Reg) (c : Reg) (right : Bool)
  /-- `BFX`: bit field extract (R103). -/
  | bfx (d : Reg) (a : Reg) (b : Reg) (nat : Bool)
  /-- `BFX_W`: bit field extract (R103), wide. -/
  | bfxW (d : Reg) (a : Reg) (b : Reg) (nat : Bool)
  /-- `BFI`: bit field insert (R103). -/
  | bfi (d : Reg) (a : Reg) (b : Reg) (c : Reg)
  /-- `BFI_W`: bit field insert (R103), wide. -/
  | bfiW (d : Reg) (a : Reg) (b : Reg) (c : Reg)
  /-- `CLZ`: count leading zeros (R103). -/
  | clz (d : Reg) (a : Reg)
  /-- `CLZ_W`: count leading zeros (R103), wide. -/
  | clzW (d : Reg) (a : Reg)
  /-- `POPC`: count ones (R103). -/
  | popc (d : Reg) (a : Reg)
  /-- `POPC_W`: count ones (R103), wide. -/
  | popcW (d : Reg) (a : Reg)
  /-- `BREV`: reverse bits (R103). -/
  | brev (d : Reg) (a : Reg)
  /-- `BREV_W`: reverse bits (R103), wide. -/
  | brevW (d : Reg) (a : Reg)
  /-- `PRMT`: permute bytes (R104). -/
  | prmt (d : Reg) (a : Reg) (b : Reg) (c : Reg)
  /-- `PRMT_W`: permute bytes (R104), wide. -/
  | prmtW (d : Reg) (a : Reg) (b : Reg) (c : Reg)
  /-- `ICMP`: integer compare (R105). -/
  | icmp (d : Reg) (a : Reg) (b : Reg) (cc : ICond)
  /-- `ICMP_IMM`: integer compare (R105), immediate. -/
  | icmpImm (d : Reg) (a : Reg) (imm : Word) (cc : ICond)
  /-- `ICMP_W`: integer compare (R105), wide. -/
  | icmpW (d : Reg) (a : Reg) (b : Reg) (cc : ICond)
  /-- `ICMP_W_IMM`: integer compare (R105), wide immediate. -/
  | icmpWImm (d : Reg) (a : Reg) (imm : Word) (cc : ICond)
  /-- `SEL`: select by predicate (R106). -/
  | sel (d : Reg) (a : Reg) (b : Reg) (c : Reg)
  /-- `SEL_W`: select by predicate (R106), wide. -/
  | selW (d : Reg) (a : Reg) (b : Reg) (c : Reg)
  /-- `LEA`: address arithmetic (R107). -/
  | lea (d : Reg) (a : Reg) (b : Reg) (sh : BitVec 3)
  /-- `LEA_W`: wide address arithmetic (R107). -/
  | leaW (d : Reg) (a : Reg) (b : Reg) (sh : BitVec 3) (nat : Bool)
  /-- `MOVI`: move immediate (R120). -/
  | movi (d : Reg) (imm : Word)
  /-- `MOVI_W`: move immediate to a pair (R120). -/
  | moviW (d : Reg) (imm : Word)
  /-- `FADD`: fp32 arithmetic (R108). -/
  | fadd (d : Reg) (a : Reg) (b : Reg) (rm : Rnd)
  /-- `FADD_IMM`: fp32 arithmetic, immediate (R108). -/
  | faddImm (d : Reg) (a : Reg) (imm : Word) (rm : Rnd)
  /-- `FSUB`: fp32 arithmetic (R108). -/
  | fsub (d : Reg) (a : Reg) (b : Reg) (rm : Rnd)
  /-- `FMUL`: fp32 arithmetic (R108). -/
  | fmul (d : Reg) (a : Reg) (b : Reg) (rm : Rnd)
  /-- `FMUL_IMM`: fp32 arithmetic, immediate (R108). -/
  | fmulImm (d : Reg) (a : Reg) (imm : Word) (rm : Rnd)
  /-- `FFMA`: fused multiply add (R108). -/
  | ffma (d : Reg) (a : Reg) (b : Reg) (c : Reg) (rm : Rnd)
  /-- `FMIN`: fp32 minimumNumber or maximumNumber (R48, R108). -/
  | fmin (d : Reg) (a : Reg) (b : Reg)
  /-- `FMIN_IMM`: the same with an immediate (R108). -/
  | fminImm (d : Reg) (a : Reg) (imm : Word)
  /-- `FMAX`: fp32 minimumNumber or maximumNumber (R48, R108). -/
  | fmax (d : Reg) (a : Reg) (b : Reg)
  /-- `FMAX_IMM`: the same with an immediate (R108). -/
  | fmaxImm (d : Reg) (a : Reg) (imm : Word)
  /-- `FCMP`: fp32 compare (R109). -/
  | fcmp (d : Reg) (a : Reg) (b : Reg) (cc : FCond)
  /-- `FCMP_IMM`: fp32 compare with an immediate (R109). -/
  | fcmpImm (d : Reg) (a : Reg) (imm : Word) (cc : FCond)
  /-- `FCLASS`: class mask (R110). -/
  | fclass (d : Reg) (a : Reg)
  /-- `FRND`: round to integral (R111). -/
  | frnd (d : Reg) (a : Reg) (rm : Rnd)
  /-- `FRCP`: correctly rounded function (R49, R112). -/
  | frcp (d : Reg) (a : Reg) (rm : Rnd)
  /-- `FRSQ`: correctly rounded function (R49, R112). -/
  | frsq (d : Reg) (a : Reg) (rm : Rnd)
  /-- `FSQRT`: correctly rounded function (R49, R112). -/
  | fsqrt (d : Reg) (a : Reg) (rm : Rnd)
  /-- `FEXP2`: approximate function (R49, R112). -/
  | fexp2 (d : Reg) (a : Reg)
  /-- `FLOG2`: approximate function (R49, R112). -/
  | flog2 (d : Reg) (a : Reg)
  /-- `FSIN`: approximate function (R49, R112). -/
  | fsin (d : Reg) (a : Reg)
  /-- `FCOS`: approximate function (R49, R112). -/
  | fcos (d : Reg) (a : Reg)
  /-- `FTANH`: approximate function (R49, R112). -/
  | ftanh (d : Reg) (a : Reg)
  /-- `HADD2`: packed bf16 arithmetic (R113). -/
  | hadd2 (d : Reg) (a : Reg) (b : Reg) (rm : Rnd)
  /-- `HADD2_IMM`: packed bf16 arithmetic, immediate (R113). -/
  | hadd2Imm (d : Reg) (a : Reg) (imm : Word) (rm : Rnd)
  /-- `HMUL2`: packed bf16 arithmetic (R113). -/
  | hmul2 (d : Reg) (a : Reg) (b : Reg) (rm : Rnd)
  /-- `HMUL2_IMM`: packed bf16 arithmetic, immediate (R113). -/
  | hmul2Imm (d : Reg) (a : Reg) (imm : Word) (rm : Rnd)
  /-- `HFMA2`: packed bf16 fused multiply add (R113). -/
  | hfma2 (d : Reg) (a : Reg) (b : Reg) (c : Reg) (rm : Rnd)
  /-- `QDOT4`: four-element 8-bit float dot product (R114). -/
  | qdot4 (d : Reg) (a : Reg) (b : Reg) (c : Reg) (fa : QFmt) (fb : QFmt) (rm : Rnd)
  /-- `IDOT4`: four-element 8-bit integer dot product (R115). -/
  | idot4 (d : Reg) (a : Reg) (b : Reg) (c : Reg) (na : Bool) (nb : Bool)
  /-- `CVT`: conversion (R116, R117). -/
  | cvt (d : Reg) (a : Reg) (df : Fmt) (sf : Fmt) (rm : Rnd)
  /-- `CVT_PK`: packed conversion (R118). -/
  | cvtPk (d : Reg) (a : Reg) (b : Reg) (df : Fmt) (sf : Fmt) (rm : Rnd)
  /-- `PACK2`: pack two 16-bit elements (R119). -/
  | pack2 (d : Reg) (a : Reg) (b : Reg) (k : Pk2) (rm : Rnd)
  /-- `UNPK2`: unpack two 16-bit elements (R119). -/
  | unpk2 (d : Reg) (a : Reg) (k : Pk2)
  /-- `MOV`: copy data bits and tag (R120). -/
  | mov (d : Reg) (a : Reg)
  /-- `SYSR`: read a special register (R121). -/
  | sysr (d : Reg) (sr : SReg)
  /-- `NOP`: no effect (R121). -/
  | nop
  /-- `NEXT`: go to the target (R128). -/
  | next (disp : BitVec 36)
  /-- `BR`: branch by a predicate (R128). -/
  | br (a : Reg) (disp : BitVec 36) (z : Bool)
  /-- `BRX`: go to the address in a pair (R128). -/
  | brx (a : Reg)
  /-- `CALL`: link and go to the target (R128). -/
  | call (d : Reg) (disp : BitVec 36)
  /-- `CALLX`: link and go to the address in a pair (R128). -/
  | callx (d : Reg) (a : Reg)
  /-- `RET`: return through the link pair (R128). -/
  | ret (a : Reg)
  /-- `EXIT`: end the thread (R131). -/
  | exit
  /-- `REFILL`: pop a work item (R133, R134). -/
  | refill (d : Reg) (disp : BitVec 36)
  /-- `YIELD`: give way (R136). -/
  | yield (disp : BitVec 36)
  /-- `SYSCALL`: call the control cores (R137). -/
  | syscall (a : Reg) (n : BitVec 8) (disp : BitVec 36)
  /-- `BKPT`: breakpoint (R138). -/
  | bkpt (n : BitVec 8) (disp : BitVec 36)
  /-- `RBEGIN`: begin a region (R174). -/
  | rbegin (d : Reg) (disp : BitVec 36) (tx : Bool)
  /-- `COMMIT`: end the region (R175). -/
  | commit (a : Reg) (b : Reg) (replay : Bool)
  /-- `ABORT`: abort the region (R176). -/
  | abort (a : Reg)
  /-- `PTEST`: test poison (R177). -/
  | ptest (d : Reg) (a : Reg) (wide : Bool)
  /-- `PTOK`: take the token (R177). -/
  | ptok (d : Reg) (a : Reg) (wide : Bool)
  /-- `PREAD`: read a poison record (R178). -/
  | pread (d : Reg) (a : Reg)
  /-- `PMAKE`: make poison (R179). -/
  | pmake (d : Reg) (a : Reg) (tok : Bool)
  /-- `CHKERR`: read the check-interval register (R180). -/
  | chkerr (d : Reg) (keep : Bool)
  /-- `GRED`: group reduction (R199). -/
  | gred (d : Reg) (a : Reg) (c : Reg) (op : RedOp) (rm : Rnd)
  /-- `GSCAN`: group scan (R199). -/
  | gscan (d : Reg) (a : Reg) (c : Reg) (op : RedOp) (excl : Bool) (rm : Rnd)
  /-- `GSHF`: group shuffle (R200). -/
  | gshf (d : Reg) (a : Reg) (b : Reg) (mode : ShfMode)
  /-- `GBCAST`: group broadcast (R201). -/
  | gbcast (d : Reg) (a : Reg) (b : Reg)
  /-- `GRED_W`: group reduction (R199). -/
  | gredW (d : Reg) (a : Reg) (c : Reg) (op : RedOp) (rm : Rnd)
  /-- `GSCAN_W`: group scan (R199). -/
  | gscanW (d : Reg) (a : Reg) (c : Reg) (op : RedOp) (excl : Bool) (rm : Rnd)
  /-- `GSHF_W`: group shuffle (R200). -/
  | gshfW (d : Reg) (a : Reg) (b : Reg) (mode : ShfMode)
  /-- `GBCAST_W`: group broadcast (R201). -/
  | gbcastW (d : Reg) (a : Reg) (b : Reg)
  /-- `GVOTE`: group vote (R202). -/
  | gvote (d : Reg) (a : Reg) (c : Reg) (mode : VoteMode)
  /-- `REGSIZE`: resize the register allocation (R191). -/
  | regsize (d : Reg) (a : Reg) (tryIt : Bool)
  /-- `BARINIT`: initialise a barrier object (R203). -/
  | barinit (a : Reg) (b : Reg) (c : Reg)
  /-- `ARRIVE`: arrive at a barrier object (R203). -/
  | arrive (d : Reg) (a : Reg) (b : Reg) (mo : MemOrder)
  /-- `WAITPH`: wait for a phase (R203). -/
  | waitph (d : Reg) (a : Reg) (b : Reg) (mo : MemOrder)
  /-- `TESTPH`: test a phase (R203). -/
  | testph (d : Reg) (a : Reg) (b : Reg) (mo : MemOrder)
  /-- `LD`: flat load (R217). -/
  | ld (d : Reg) (a : Reg) (off : BitVec 16) (sz : Size) (cp : CPol) (sx : Bool) (mo : MemOrder)
  /-- `LD_REC`: load through a buffer record (R217). -/
  | ldRec (d : Reg) (a : Reg) (b : Reg) (off : BitVec 16) (sz : Size) (cp : CPol) (two : Bool) (mo : MemOrder)
  /-- `ST`: flat store (R218). -/
  | st (d : Reg) (a : Reg) (off : BitVec 16) (sz : Size) (cp : CPol) (mo : MemOrder)
  /-- `ST_REC`: store through a buffer record (R218). -/
  | stRec (d : Reg) (a : Reg) (b : Reg) (off : BitVec 16) (sz : Size) (cp : CPol) (two : Bool) (mo : MemOrder)
  /-- `LDS`: scratchpad load (R217). -/
  | lds (d : Reg) (a : Reg) (off : BitVec 16) (sz : Size) (sx : Bool) (mo : MemOrder)
  /-- `STS`: scratchpad store (R218). -/
  | sts (d : Reg) (a : Reg) (off : BitVec 16) (sz : Size) (mo : MemOrder)
  /-- `LDREC`: load a buffer record (R219). -/
  | ldrec (d : Reg) (a : Reg) (off : BitVec 16) (cp : CPol) (spad : Bool) (mo : MemOrder)
  /-- `ATOM`: flat atomic (R220 to R224). -/
  | atom (d : Reg) (a : Reg) (b : Reg) (off : BitVec 16) (sz : Size) (cp : CPol) (op : AtomOp) (mo : MemOrder)
  /-- `ATOM_REC`: atomic through a buffer record (R220 to R224). -/
  | atomRec (d : Reg) (a : Reg) (b : Reg) (off : BitVec 16) (sz : Size) (cp : CPol) (op : AtomOp) (mo : MemOrder)
  /-- `ATOMS`: scratchpad atomic (R220 to R224). -/
  | atoms (d : Reg) (a : Reg) (b : Reg) (off : BitVec 16) (sz : Size) (op : AtomOp) (mo : MemOrder)
  /-- `PREF`: flat prefetch (R225). -/
  | pref (a : Reg) (off : BitVec 16) (cp : CPol)
  /-- `PREF_REC`: prefetch through a buffer record (R225). -/
  | prefRec (a : Reg) (b : Reg) (off : BitVec 16) (cp : CPol) (two : Bool)
  /-- `WAITCNT`: wait for counters (R226). -/
  | waitcnt (ldc : BitVec 8) (stc : BitVec 8) (cpc : BitVec 8) (mxc : BitVec 8)
  /-- `MXGO`: start a matrix operation (R254). -/
  | mxgo (d : Reg) (a : Reg) (tl : BitVec 3)
  /-- `MXRD`: read one element (R256). -/
  | mxrd (d : Reg) (a : Reg) (b : Reg) (tile : BitVec 2)
  /-- `MXWR`: write one element (R257). -/
  | mxwr (d : Reg) (a : Reg) (b : Reg) (tile : BitVec 2)
  /-- `CPGO`: start a copy (R272). -/
  | cpgo (d : Reg) (a : Reg) (tl : BitVec 3)
  /-- `ARRIVEX`: arrive on completion (R273). -/
  | arrivex (a : Reg) (b : Reg) (c : Reg) (tl : BitVec 3)
  /-- `TLREAD`: read a timeline (R274). -/
  | tlread (d : Reg) (tl : BitVec 3) (iss : Bool)
  /-- `TLWAIT`: wait for a timeline (R275). -/
  | tlwait (a : Reg) (tl : BitVec 3)
  /-- `CINV`: drop cached data (R305). -/
  | cinv (a : Reg) (b : Reg) (sc : Scope) (all : Bool)
  /-- `ICINV`: drop instruction copies (R306). -/
  | icinv (a : Reg) (b : Reg) (sc : Scope) (all : Bool)
  /-- `FREEZE`: freeze a range (R307). -/
  | freeze (d : Reg) (a : Reg) (b : Reg) (c : Reg) (tl : BitVec 3) (sc : Scope)
  /-- `THAW`: thaw a range (R308). -/
  | thaw (d : Reg) (a : Reg) (tl : BitVec 3)
  /-- `FENCE`: memory fence (R325). -/
  | fence (d : Reg) (mo : MemOrder)
  /-- `FORK`: push a task (R346). -/
  | fork (d : Reg) (a : Reg) (disp : BitVec 36) (reach : Reach)
  /-- `JOIN`: wait for a join counter (R347). -/
  | join (d : Reg) (a : Reg)
  /-- `LAUNCH`: launch from the device (R348). -/
  | launch (d : Reg) (a : Reg) (c : Reg) (tl : BitVec 3)
  /-- `XFER`: fabric transfer (R411). -/
  | xfer (d : Reg) (a : Reg) (tl : BitVec 3)
  /-- `SWALLOC`: allocate switch memory (R414). -/
  | swalloc (d : Reg) (a : Reg) (b : Reg) (c : Reg)
  /-- `SWFREE`: free switch memory (R415). -/
  | swfree (d : Reg) (a : Reg)
  /-- `IADD_PAIR`: pair word, half A: IADD (R71 to R78). -/
  | iaddPair (d : Reg) (b : Reg) (other : Half)
  /-- `ISUB_PAIR`: pair word, half A: ISUB (R71 to R78). -/
  | isubPair (d : Reg) (b : Reg) (other : Half)
  /-- `IMUL_PAIR`: pair word, half A: IMUL (R71 to R78). -/
  | imulPair (d : Reg) (b : Reg) (other : Half)
  /-- `IMIN_PAIR`: pair word, half A: IMIN (R71 to R78). -/
  | iminPair (nat : Bool) (d : Reg) (b : Reg) (other : Half)
  /-- `IMAX_PAIR`: pair word, half A: IMAX (R71 to R78). -/
  | imaxPair (nat : Bool) (d : Reg) (b : Reg) (other : Half)
  /-- `AND_PAIR`: pair word, half A: AND (R71 to R78). -/
  | andPair (d : Reg) (b : Reg) (other : Half)
  /-- `OR_PAIR`: pair word, half A: OR (R71 to R78). -/
  | orPair (d : Reg) (b : Reg) (other : Half)
  /-- `XOR_PAIR`: pair word, half A: XOR (R71 to R78). -/
  | xorPair (d : Reg) (b : Reg) (other : Half)
  /-- `ANDN_PAIR`: pair word, half A: ANDN (R71 to R78). -/
  | andnPair (d : Reg) (b : Reg) (other : Half)
  /-- `SHL_PAIR`: pair word, half A: SHL (R71 to R78). -/
  | shlPair (d : Reg) (b : Reg) (other : Half)
  /-- `SHR_PAIR`: pair word, half A: SHR (R71 to R78). -/
  | shrPair (d : Reg) (b : Reg) (other : Half)
  /-- `SHRA_PAIR`: pair word, half A: SHRA (R71 to R78). -/
  | shraPair (d : Reg) (b : Reg) (other : Half)
  /-- `ROTL_PAIR`: pair word, half A: ROTL (R71 to R78). -/
  | rotlPair (d : Reg) (b : Reg) (other : Half)
  /-- `ICMP_PAIR`: pair word, half A: ICMP (R71 to R78). -/
  | icmpPair (cc : ICond) (d : Reg) (b : Reg) (other : Half)
  /-- `MOV_PAIR`: pair word, half A: MOV (R71 to R78). -/
  | movPair (d : Reg) (b : Reg) (other : Half)
  /-- `IADD_PAIR_IMM`: pair word, half A: IADD immediate (R71 to R78). -/
  | iaddPairImm (d : Reg) (imm : BitVec 9) (other : Half)
  /-- `IMUL_PAIR_IMM`: pair word, half A: IMUL immediate (R71 to R78). -/
  | imulPairImm (d : Reg) (imm : BitVec 9) (other : Half)
  /-- `AND_PAIR_IMM`: pair word, half A: AND immediate (R71 to R78). -/
  | andPairImm (d : Reg) (imm : BitVec 9) (other : Half)
  /-- `OR_PAIR_IMM`: pair word, half A: OR immediate (R71 to R78). -/
  | orPairImm (d : Reg) (imm : BitVec 9) (other : Half)
  /-- `XOR_PAIR_IMM`: pair word, half A: XOR immediate (R71 to R78). -/
  | xorPairImm (d : Reg) (imm : BitVec 9) (other : Half)
  /-- `SHL_PAIR_IMM`: pair word, half A: SHL immediate (R71 to R78). -/
  | shlPairImm (d : Reg) (imm : BitVec 9) (other : Half)
  /-- `SHR_PAIR_IMM`: pair word, half A: SHR immediate (R71 to R78). -/
  | shrPairImm (d : Reg) (imm : BitVec 9) (other : Half)
  /-- `SHRA_PAIR_IMM`: pair word, half A: SHRA immediate (R71 to R78). -/
  | shraPairImm (d : Reg) (imm : BitVec 9) (other : Half)
  /-- `MOVI_PAIR`: pair word, half A: MOVI immediate (R71 to R78). -/
  | moviPair (d : Reg) (imm : BitVec 9) (other : Half)
  /-- `IABS_PAIR`: pair word, half A: IABS (R71 to R78). -/
  | iabsPair (d : Reg) (b : Reg) (other : Half)
  /-- `CLZ_PAIR`: pair word, half A: CLZ (R71 to R78). -/
  | clzPair (d : Reg) (b : Reg) (other : Half)
  /-- `POPC_PAIR`: pair word, half A: POPC (R71 to R78). -/
  | popcPair (d : Reg) (b : Reg) (other : Half)
  /-- `BREV_PAIR`: pair word, half A: BREV (R71 to R78). -/
  | brevPair (d : Reg) (b : Reg) (other : Half)
  /-- `FADD_PAIR`: pair word, half A: FADD (R71 to R78). -/
  | faddPair (rm : Rnd) (d : Reg) (b : Reg) (other : Half)
  /-- `FSUB_PAIR`: pair word, half A: FSUB (R71 to R78). -/
  | fsubPair (rm : Rnd) (d : Reg) (b : Reg) (other : Half)
  /-- `FMUL_PAIR`: pair word, half A: FMUL (R71 to R78). -/
  | fmulPair (rm : Rnd) (d : Reg) (b : Reg) (other : Half)
  /-- `FMIN_PAIR`: pair word, half A: FMIN (R71 to R78). -/
  | fminPair (d : Reg) (b : Reg) (other : Half)
  /-- `FMAX_PAIR`: pair word, half A: FMAX (R71 to R78). -/
  | fmaxPair (d : Reg) (b : Reg) (other : Half)
  /-- `FCMP_PAIR`: pair word, half A: FCMP (R71 to R78). -/
  | fcmpPair (cc : FCond) (d : Reg) (b : Reg) (other : Half)
  /-- `HADD2_PAIR`: pair word, half A: HADD2 (R71 to R78). -/
  | hadd2Pair (rm : Rnd) (d : Reg) (b : Reg) (other : Half)
  /-- `HMUL2_PAIR`: pair word, half A: HMUL2 (R71 to R78). -/
  | hmul2Pair (rm : Rnd) (d : Reg) (b : Reg) (other : Half)
  /-- `FRCP_PAIR`: pair word, half A: FRCP (R71 to R78). -/
  | frcpPair (rm : Rnd) (d : Reg) (b : Reg) (other : Half)
  /-- `FRSQ_PAIR`: pair word, half A: FRSQ (R71 to R78). -/
  | frsqPair (rm : Rnd) (d : Reg) (b : Reg) (other : Half)
  /-- `FSQRT_PAIR`: pair word, half A: FSQRT (R71 to R78). -/
  | fsqrtPair (rm : Rnd) (d : Reg) (b : Reg) (other : Half)
  /-- `FEXP2_PAIR`: pair word, half A: FEXP2 (R71 to R78). -/
  | fexp2Pair (d : Reg) (b : Reg) (other : Half)
  /-- `FLOG2_PAIR`: pair word, half A: FLOG2 (R71 to R78). -/
  | flog2Pair (d : Reg) (b : Reg) (other : Half)
  /-- `FSIN_PAIR`: pair word, half A: FSIN (R71 to R78). -/
  | fsinPair (d : Reg) (b : Reg) (other : Half)
  /-- `FCOS_PAIR`: pair word, half A: FCOS (R71 to R78). -/
  | fcosPair (d : Reg) (b : Reg) (other : Half)
  /-- `FTANH_PAIR`: pair word, half A: FTANH (R71 to R78). -/
  | ftanhPair (d : Reg) (b : Reg) (other : Half)
  /-- `CVT_I32_FP32_PAIR`: pair word, half A: CVT_I32_FP32 (R71 to R78). -/
  | cvtI32Fp32Pair (rm : Rnd) (d : Reg) (b : Reg) (other : Half)
  /-- `CVT_FP32_I32_PAIR`: pair word, half A: CVT_FP32_I32 (R71 to R78). -/
  | cvtFp32I32Pair (rm : Rnd) (d : Reg) (b : Reg) (other : Half)
  /-- `ILLEGAL_WORD`: machine step (R79). -/
  | illegalWord
  /-- `FETCH_FAULT`: machine step (R80). -/
  | fetchFault (cause : Cause) (window : Bool)
  /-- `ISSUE_OPPORTUNITY`: machine step (R183). -/
  | issueOpportunity (core : Nat) (port : Nat)
  /-- `YIELD_ELIGIBLE`: machine step (R136). -/
  | yieldEligible (th : Nat)
  /-- `GROUP_UNPARK`: machine step (R185). -/
  | groupUnpark (g : Nat)
  /-- `RENDEZVOUS_COMPLETE`: machine step (R189). -/
  | rendezvousComplete (wg : Nat)
  /-- `REGSIZE_GRANT`: machine step (R191). -/
  | regsizeGrant (wg : Nat)
  /-- `REPLAY_RESUME`: machine step (R162). -/
  | replayResume (th : Nat)
  /-- `LOAD_RESULT`: machine step (R217). -/
  | loadResult (k : Nat)
  /-- `STORE_ACK`: machine step (R28). -/
  | storeAck (k : Nat)
  /-- `LATE_TAINT`: machine step (R155). -/
  | lateTaint (k : Nat)
  /-- `HOME_STORE`: machine step (R286). -/
  | homeStore (k : Nat)
  /-- `HOME_ATOMIC`: machine step (R222). -/
  | homeAtomic (k : Nat)
  /-- `CLUSTER_EVICTION`: machine step (R277). -/
  | clusterEviction (cl : Nat) (line : Nat)
  /-- `CLUSTER_INVALIDATION`: machine step (R277). -/
  | clusterInvalidation (m : Nat)
  /-- `CLUSTER_DOWNGRADE`: machine step (R294). -/
  | clusterDowngrade (m : Nat)
  /-- `DIR_READ`: machine step (R294). -/
  | dirRead (cl : Nat) (line : Nat)
  /-- `DIR_NOTICE`: machine step (R294). -/
  | dirNotice (m : Nat)
  /-- `DIR_PKG_INVALIDATION`: machine step (R294). -/
  | dirPkgInvalidation (m : Nat)
  /-- `DIR_RECALL`: machine step (R294). -/
  | dirRecall (die : Nat) (line : Nat)
  /-- `INVALIDATION_ACK`: machine step (R296). -/
  | invalidationAck (m : Nat)
  /-- `PKG_DIR_READ`: machine step (R295). -/
  | pkgDirRead (m : Nat)
  /-- `PKG_DIR_INVALIDATION`: machine step (R295). -/
  | pkgDirInvalidation (m : Nat)
  /-- `PKG_DIR_NOTICE`: machine step (R295). -/
  | pkgDirNotice (m : Nat)
  /-- `PKG_DIR_RECALL`: machine step (R295). -/
  | pkgDirRecall (line : Nat)
  /-- `TLB_WALK`: machine step (R359). -/
  | tlbWalk (core : Nat) (part : Nat) (va : DWord) (acc : AccKind)
  /-- `FAULT_QUEUE_DELIVER`: machine step (R368). -/
  | faultQueueDeliver (part : Nat)
  /-- `SERVICE_QUEUE_DELIVER`: machine step (R371). -/
  | serviceQueueDeliver (part : Nat)
  /-- `DEBUG_RELEASE`: machine step (R138). -/
  | debugRelease (who : Nat) (part : Nat) (reqid : Nat) (target : DWord)
  /-- `MX_MMA`: machine step (R238). -/
  | mxMma (turn : MxTurn)
  /-- `MX_DRAIN`: machine step (R242). -/
  | mxDrain (turn : MxTurn)
  /-- `MX_LOAD`: machine step (R243). -/
  | mxLoad (turn : MxTurn)
  /-- `MX_CLEAR`: machine step (R243). -/
  | mxClear (turn : MxTurn)
  /-- `MX_ELEMENT_ACCESS`: machine step (R256). -/
  | mxElementAccess (core : Nat)
  /-- `MX_OP_COMPLETE`: machine step (R232). -/
  | mxOpComplete (core : Nat) (k : Nat)
  /-- `TANDEM_TIMEOUT`: machine step (R246). -/
  | tandemTimeout (core : Nat) (k : Nat)
  /-- `COPY_START`: machine step (R262). -/
  | copyStart (core : Nat)
  /-- `COPY_CHUNK_DONE`: machine step (R266). -/
  | copyChunkDone (core : Nat) (k : Nat) (chunk : Nat)
  /-- `COPY_COMPLETE`: machine step (R269). -/
  | copyComplete (core : Nat) (k : Nat)
  /-- `DEFERRED_ARRIVAL`: machine step (R273). -/
  | deferredArrival (core : Nat) (k : Nat)
  /-- `DEQUE_TAKE`: machine step (R281). -/
  | dequeTake (core : Nat)
  /-- `DEQUE_SEARCH`: machine step (R282). -/
  | dequeSearch (core : Nat)
  /-- `FREEZE_COMPLETE`: machine step (R299). -/
  | freezeComplete (k : Nat)
  /-- `REPLICA_INVALIDATION`: machine step (R302). -/
  | replicaInvalidation (m : Nat)
  /-- `THAW_ACK`: machine step (R302). -/
  | thawAck (m : Nat)
  /-- `LAUNCH_PORT_PUSH`: machine step (R331). -/
  | launchPortPush (who : Nat) (q : Nat) (record : BitVec 512) (whole : Bool)
  /-- `LAUNCH_ACTIVATE`: machine step (R335). -/
  | launchActivate (q : Nat) (device : Bool)
  /-- `COHORT_PLACE`: machine step (R340). -/
  | cohortPlace
  /-- `COHORT_RESERVING`: machine step (R339). -/
  | cohortReserving (l : Nat)
  /-- `WORKGROUP_RETIRE`: machine step (R132). -/
  | workgroupRetire (wg : Nat)
  /-- `LAUNCH_COMPLETE`: machine step (R337). -/
  | launchComplete (l : Nat)
  /-- `PERSIST_CHARGE`: machine step (R341). -/
  | persistCharge (wg : Nat)
  /-- `BRIDLE_INTERVAL`: machine step (R350). -/
  | bridleInterval (cores : (List (Nat × Nat × Nat))) (weights : (List (Nat × Activity))) (hub : Nat)
  /-- `THERMAL_LIMIT`: machine step (R382). -/
  | thermalLimit (die : Nat) (temp : Nat)
  /-- `THERMAL_SHUTDOWN`: machine step (R382). -/
  | thermalShutdown (die : Nat) (temp : Nat)
  /-- `QUEUE_ABORT`: machine step (R352). -/
  | queueAbort (who : Nat) (q : Nat)
  /-- `QSTAT_CLEAR_DROPS`: machine step (R329). -/
  | qstatClearDrops (who : Nat) (q : Nat)
  /-- `PARTITION_PREEMPT`: machine step (R353). -/
  | partitionPreempt (who : Nat) (part : Nat)
  /-- `PARTITION_SAVED`: machine step (R353). -/
  | partitionSaved (part : Nat)
  /-- `PARTITION_RESUME`: machine step (R355). -/
  | partitionResume (who : Nat) (part : Nat)
  /-- `WORKGROUP_RESTORE`: machine step (R355). -/
  | workgroupRestore (wg : Nat)
  /-- `FLOOR_CLEAR`: machine step (R330). -/
  | floorClear (who : Nat) (part : Nat)
  /-- `PIRQ_CLEAR`: machine step (R364). -/
  | pirqClear (who : Nat) (part : Nat) (mask : DWord)
  /-- `TLBINV_PAGE`: machine step (R361). -/
  | tlbinvPage (who : Nat) (part : Nat) (va : DWord) (asid : Nat)
  /-- `TLBINV_ASID`: machine step (R361). -/
  | tlbinvAsid (who : Nat) (part : Nat) (asid : Nat)
  /-- `TLBINV_PARTITION`: machine step (R361). -/
  | tlbinvPartition (who : Nat) (part : Nat)
  /-- `TLBINV_COMPLETE`: machine step (R361). -/
  | tlbinvComplete (part : Nat)
  /-- `RSET_SERVICED`: machine step (R369). -/
  | rsetServiced (who : Nat) (part : Nat) (core : Nat) (idx : Nat) (gen : Nat)
  /-- `RSET_REFUSED`: machine step (R369). -/
  | rsetRefused (who : Nat) (part : Nat) (core : Nat) (idx : Nat) (gen : Nat)
  /-- `SCOMP_COMPLETE`: machine step (R372). -/
  | scompComplete (who : Nat) (part : Nat) (reqid : Nat) (mask : BitVec 8) (vals : (List Word)) (target : DWord)
  /-- `SCOMP_ABANDON`: machine step (R372). -/
  | scompAbandon (who : Nat) (part : Nat) (reqid : Nat)
  /-- `KEY_GENERATE`: machine step (R374). -/
  | keyGenerate (who : Nat) (slot : Nat)
  /-- `KEY_ERASE`: machine step (R365). -/
  | keyErase (who : Nat) (slot : Nat)
  /-- `PINMAP_WRITE`: machine step (R367). -/
  | pinmapWrite (who : Nat) (core : Nat) (map : BitVec 24)
  /-- `FLOWRES_RESUME`: machine step (R402). -/
  | flowresResume (who : Nat) (part : Nat) (sdev : Nat) (score : Nat) (stream : Nat)
  /-- `FLOWRES_ABORT`: machine step (R402). -/
  | flowresAbort (who : Nat) (part : Nat) (sdev : Nat) (score : Nat) (stream : Nat)
  /-- `SIGNAL_TIMELINE_WRITE`: machine step (R334). -/
  | signalTimelineWrite (who : Nat) (part : Nat) (idx : Nat) (value : DWord)
  /-- `REGISTER_WRITE`: machine step (R329). -/
  | registerWrite (who : Nat) (off : Nat) (value : DWord) (aligned : Bool)
  /-- `XFER_START`: machine step (R411). -/
  | xferStart
  /-- `FABRIC_REQUEST`: machine step (R397). -/
  | fabricRequest (pkt : Packet)
  /-- `XFER_PACKET`: machine step (R412). -/
  | xferPacket (pkt : Packet)
  /-- `FABRIC_REPLY`: machine step (R395). -/
  | fabricReply (r : Reply)
  /-- `FABRIC_RETRY`: machine step (R396). -/
  | fabricRetry (k : Nat)
  /-- `XFER_BUSY_RETRY`: machine step (R413). -/
  | xferBusyRetry (k : Nat)
  /-- `XFER_COMPLETE`: machine step (R413). -/
  | xferComplete (k : Nat)
  /-- `FLOW_RESUME_MESSAGE`: machine step (R402). -/
  | flowResumeMessage (f : FlowKey)
  /-- `FLOW_ABORT_MESSAGE`: machine step (R402). -/
  | flowAbortMessage (f : FlowKey)
  /-- `MIRROR_UPDATE`: machine step (R406). -/
  | mirrorUpdate (k : Nat)
  /-- `SWITCH_LOST`: machine step (R407). -/
  | switchLost (plane : Nat) (sw : Nat)
  /-- `DEVICE_LOST`: machine step (R400). -/
  | deviceLost (n : Nat)
  /-- `LOSS_NOTICE`: machine step (R400). -/
  | lossNotice (dest : Dest)
  /-- `PACKET_AGE_DISCARD`: machine step (R388). -/
  | packetAgeDiscard (pkt : Packet)
  /-- `FRAME_FEC_DROP`: machine step (R387). -/
  | frameFecDrop (pkt : Packet)
  /-- `LINK_LANE_FAILURE`: machine step (R387). -/
  | linkLaneFailure (plane : Nat) (lanes : Nat)
  /-- `LINK_TRAINED`: machine step (R386). -/
  | linkTrained (plane : Nat) (n : Nat)
  /-- `FLOW_STATE_EXPIRE`: machine step (R397). -/
  | flowStateExpire (f : FlowKey) (sdev : Nat)
  /-- `MODULE_RESET`: machine step (R8). -/
  | moduleReset
  /-- `POWER_ON`: machine step (R376). -/
  | powerOn (image : (List Byte)) (signature : (List Byte)) (cxl : (List Nat))
  /-- `POWER_OFF`: machine step (R383). -/
  | powerOff
  /-- `SPDM_REQUEST`: machine step (R378). -/
  | spdmRequest (call : SpdmCall)
  /-- `REDFISH_REQUEST`: machine step (R384). -/
  | redfishRequest (req : Redfish)
  /-- `DEBUG_UNLOCK`: machine step (R384). -/
  | debugUnlock (valid : Bool) (token : (List Byte))
  /-- `ECC_ERROR`: machine step (R379). -/
  | eccError (site : EccSite)
  /-- `PATROL_SCRUB`: machine step (R379). -/
  | patrolScrub
  /-- `CORE_OFFLINE`: machine step (R380). -/
  | coreOffline (core : Nat)
  /-- `THERMAL_LIMIT_END`: machine step (R382). -/
  | thermalLimitEnd (die : Nat) (temps : (List Nat))
  /-- `SWITCH_REJOIN`: machine step (R407). -/
  | switchRejoin (plane : Nat) (sw : Nat)
  /-- `REMOTE_UNACKED_BOUND`: machine step (R319). -/
  | remoteUnackedBound (th : Nat)
  deriving DecidableEq, Repr

end Sys2Proof
end

