-- ==== Sys2Proof/Config.lean ====
section
/-! DEFINITION. What the spec leaves to a part: free values. Nothing in Lean can evaluate them; a statement about one holds whatever
it is. -/

namespace Sys2Proof

/-- The approximate functions (R49). -/
inductive ApproxFn | exp2 | log2 | sin | cos | tanh
  deriving DecidableEq, Repr

/-- What a part returns for an approximate function at an operand that R49 gives no exact result for: the same on every execution,
taken where it lies within R49's bound (log 12). -/
opaque Config.approx : ApproxFn → Word → Word

/-- The set of a cluster cache, of a core's L1, of a die directory and of the package directory that a line falls into (R208, R276, R292, R293;
log 107). -/
opaque Config.clusterSet : Nat → Nat
opaque Config.l1Set : Nat → Nat
opaque Config.dirSet : Nat → Nat
opaque Config.pkgSet : Nat → Nat

/-- The number of ways of an L1 is the power of two with this exponent modulo 12 (R208; log 107). -/
opaque Config.l1WayBits : Nat

/-- A free word drawn with a counter of State (log 10). -/
opaque Config.freeWord : Nat → Word

/-- A free choice drawn with a counter of State (log 10). -/
opaque Config.freeBool : Nat → Bool

/-- A free byte drawn with a counter of State (log 10). -/
opaque Config.freeByte : Nat → Byte

/-- The bytes that a manager's write of a configuration register adds to its partition's measurement, by the register's offset and the
value written (R377, log 29). -/
opaque Config.partitionData : Nat → BitVec 64 → List Byte

/-- What else the root of trust answers to an attestation request over given measurements: digests, certificates and the like (R378, log 30). -/
opaque Config.attest : Nat → List (List Byte) → List Byte

/-- The bytes of the alias key's signature of an answer over given measurements (R378, log 30). -/
opaque Config.signature : Nat → List (List Byte) → Nat → Byte

/-- Whether a stage of a boot verifies the next one's image: given the signature that comes with it: the first stage's under the key of the fused digest (R376, log 30). -/
opaque Config.bootVerifies : Nat → List Byte → List Byte → Bool

/-- What the management port reports of inventory and telemetry (R384, log 30). -/
opaque Config.report : Nat → List Nat

end Sys2Proof
end

