-- ==== Sys2Proof/Machine/Approx.lean ====
section
/-! DEFINITION. The exact values of the approximate functions, close enough to tell what lies within R49's bound: numbers in fixed point with 640
fraction bits, given as (c, s) for c × 2^s. Their error is below 2^−600, and the exact value of an fp32 argument, which is no dyadic number, lies farther
than that from every number that is a whole number of units from an fp32 number, sin x and tanh x of the least argument by some 2^−449; so that c tells
on which side of the bound a result lies. -/

namespace Sys2Proof.Machine

/-- 1 in fixed point. -/
def fixOne : Nat := 2 ^ 640

/-- The exponential series from its term of index k on. -/
def expSum (t : Nat) : Nat → Nat → Nat → Nat
  | 0, _, _ => 0
  | n + 1, k, term => term + expSum t n (k + 1) (term * t / fixOne / (k + 1))

/-- The series of the inverse hyperbolic tangent from its term of odd index k on, p being w to that power. -/
def atanhSum (w : Nat) : Nat → Nat → Nat → Nat
  | 0, _, _ => 0
  | n + 1, k, p => p / k + atanhSum w n (k + 2) (p * w / fixOne * w / fixOne)

/-- The natural logarithm of z, 1 ≤ z ≤ 2. -/
def lnFix (z : Nat) : Nat :=
  let w := (z - fixOne) * fixOne / (z + fixOne)
  2 * atanhSum w 220 1 w

def ln2Fix : Nat := lnFix (2 * fixOne)

/-- The series of the inverse tangent of 1/q from its term of odd index k on. -/
def atanSum (q : Nat) : Nat → Nat → Int → Int
  | 0, _, _ => 0
  | n + 1, k, p => p / k - atanSum q n (k + 2) (p / (q * q))

/-- π with 1,280 fraction bits, by Machin's formula. -/
def piFix : Int := 16 * atanSum 5 290 1 (2 ^ 1280 / 5) - 4 * atanSum 239 90 1 (2 ^ 1280 / 239)

/-- The series of sine or cosine from its term of index k on, for the square of the argument. -/
def circSum (t2 : Int) : Nat → Int → Int → Int
  | 0, _, _ => 0
  | n + 1, k, term => term - circSum t2 n (k + 2) (term * t2 / 2 ^ 640 / ((k + 1) * (k + 2)))

/-- m × 2^e in fixed point, for e from −640 up; an fp32 value has e from −149 up. -/
def toFix (neg : Bool) (m : Nat) (e : Int) : Int :=
  let x : Int := ((m <<< (e + 640).toNat : Nat) : Int)
  if neg then -x else x

/-- 2^x for x in fixed point; below 2^−1,000 the exponent is cut. -/
def exp2Fix (x : Int) : Int × Int :=
  let r := (x % 2 ^ 640).toNat
  ((expSum (r * ln2Fix / fixOne) 140 0 fixOne : Nat), max (x / 2 ^ 640) (-1000) - 640)

/-- log2 of m × 2^e, m not 0. -/
def log2Fix (m : Nat) (e : Int) : Int × Int :=
  let z := (m <<< 640) >>> m.log2
  ((e + m.log2) * 2 ^ 640 + (lnFix z * fixOne / ln2Fix : Nat), -640)

/-- sin x, or with one quarter turn more cos x, for x = m × 2^e: the argument reduced by the quarter turns that it holds. -/
def circFix (quarter : Nat) (m : Nat) (e : Int) : Int × Int :=
  let x : Int := ((m <<< (e + 1280).toNat : Nat) : Int)
  let h := piFix / 2
  let r := x % h / 2 ^ 640
  let t2 := r * r / 2 ^ 640
  let k := ((x / h).toNat + quarter) % 4
  let v := if k % 2 = 0 then circSum t2 100 1 r else circSum t2 100 0 (2 ^ 640)
  (if 2 ≤ k then -v else v, -640)

/-- tanh of m × 2^e: below 1 by what the exponential leaves. -/
def tanhFix (m : Nat) (e : Int) : Int × Int :=
  let x := toFix false m e
  if 256 * 2 ^ 640 ≤ x then (2 ^ 640 - 1, -640)
  else
    let y := exp2Fix (-(2 * x * 2 ^ 640 / ln2Fix))
    let u : Int := (y.1.toNat >>> (-640 - y.2).toNat : Nat)
    (min ((2 ^ 640 - u) * 2 ^ 640 / (2 ^ 640 + u)) (2 ^ 640 - 1), -640)

end Sys2Proof.Machine
end

