-- ==== Sys2Proof/Machine/Rules.lean ====
section
/-! DEFINITION. What the entries of the instructions say of their fields: which registers each field names (R22, R64, R70, R215,
R221) and the combinations that are no instruction (R72, R79, R98). -/

namespace Sys2Proof.Machine

/-- The FMT code of R30. -/
def fmtCode : Fmt → BitVec 8
  | .x8 => 0x00#8 | .x16 => 0x01#8 | .x32 => 0x02#8 | .x64 => 0x03#8 | .x128 => 0x04#8
  | .i8 => 0x10#8 | .i16 => 0x11#8 | .i32 => 0x12#8 | .i64 => 0x13#8
  | .n8 => 0x18#8 | .n16 => 0x19#8 | .n32 => 0x1A#8 | .n64 => 0x1B#8
  | .fp32 => 0x20#8 | .bf16 => 0x21#8 | .e4m3 => 0x22#8 | .e5m2 => 0x23#8

/-- The format of an FMT code, if R30 lists it. -/
def fmtOfCode (c : BitVec 8) : Option Fmt :=
  match c.toNat with
  | 0x00 => some .x8 | 0x01 => some .x16 | 0x02 => some .x32 | 0x03 => some .x64 | 0x04 => some .x128
  | 0x10 => some .i8 | 0x11 => some .i16 | 0x12 => some .i32 | 0x13 => some .i64
  | 0x18 => some .n8 | 0x19 => some .n16 | 0x1A => some .n32 | 0x1B => some .n64
  | 0x20 => some .fp32 | 0x21 => some .bf16 | 0x22 => some .e4m3 | 0x23 => some .e5m2
  | _ => none

end Sys2Proof.Machine

namespace Sys2Proof

/-- Element bytes of a format (R30). -/
def Fmt.bytes : Fmt → Nat
  | .x8 | .i8 | .n8 | .e4m3 | .e5m2 => 1
  | .x16 | .i16 | .n16 | .bf16 => 2
  | .x32 | .i32 | .n32 | .fp32 => 4
  | .x64 | .i64 | .n64 => 8
  | .x128 => 16

/-- Whether a format is a bit string with no numeric meaning (R43). -/
def Fmt.isRaw : Fmt → Bool
  | .x8 | .x16 | .x32 | .x64 | .x128 => true
  | _ => false

/-- Whether a format is a floating format (R41). -/
def Fmt.isFloat : Fmt → Bool
  | .fp32 | .bf16 | .e4m3 | .e5m2 => true
  | _ => false

/-- Bytes of an access (R67). -/
def Size.bytes : Size → Nat
  | .x8 => 1 | .x16 => 2 | .x32 => 4 | .x64 => 8 | .x128 => 16

/-- Registers that hold a value of a size: one, a pair or a quad (R43, R215). -/
def Size.regs : Size → Nat
  | .x8 | .x16 | .x32 => 1
  | .x64 => 2
  | .x128 => 4

end Sys2Proof

namespace Sys2Proof.Machine

/-- What a field does with its registers. -/
inductive Role
  | src | dst
  /-- The field names a register that the instruction neither reads nor writes now (TOKREG of RBEGIN). -/
  | named
  deriving DecidableEq, Repr

/-- One register field: its first register, how many registers it names, the multiple its number must be, and its role. -/
structure RegUse where
  reg : Nat
  n : Nat
  align : Nat
  role : Role
  deriving DecidableEq, Repr

def RegUse.src (r : Reg) (n : Nat) : RegUse := ⟨r.toNat, n, n, .src⟩
def RegUse.dst (r : Reg) (n : Nat) : RegUse := ⟨r.toNat, n, n, .dst⟩
def RegUse.named (r : Reg) (n : Nat) : RegUse := ⟨r.toNat, n, n, .named⟩

/-- The index and data registers that field B of ATOM through a record names (R221). -/
def atomRecUses (b : Reg) (sz : Size) (op : AtomOp) : List RegUse :=
  match sz, op with
  | .x64, .cas => [⟨b.toNat, 1, 2, .src⟩, ⟨b.toNat + 2, 4, 2, .src⟩]
  | .x64, _ => [⟨b.toNat, 1, 2, .src⟩, ⟨b.toNat + 2, 2, 2, .src⟩]
  | _, .cas => [⟨b.toNat, 3, 2, .src⟩]
  | _, _ => [⟨b.toNat, 2, 2, .src⟩]

/-- The register fields of one half: D is read by the binary forms and written by all (R71, R74). -/
def halfUses (readsD : Bool) (d : Reg) (b : Option Reg) : List RegUse :=
  (if readsD then [RegUse.src d 1] else []) ++ (match b with | some r => [RegUse.src r 1] | none => []) ++ [RegUse.dst d 1]

/-- Whether a half computes D := D op B or D := D op imm (R74). -/
def halfReadsD : HalfOp → Bool
  | .mov | .movi _ | .iabs | .clz | .popc | .brev | .frcp _ | .frsq _ | .fsqrt _ | .fexp2 | .flog2 | .fsin | .fcos | .ftanh
  | .cvtI32Fp32 _ | .cvtFp32I32 _ => false
  | _ => true

/-- Whether a half's form has no B field (R74). -/
def halfIsImm : HalfOp → Bool
  | .iaddImm _ | .imulImm _ | .andImm _ | .orImm _ | .xorImm _ | .shlImm _ | .shrImm _ | .shraImm _ | .movi _ => true
  | _ => false

def otherUses (h : Half) : List RegUse :=
  halfUses (halfReadsD h.op) h.d (if halfIsImm h.op then none else some h.b)


/-- Every register field of an instruction, sources in field order A, B, C (R94), with the width its entry gives the field. -/
def usesOf : Instr → List RegUse
  | .iadd d a b => [RegUse.dst d 1, RegUse.src a 1, RegUse.src b 1]
  | .iaddImm d a _ => [RegUse.dst d 1, RegUse.src a 1]
  | .iaddW d a b => [RegUse.dst d 2, RegUse.src a 2, RegUse.src b 2]
  | .iaddWImm d a _ => [RegUse.dst d 2, RegUse.src a 2]
  | .isub d a b => [RegUse.dst d 1, RegUse.src a 1, RegUse.src b 1]
  | .isubW d a b => [RegUse.dst d 2, RegUse.src a 2, RegUse.src b 2]
  | .imul d a b => [RegUse.dst d 1, RegUse.src a 1, RegUse.src b 1]
  | .imulImm d a _ => [RegUse.dst d 1, RegUse.src a 1]
  | .imulW d a b => [RegUse.dst d 2, RegUse.src a 2, RegUse.src b 2]
  | .imulWImm d a _ => [RegUse.dst d 2, RegUse.src a 2]
  | .imulhi d a b _ => [RegUse.dst d 1, RegUse.src a 1, RegUse.src b 1]
  | .imulhiW d a b _ => [RegUse.dst d 2, RegUse.src a 2, RegUse.src b 2]
  | .imad d a b c => [RegUse.dst d 1, RegUse.src a 1, RegUse.src b 1, RegUse.src c 1]
  | .imadW d a b c => [RegUse.dst d 2, RegUse.src a 2, RegUse.src b 2, RegUse.src c 2]
  | .imin d a b _ => [RegUse.dst d 1, RegUse.src a 1, RegUse.src b 1]
  | .iminImm d a _ _ => [RegUse.dst d 1, RegUse.src a 1]
  | .iminW d a b _ => [RegUse.dst d 2, RegUse.src a 2, RegUse.src b 2]
  | .iminWImm d a _ _ => [RegUse.dst d 2, RegUse.src a 2]
  | .imax d a b _ => [RegUse.dst d 1, RegUse.src a 1, RegUse.src b 1]
  | .imaxImm d a _ _ => [RegUse.dst d 1, RegUse.src a 1]
  | .imaxW d a b _ => [RegUse.dst d 2, RegUse.src a 2, RegUse.src b 2]
  | .imaxWImm d a _ _ => [RegUse.dst d 2, RegUse.src a 2]
  | .iabs d a => [RegUse.dst d 1, RegUse.src a 1]
  | .iabsW d a => [RegUse.dst d 2, RegUse.src a 2]
  | .and d a b => [RegUse.dst d 1, RegUse.src a 1, RegUse.src b 1]
  | .andImm d a _ => [RegUse.dst d 1, RegUse.src a 1]
  | .andW d a b => [RegUse.dst d 2, RegUse.src a 2, RegUse.src b 2]
  | .andWImm d a _ => [RegUse.dst d 2, RegUse.src a 2]
  | .or d a b => [RegUse.dst d 1, RegUse.src a 1, RegUse.src b 1]
  | .orImm d a _ => [RegUse.dst d 1, RegUse.src a 1]
  | .orW d a b => [RegUse.dst d 2, RegUse.src a 2, RegUse.src b 2]
  | .orWImm d a _ => [RegUse.dst d 2, RegUse.src a 2]
  | .xor d a b => [RegUse.dst d 1, RegUse.src a 1, RegUse.src b 1]
  | .xorImm d a _ => [RegUse.dst d 1, RegUse.src a 1]
  | .xorW d a b => [RegUse.dst d 2, RegUse.src a 2, RegUse.src b 2]
  | .xorWImm d a _ => [RegUse.dst d 2, RegUse.src a 2]
  | .andn d a b => [RegUse.dst d 1, RegUse.src a 1, RegUse.src b 1]
  | .andnW d a b => [RegUse.dst d 2, RegUse.src a 2, RegUse.src b 2]
  | .shl d a b => [RegUse.dst d 1, RegUse.src a 1, RegUse.src b 1]
  | .shlImm d a _ => [RegUse.dst d 1, RegUse.src a 1]
  | .shlW d a b => [RegUse.dst d 2, RegUse.src a 2, RegUse.src b 1]
  | .shlWImm d a _ => [RegUse.dst d 2, RegUse.src a 2]
  | .shr d a b => [RegUse.dst d 1, RegUse.src a 1, RegUse.src b 1]
  | .shrImm d a _ => [RegUse.dst d 1, RegUse.src a 1]
  | .shrW d a b => [RegUse.dst d 2, RegUse.src a 2, RegUse.src b 1]
  | .shrWImm d a _ => [RegUse.dst d 2, RegUse.src a 2]
  | .shra d a b => [RegUse.dst d 1, RegUse.src a 1, RegUse.src b 1]
  | .shraImm d a _ => [RegUse.dst d 1, RegUse.src a 1]
  | .shraW d a b => [RegUse.dst d 2, RegUse.src a 2, RegUse.src b 1]
  | .shraWImm d a _ => [RegUse.dst d 2, RegUse.src a 2]
  | .rotl d a b => [RegUse.dst d 1, RegUse.src a 1, RegUse.src b 1]
  | .rotlImm d a _ => [RegUse.dst d 1, RegUse.src a 1]
  | .rotlW d a b => [RegUse.dst d 2, RegUse.src a 2, RegUse.src b 1]
  | .rotlWImm d a _ => [RegUse.dst d 2, RegUse.src a 2]
  | .shf d a b c _ => [RegUse.dst d 1, RegUse.src a 1, RegUse.src b 1, RegUse.src c 1]
  | .shfW d a b c _ => [RegUse.dst d 2, RegUse.src a 2, RegUse.src b 2, RegUse.src c 1]
  | .bfx d a b _ => [RegUse.dst d 1, RegUse.src a 1, RegUse.src b 1]
  | .bfxW d a b _ => [RegUse.dst d 2, RegUse.src a 2, RegUse.src b 1]
  | .bfi d a b c => [RegUse.dst d 1, RegUse.src a 1, RegUse.src b 1, RegUse.src c 1]
  | .bfiW d a b c => [RegUse.dst d 2, RegUse.src a 2, RegUse.src b 1, RegUse.src c 2]
  | .clz d a => [RegUse.dst d 1, RegUse.src a 1]
  | .clzW d a => [RegUse.dst d 1, RegUse.src a 2]
  | .popc d a => [RegUse.dst d 1, RegUse.src a 1]
  | .popcW d a => [RegUse.dst d 1, RegUse.src a 2]
  | .brev d a => [RegUse.dst d 1, RegUse.src a 1]
  | .brevW d a => [RegUse.dst d 2, RegUse.src a 2]
  | .prmt d a b c => [RegUse.dst d 1, RegUse.src a 1, RegUse.src b 1, RegUse.src c 1]
  | .prmtW d a b c => [RegUse.dst d 2, RegUse.src a 2, RegUse.src b 2, RegUse.src c 1]
  | .icmp d a b _ => [RegUse.dst d 1, RegUse.src a 1, RegUse.src b 1]
  | .icmpImm d a _ _ => [RegUse.dst d 1, RegUse.src a 1]
  | .icmpW d a b _ => [RegUse.dst d 1, RegUse.src a 2, RegUse.src b 2]
  | .icmpWImm d a _ _ => [RegUse.dst d 1, RegUse.src a 2]
  | .sel d a b c => [RegUse.dst d 1, RegUse.src a 1, RegUse.src b 1, RegUse.src c 1]
  | .selW d a b c => [RegUse.dst d 2, RegUse.src a 2, RegUse.src b 2, RegUse.src c 1]
  | .lea d a b _ => [RegUse.dst d 1, RegUse.src a 1, RegUse.src b 1]
  | .leaW d a b _ _ => [RegUse.dst d 2, RegUse.src a 2, RegUse.src b 1]
  | .movi d _ => [RegUse.dst d 1]
  | .moviW d _ => [RegUse.dst d 2]
  | .fadd d a b _ => [RegUse.dst d 1, RegUse.src a 1, RegUse.src b 1]
  | .faddImm d a _ _ => [RegUse.dst d 1, RegUse.src a 1]
  | .fsub d a b _ => [RegUse.dst d 1, RegUse.src a 1, RegUse.src b 1]
  | .fmul d a b _ => [RegUse.dst d 1, RegUse.src a 1, RegUse.src b 1]
  | .fmulImm d a _ _ => [RegUse.dst d 1, RegUse.src a 1]
  | .ffma d a b c _ => [RegUse.dst d 1, RegUse.src a 1, RegUse.src b 1, RegUse.src c 1]
  | .fmin d a b => [RegUse.dst d 1, RegUse.src a 1, RegUse.src b 1]
  | .fminImm d a _ => [RegUse.dst d 1, RegUse.src a 1]
  | .fmax d a b => [RegUse.dst d 1, RegUse.src a 1, RegUse.src b 1]
  | .fmaxImm d a _ => [RegUse.dst d 1, RegUse.src a 1]
  | .fcmp d a b _ => [RegUse.dst d 1, RegUse.src a 1, RegUse.src b 1]
  | .fcmpImm d a _ _ => [RegUse.dst d 1, RegUse.src a 1]
  | .fclass d a => [RegUse.dst d 1, RegUse.src a 1]
  | .frnd d a _ => [RegUse.dst d 1, RegUse.src a 1]
  | .frcp d a _ => [RegUse.dst d 1, RegUse.src a 1]
  | .frsq d a _ => [RegUse.dst d 1, RegUse.src a 1]
  | .fsqrt d a _ => [RegUse.dst d 1, RegUse.src a 1]
  | .fexp2 d a => [RegUse.dst d 1, RegUse.src a 1]
  | .flog2 d a => [RegUse.dst d 1, RegUse.src a 1]
  | .fsin d a => [RegUse.dst d 1, RegUse.src a 1]
  | .fcos d a => [RegUse.dst d 1, RegUse.src a 1]
  | .ftanh d a => [RegUse.dst d 1, RegUse.src a 1]
  | .hadd2 d a b _ => [RegUse.dst d 1, RegUse.src a 1, RegUse.src b 1]
  | .hadd2Imm d a _ _ => [RegUse.dst d 1, RegUse.src a 1]
  | .hmul2 d a b _ => [RegUse.dst d 1, RegUse.src a 1, RegUse.src b 1]
  | .hmul2Imm d a _ _ => [RegUse.dst d 1, RegUse.src a 1]
  | .hfma2 d a b c _ => [RegUse.dst d 1, RegUse.src a 1, RegUse.src b 1, RegUse.src c 1]
  | .qdot4 d a b c _ _ _ => [RegUse.dst d 1, RegUse.src a 1, RegUse.src b 1, RegUse.src c 1]
  | .idot4 d a b c _ _ => [RegUse.dst d 1, RegUse.src a 1, RegUse.src b 1, RegUse.src c 1]
  | .cvt d a df sf _ => [RegUse.dst d (if df.bytes = 8 then 2 else 1), RegUse.src a (if sf.bytes = 8 then 2 else 1)]
  | .cvtPk d a b df _ _ => if df = .bf16 then [RegUse.dst d 2, RegUse.src a 1] else [RegUse.dst d 1, RegUse.src a 1, RegUse.src b 1]
  | .pack2 d a b _ _ => [RegUse.dst d 1, RegUse.src a 1, RegUse.src b 1]
  | .unpk2 d a _ => [RegUse.dst d 2, RegUse.src a 1]
  | .mov d a => [RegUse.dst d 1, RegUse.src a 1]
  | .sysr d sr => [RegUse.dst d (if sr = .clk then 2 else 1)]
  | .nop => []
  | .next _ => []
  | .br a _ _ => [RegUse.src a 1]
  | .brx a => [RegUse.src a 2]
  | .call d _ => [RegUse.dst d 2]
  | .callx d a => [RegUse.dst d 2, RegUse.src a 2]
  | .ret a => [RegUse.src a 2]
  | .exit => []
  | .refill d _ => [RegUse.dst d 2]
  | .yield _ => []
  | .syscall a _ _ => [RegUse.src a 8]
  | .bkpt _ _ => []
  | .rbegin d _ _ => [RegUse.named d 1]
  | .commit a b _ => [RegUse.src a 1, RegUse.src b 1]
  | .abort a => [RegUse.src a 1]
  | .ptest d a wide => [RegUse.dst d 1, RegUse.src a (if wide then 2 else 1)]
  | .ptok d a wide => [RegUse.dst d 1, RegUse.src a (if wide then 2 else 1)]
  | .pread d a => [RegUse.dst d 8, RegUse.src a 1]
  | .pmake d a tok => [RegUse.dst d 1, RegUse.src a (if tok then 1 else 2)]
  | .chkerr d _ => [RegUse.dst d 2]
  | .gred d a c _ _ => [RegUse.dst d 1, RegUse.src a 1, RegUse.src c 1]
  | .gscan d a c _ _ _ => [RegUse.dst d 1, RegUse.src a 1, RegUse.src c 1]
  | .gshf d a b _ => [RegUse.dst d 1, RegUse.src a 1, RegUse.src b 1]
  | .gbcast d a b => [RegUse.dst d 1, RegUse.src a 1, RegUse.src b 1]
  | .gredW d a c _ _ => [RegUse.dst d 2, RegUse.src a 2, RegUse.src c 1]
  | .gscanW d a c _ _ _ => [RegUse.dst d 2, RegUse.src a 2, RegUse.src c 1]
  | .gshfW d a b _ => [RegUse.dst d 2, RegUse.src a 2, RegUse.src b 1]
  | .gbcastW d a b => [RegUse.dst d 2, RegUse.src a 2, RegUse.src b 1]
  | .gvote d a c _ => [RegUse.dst d 1, RegUse.src a 1, RegUse.src c 1]
  | .regsize d a _ => [RegUse.dst d 1, RegUse.src a 1]
  | .barinit a b c => [RegUse.src a 1, RegUse.src b 1, RegUse.src c 1]
  | .arrive d a b _ => [RegUse.dst d 1, RegUse.src a 1, RegUse.src b 1]
  | .waitph d a b _ => [RegUse.dst d 1, RegUse.src a 1, RegUse.src b 1]
  | .testph d a b _ => [RegUse.dst d 1, RegUse.src a 1, RegUse.src b 1]
  | .ld d a _ sz _ _ _ => [RegUse.dst d sz.regs, RegUse.src a 2]
  | .ldRec d a b _ sz _ two _ => [RegUse.dst d sz.regs, RegUse.src a 8, RegUse.src b (if two then 2 else 1)]
  | .st d a _ sz _ _ => [RegUse.src a 2, RegUse.src d sz.regs]
  | .stRec d a b _ sz _ two _ => [RegUse.src a 8, RegUse.src b (if two then 2 else 1), RegUse.src d sz.regs]
  | .lds d a _ sz _ _ => [RegUse.dst d sz.regs, RegUse.src a 1]
  | .sts d a _ sz _ => [RegUse.src a 1, RegUse.src d sz.regs]
  | .ldrec d a _ _ spad _ => [RegUse.dst d 8, RegUse.src a (if spad then 1 else 2)]
  | .atom d a b _ sz _ op _ => [RegUse.dst d sz.regs, RegUse.src a 2, RegUse.src b (if op = .cas then 2 * sz.regs else sz.regs)]
  | .atomRec d a b _ sz _ op _ => [RegUse.dst d sz.regs, RegUse.src a 8] ++ atomRecUses b sz op
  | .atoms d a b _ sz op _ => [RegUse.dst d sz.regs, RegUse.src a 1, RegUse.src b (if op = .cas then 2 * sz.regs else sz.regs)]
  | .pref a _ _ => [RegUse.src a 2]
  | .prefRec a b _ _ two => [RegUse.src a 8, RegUse.src b (if two then 2 else 1)]
  | .waitcnt _ _ _ _ => []
  | .mxgo d a _ => [RegUse.dst d 2, RegUse.src a 1]
  | .mxrd d a b _ => [RegUse.dst d 1, RegUse.src a 1, RegUse.src b 1]
  | .mxwr d a b _ => [RegUse.src a 1, RegUse.src b 1, RegUse.src d 1]
  | .cpgo d a _ => [RegUse.dst d 2, RegUse.src a 1]
  | .arrivex a b c _ => [RegUse.src a 1, RegUse.src b 2, RegUse.src c 1]
  | .tlread d _ _ => [RegUse.dst d 2]
  | .tlwait a _ => [RegUse.src a 2]
  | .cinv a b _ _ => [RegUse.src a 2, RegUse.src b 1]
  | .icinv a b _ _ => [RegUse.src a 2, RegUse.src b 1]
  | .freeze d a b c _ _ => [RegUse.dst d 2, RegUse.src a 2, RegUse.src b 1, RegUse.dst c 1]
  | .thaw d a _ => [RegUse.dst d 2, RegUse.src a 1]
  | .fence d _ => [RegUse.dst d 1]
  | .fork d a _ _ => [RegUse.dst d 1, RegUse.src a 8]
  | .join d a => [RegUse.dst d 1, RegUse.src a 2]
  | .launch d a c _ => [RegUse.dst d 2, RegUse.src a 1, RegUse.dst c 1]
  | .xfer d a _ => [RegUse.dst d 2, RegUse.src a 8]
  | .swalloc d a b c => [RegUse.dst d 2, RegUse.src a 1, RegUse.src b 1, RegUse.dst c 1]
  | .swfree d a => [RegUse.dst d 1, RegUse.src a 2]
  | .iaddPair d b o => halfUses true d (some b) ++ otherUses o
  | .isubPair d b o => halfUses true d (some b) ++ otherUses o
  | .imulPair d b o => halfUses true d (some b) ++ otherUses o
  | .iminPair _ d b o => halfUses true d (some b) ++ otherUses o
  | .imaxPair _ d b o => halfUses true d (some b) ++ otherUses o
  | .andPair d b o => halfUses true d (some b) ++ otherUses o
  | .orPair d b o => halfUses true d (some b) ++ otherUses o
  | .xorPair d b o => halfUses true d (some b) ++ otherUses o
  | .andnPair d b o => halfUses true d (some b) ++ otherUses o
  | .shlPair d b o => halfUses true d (some b) ++ otherUses o
  | .shrPair d b o => halfUses true d (some b) ++ otherUses o
  | .shraPair d b o => halfUses true d (some b) ++ otherUses o
  | .rotlPair d b o => halfUses true d (some b) ++ otherUses o
  | .icmpPair _ d b o => halfUses true d (some b) ++ otherUses o
  | .movPair d b o => halfUses false d (some b) ++ otherUses o
  | .iaddPairImm d _ o => halfUses true d none ++ otherUses o
  | .imulPairImm d _ o => halfUses true d none ++ otherUses o
  | .andPairImm d _ o => halfUses true d none ++ otherUses o
  | .orPairImm d _ o => halfUses true d none ++ otherUses o
  | .xorPairImm d _ o => halfUses true d none ++ otherUses o
  | .shlPairImm d _ o => halfUses true d none ++ otherUses o
  | .shrPairImm d _ o => halfUses true d none ++ otherUses o
  | .shraPairImm d _ o => halfUses true d none ++ otherUses o
  | .moviPair d _ o => halfUses false d none ++ otherUses o
  | .iabsPair d b o => halfUses false d (some b) ++ otherUses o
  | .clzPair d b o => halfUses false d (some b) ++ otherUses o
  | .popcPair d b o => halfUses false d (some b) ++ otherUses o
  | .brevPair d b o => halfUses false d (some b) ++ otherUses o
  | .faddPair _ d b o => halfUses true d (some b) ++ otherUses o
  | .fsubPair _ d b o => halfUses true d (some b) ++ otherUses o
  | .fmulPair _ d b o => halfUses true d (some b) ++ otherUses o
  | .fminPair d b o => halfUses true d (some b) ++ otherUses o
  | .fmaxPair d b o => halfUses true d (some b) ++ otherUses o
  | .fcmpPair _ d b o => halfUses true d (some b) ++ otherUses o
  | .hadd2Pair _ d b o => halfUses true d (some b) ++ otherUses o
  | .hmul2Pair _ d b o => halfUses true d (some b) ++ otherUses o
  | .frcpPair _ d b o => halfUses false d (some b) ++ otherUses o
  | .frsqPair _ d b o => halfUses false d (some b) ++ otherUses o
  | .fsqrtPair _ d b o => halfUses false d (some b) ++ otherUses o
  | .fexp2Pair d b o => halfUses false d (some b) ++ otherUses o
  | .flog2Pair d b o => halfUses false d (some b) ++ otherUses o
  | .fsinPair d b o => halfUses false d (some b) ++ otherUses o
  | .fcosPair d b o => halfUses false d (some b) ++ otherUses o
  | .ftanhPair d b o => halfUses false d (some b) ++ otherUses o
  | .cvtI32Fp32Pair _ d b o => halfUses false d (some b) ++ otherUses o
  | .cvtFp32I32Pair _ d b o => halfUses false d (some b) ++ otherUses o
  | _ => []

/-- Whether every register field holds a number that its width allows: even for a pair, a multiple of 4 for a quad, of 8 for an
octet (R22, R70, R215, R221). -/
def alignedUses (u : List RegUse) : Bool := u.all fun x => x.reg % x.align = 0

/-- The scope of an ordering, if it names one. -/
def scopeOf : MemOrder → Option Scope
  | .none => none
  | .acq s | .rel s | .acqrel s => some s

/-- An ordering that is none or, at one of the scopes, an acquire. -/
def acqOnly (local_ : Bool) : MemOrder → Bool
  | .none => true
  | .acq s => !local_ || s = .grp || s = .core
  | _ => false

/-- An ordering that is none or, at one of the scopes, a release. -/
def relOnly (local_ : Bool) : MemOrder → Bool
  | .none => true
  | .rel s => !local_ || s = .grp || s = .core
  | _ => false

/-- Any ordering; at .grp or .core where the access is to the scratchpad (R216). -/
def anyOrder (local_ : Bool) (mo : MemOrder) : Bool :=
  match scopeOf mo with
  | none => true
  | some s => !local_ || s = .grp || s = .core

/-- The operation and size of an atomic (R220). -/
def atomOk (sz : Size) (op : AtomOp) : Bool :=
  match op with
  | .fadd | .fmin | .fmax => sz = .x32
  | _ => sz = .x32 || sz = .x64

/-- A rounding code that only `.fadd` takes (R198). -/
def redRnd (op : RedOp) (rm : Rnd) : Bool := op = .fadd || rm = .rne

/-- An operator with a wide form (R198). -/
def redWide (op : RedOp) : Bool := op ≠ .fadd && op ≠ .fmin && op ≠ .fmax

/-- A format pair of CVT (R117). -/
def cvtOk (df sf : Fmt) (rm : Rnd) : Bool :=
  df ≠ .x128 && sf ≠ .x128 && df.isRaw = sf.isRaw && (rm = .rne || df.isFloat || sf.isFloat)

/-- An 8-bit element format of CVT pk (R118). -/
def pk8 (f : Fmt) : Bool := f = .e4m3 || f = .e5m2 || f = .i8 || f = .n8

/-- The two combinations of CVT pk (R118); the second reads only A and does not round. -/
def cvtPkOk (df sf : Fmt) (b : Reg) (rm : Rnd) : Bool :=
  (pk8 df && sf = .bf16) || (df = .bf16 && pk8 sf && b = 0 && rm = .rne)

/-- A limit of WAITCNT (R226). -/
def waitLimit (l : BitVec 8) : Bool := l.toNat < 64 || l.toNat = 255

/-- The rules of R72 on two halves that the registers alone decide: banks and distinct destinations, and a zero B field in a form
that does not read it. -/
def pairOk (x y : Half) : Bool :=
  x.d.toNat % 4 ≠ y.d.toNat % 4 && x.b.toNat % 4 ≠ y.b.toNat % 4 && x.d ≠ y.d
    && (!halfIsImm x.op || x.b = 0) && (!halfIsImm y.op || y.b = 0)

/-- The scopes of CINV and ICINV (R304). -/
def cinvScope (sc : Scope) : Bool := sc = .core || sc = .clu || sc = .die || sc = .pkg

/-- The combinations of modifiers and operands that the entry of each full instruction allows (R79, R98, R117 to R119, R174, R198,
R215, R216, R220, R226, R304, R324). -/
def entryRules : Instr → Bool
  | .cvt _ _ df sf rm => cvtOk df sf rm
  | .cvtPk _ _ b df sf rm => cvtPkOk df sf b rm
  | .pack2 _ _ _ k rm => k = .bf16 || rm = .rne
  | .rbegin d _ _ => d ≠ 0
  | .gred _ _ _ op rm => redRnd op rm
  | .gredW _ _ _ op rm => redWide op && rm = .rne
  | .gscan _ _ _ op _ rm => redRnd op rm
  | .gscanW _ _ _ op _ rm => redWide op && rm = .rne
  | .arrive _ _ _ mo => relOnly true mo
  | .waitph _ _ _ mo => acqOnly true mo
  | .testph _ _ _ mo => acqOnly true mo
  | .ld _ _ _ sz _ sx mo => (!sx || sz = .x8 || sz = .x16) && acqOnly false mo
  | .ldRec _ _ _ _ _ _ _ mo => acqOnly false mo
  | .st _ _ _ _ _ mo => relOnly false mo
  | .stRec _ _ _ _ _ _ _ mo => relOnly false mo
  | .lds _ _ _ sz sx mo => (!sx || sz = .x8 || sz = .x16) && acqOnly true mo
  | .sts _ _ _ _ mo => relOnly true mo
  | .ldrec _ _ _ cp spad mo => (!spad || cp = .norm) && acqOnly spad mo
  | .atom _ _ _ _ sz _ op mo => atomOk sz op && anyOrder false mo
  | .atomRec _ _ _ _ sz _ op mo => atomOk sz op && anyOrder false mo
  | .atoms _ _ _ _ sz op mo => atomOk sz op && anyOrder true mo
  | .waitcnt a b c d => waitLimit a && waitLimit b && waitLimit c && waitLimit d
  | .cinv a b sc all => cinvScope sc && (!all || (a = 0 && b = 0))
  | .icinv a b sc all => cinvScope sc && (!all || (a = 0 && b = 0))
  | .freeze _ _ _ _ _ sc => sc = .pkg || sc = .sys
  | .fence _ mo => mo ≠ .none
  | _ => true

/-- The rules of R72 on a pair word. -/
def pairRules : Instr → Bool
  | .iaddPair d b o => pairOk ⟨.iadd, d, b⟩ o
  | .isubPair d b o => pairOk ⟨.isub, d, b⟩ o
  | .imulPair d b o => pairOk ⟨.imul, d, b⟩ o
  | .iminPair nat d b o => pairOk ⟨.imin nat, d, b⟩ o
  | .imaxPair nat d b o => pairOk ⟨.imax nat, d, b⟩ o
  | .andPair d b o => pairOk ⟨.and, d, b⟩ o
  | .orPair d b o => pairOk ⟨.or, d, b⟩ o
  | .xorPair d b o => pairOk ⟨.xor, d, b⟩ o
  | .andnPair d b o => pairOk ⟨.andn, d, b⟩ o
  | .shlPair d b o => pairOk ⟨.shl, d, b⟩ o
  | .shrPair d b o => pairOk ⟨.shr, d, b⟩ o
  | .shraPair d b o => pairOk ⟨.shra, d, b⟩ o
  | .rotlPair d b o => pairOk ⟨.rotl, d, b⟩ o
  | .icmpPair cc d b o => pairOk ⟨.icmp cc, d, b⟩ o
  | .movPair d b o => pairOk ⟨.mov, d, b⟩ o
  | .iaddPairImm d imm o => pairOk ⟨.iaddImm imm, d, 0⟩ o
  | .imulPairImm d imm o => pairOk ⟨.imulImm imm, d, 0⟩ o
  | .andPairImm d imm o => pairOk ⟨.andImm imm, d, 0⟩ o
  | .orPairImm d imm o => pairOk ⟨.orImm imm, d, 0⟩ o
  | .xorPairImm d imm o => pairOk ⟨.xorImm imm, d, 0⟩ o
  | .shlPairImm d imm o => pairOk ⟨.shlImm imm, d, 0⟩ o
  | .shrPairImm d imm o => pairOk ⟨.shrImm imm, d, 0⟩ o
  | .shraPairImm d imm o => pairOk ⟨.shraImm imm, d, 0⟩ o
  | .moviPair d imm o => pairOk ⟨.movi imm, d, 0⟩ o
  | .iabsPair d b o => pairOk ⟨.iabs, d, b⟩ o
  | .clzPair d b o => pairOk ⟨.clz, d, b⟩ o
  | .popcPair d b o => pairOk ⟨.popc, d, b⟩ o
  | .brevPair d b o => pairOk ⟨.brev, d, b⟩ o
  | .faddPair rm d b o => pairOk ⟨.fadd rm, d, b⟩ o
  | .fsubPair rm d b o => pairOk ⟨.fsub rm, d, b⟩ o
  | .fmulPair rm d b o => pairOk ⟨.fmul rm, d, b⟩ o
  | .fminPair d b o => pairOk ⟨.fmin, d, b⟩ o
  | .fmaxPair d b o => pairOk ⟨.fmax, d, b⟩ o
  | .fcmpPair cc d b o => pairOk ⟨.fcmp cc, d, b⟩ o
  | .hadd2Pair rm d b o => pairOk ⟨.hadd2 rm, d, b⟩ o
  | .hmul2Pair rm d b o => pairOk ⟨.hmul2 rm, d, b⟩ o
  | .frcpPair rm d b o => pairOk ⟨.frcp rm, d, b⟩ o
  | .frsqPair rm d b o => pairOk ⟨.frsq rm, d, b⟩ o
  | .fsqrtPair rm d b o => pairOk ⟨.fsqrt rm, d, b⟩ o
  | .fexp2Pair d b o => pairOk ⟨.fexp2, d, b⟩ o
  | .flog2Pair d b o => pairOk ⟨.flog2, d, b⟩ o
  | .fsinPair d b o => pairOk ⟨.fsin, d, b⟩ o
  | .fcosPair d b o => pairOk ⟨.fcos, d, b⟩ o
  | .ftanhPair d b o => pairOk ⟨.ftanh, d, b⟩ o
  | .cvtI32Fp32Pair rm d b o => pairOk ⟨.cvtI32Fp32 rm, d, b⟩ o
  | .cvtFp32I32Pair rm d b o => pairOk ⟨.cvtFp32I32 rm, d, b⟩ o
  | _ => true

end Sys2Proof.Machine
end

