-- ==== Sys2Proof/Machine/Float.lean ====
section
/-! DEFINITION. Number formats and their arithmetic (R41 to R62): values are exact dyadic numbers, every operation computes exactly
and rounds once. -/

namespace Sys2Proof.Machine

/-- A floating value: `fin neg m e` is (−1)^neg × m × 2^e, and m = 0 is a zero of that sign (R41, R42). -/
inductive FVal
  | nan
  | inf (neg : Bool)
  | fin (neg : Bool) (m : Nat) (e : Int)
  deriving DecidableEq, Repr

/-- What a finite value beyond the largest finite value becomes: the IEEE result of the mode, the largest finite value (R51), or
an infinity (R55). -/
inductive Overflow | ieee | saturate | infinity
  deriving DecidableEq, Repr

/-- A floating layout (R41, R42): exponent and fraction bits, bias, the largest finite magnitude's bits, the canonical NaN and
whether the format has infinities. -/
structure FFmt where
  ebits : Nat
  fbits : Nat
  bias : Nat
  maxBits : Nat
  nanBits : Nat
  hasInf : Bool
  overflow : Overflow
  deriving DecidableEq, Repr

/-- Bits below the sign. -/
def FFmt.magBits (f : FFmt) : Nat := f.ebits + f.fbits

def fp32 : FFmt := ⟨8, 23, 127, 0x7F7FFFFF, 0x7FC00000, true, .ieee⟩
def bf16 : FFmt := ⟨8, 7, 127, 0x7F7F, 0x7FC0, true, .ieee⟩
def e5m2 : FFmt := ⟨5, 2, 15, 0x7B, 0x7E, true, .saturate⟩
def e4m3 : FFmt := ⟨4, 3, 7, 0x7E, 0x7F, false, .saturate⟩
/-- The array's own format (R55). -/
def as25 : FFmt := ⟨8, 16, 127, 0xFEFFFF, 0xFF8000, true, .infinity⟩

/-- The magnitude bits of an infinity. -/
def FFmt.infBits (f : FFmt) : Nat := (2 ^ f.ebits - 1) <<< f.fbits

/-- The value of a magnitude's bits (R41): m × 2^e. -/
def FFmt.magnitude (f : FFmt) (mag : Nat) : Nat × Int :=
  let E := mag >>> f.fbits
  let F := mag % 2 ^ f.fbits
  if E = 0 then (F, 1 - (f.bias : Int) - f.fbits) else (2 ^ f.fbits + F, (E : Int) - f.bias - f.fbits)

/-- The value of an encoding (R41, R42). -/
def FFmt.decode (f : FFmt) (bits : Nat) : FVal :=
  let neg := bits.testBit f.magBits
  let mag := bits % 2 ^ f.magBits
  if f.hasInf && mag = f.infBits then .inf neg
  else if f.maxBits < mag then .nan
  else let v := f.magnitude mag; .fin neg v.1 v.2

def FFmt.sign (f : FFmt) (neg : Bool) (mag : Nat) : Nat := if neg then 2 ^ f.magBits + mag else mag

/-- m × 2^(−s) rounded to an integer in a mode, for a value of the given sign (R45). -/
def roundShift (rm : Rnd) (neg : Bool) (m s : Nat) : Nat :=
  let q := m >>> s
  let r := m % 2 ^ s
  let up := match rm with
    | .rne => 2 ^ s < 2 * r || (2 ^ s = 2 * r && q % 2 = 1)
    | .rz => false
    | .rdn => neg && r ≠ 0
    | .rup => !neg && r ≠ 0
  if up then q + 1 else q

/-- Magnitude bits of m × 2^e rounded to a format with an unbounded exponent range (R51); m is not zero. -/
def FFmt.roundMag (f : FFmt) (rm : Rnd) (neg : Bool) (m : Nat) (e : Int) : Nat :=
  let E := e + m.log2
  let emin := 1 - (f.bias : Int)
  let q := (if E < emin then emin else E) - f.fbits
  let k := if q ≤ e then m <<< (e - q).toNat else roundShift rm neg m (q - e).toNat
  k + ((q - (emin - f.fbits)).toNat <<< f.fbits)

/-- Whether a nonzero m × 2^e exceeds the largest finite value of the format. -/
def FFmt.beyond (f : FFmt) (m : Nat) (e : Int) : Bool :=
  let v := f.magnitude f.maxBits
  if e ≤ v.2 then v.1 <<< (v.2 - e).toNat < m else v.1 < m <<< (e - v.2).toNat

/-- Round(x, f, mode) (R45, R46, R51, R55). -/
def FFmt.round (f : FFmt) (rm : Rnd) : FVal → Nat
  | .nan => f.nanBits
  | .inf neg => f.sign neg (if f.hasInf then f.infBits else f.maxBits)
  | .fin neg 0 _ => f.sign neg 0
  | .fin neg m e =>
    let mag := f.roundMag rm neg m e
    match f.overflow with
    | .infinity => f.sign neg (if f.beyond m e then f.infBits else mag)
    | .saturate => f.sign neg (min mag f.maxBits)
    | .ieee =>
      if mag ≤ f.maxBits then f.sign neg mag
      else match rm, neg with
        | .rz, _ | .rdn, false | .rup, true => f.sign neg f.maxBits
        | _, _ => f.sign neg f.infBits

/-- The value of a rounding, for chains of operations. -/
def FFmt.roundV (f : FFmt) (rm : Rnd) (x : FVal) : FVal := f.decode (f.round rm x)

def FVal.isNaN : FVal → Bool
  | .nan => true
  | _ => false

def FVal.neg : FVal → FVal
  | .nan => .nan
  | .inf n => .inf (!n)
  | .fin n m e => .fin (!n) m e

/-- The exact product (R45, R46). -/
def FVal.mul : FVal → FVal → FVal
  | .nan, _ | _, .nan => .nan
  | .inf a, .inf b => .inf (a != b)
  | .inf a, .fin b m _ => if m = 0 then .nan else .inf (a != b)
  | .fin a m _, .inf b => if m = 0 then .nan else .inf (a != b)
  | .fin a m e, .fin b n g => .fin (a != b) (m * n) (e + g)

/-- m × 2^e as an integer at the exponent g ≤ e. -/
def FVal.intAt (neg : Bool) (m : Nat) (e g : Int) : Int :=
  let k : Int := ((m <<< (e - g).toNat : Nat) : Int)
  if neg then -k else k

/-- The exact sum; the zero of a cancellation is +0, in .rdn −0, and a sum of zeros of one sign keeps it (R46). -/
def FVal.add (rm : Rnd) : FVal → FVal → FVal
  | .nan, _ | _, .nan => .nan
  | .inf a, .inf b => if a = b then .inf a else .nan
  | .inf a, .fin .. => .inf a
  | .fin .., .inf b => .inf b
  | .fin a m e, .fin b n g =>
    let h := if e ≤ g then e else g
    let t := FVal.intAt a m e h + FVal.intAt b n g h
    if t = 0 then .fin (if m = 0 && n = 0 && a = b then a else rm = .rdn) 0 0
    else .fin (t < 0) t.natAbs h

/-! fp32 arithmetic on encodings (R45 to R48, R108). -/

def f32 (x : Word) : FVal := fp32.decode x.toNat
def toF32 (rm : Rnd) (x : FVal) : Word := BitVec.ofNat 32 (fp32.round rm x)

def fadd (rm : Rnd) (a b : Word) : Word := toF32 rm ((f32 a).add rm (f32 b))
def fsub (rm : Rnd) (a b : Word) : Word := toF32 rm ((f32 a).add rm (f32 b).neg)
def fmul (rm : Rnd) (a b : Word) : Word := toF32 rm ((f32 a).mul (f32 b))
def ffma (rm : Rnd) (a b c : Word) : Word := toF32 rm (((f32 a).mul (f32 b)).add rm (f32 c))

/-- Whether x is less than y, neither a NaN; −0 and +0 are equal. -/
def FVal.lt : FVal → FVal → Bool
  | .nan, _ | _, .nan => false
  | .inf a, .inf b => a && !b
  | .inf a, .fin .. => a
  | .fin .., .inf b => !b
  | .fin a m e, .fin b n g =>
    let h := if e ≤ g then e else g
    FVal.intAt a m e h < FVal.intAt b n g h

/-- The sign of a value that is not a NaN. -/
def FVal.isNeg : FVal → Bool
  | .nan => false
  | .inf n => n
  | .fin n _ _ => n

/-- The total order of R48, in which −0 lies below +0. -/
def FVal.below (x y : FVal) : Bool := x.lt y || (!y.lt x && x.isNeg && !y.isNeg)

/-- minimumNumber (R48). -/
def fmin (a b : Word) : Word :=
  match (f32 a).isNaN, (f32 b).isNaN with
  | true, true => 0x7FC00000#32
  | true, false => b
  | false, true => a
  | false, false => if (f32 b).below (f32 a) then b else a

/-- maximumNumber (R48). -/
def fmax (a b : Word) : Word :=
  match (f32 a).isNaN, (f32 b).isNaN with
  | true, true => 0x7FC00000#32
  | true, false => b
  | false, true => a
  | false, false => if (f32 a).below (f32 b) then b else a

/-- FCLASS's mask (R110). -/
def fclass (a : Word) : Word :=
  let bitOf (k : Nat) : Word := BitVec.ofNat 32 (2 ^ k)
  match f32 a with
  | .nan => if a.getLsbD 22 then bitOf 9 else bitOf 8
  | .inf neg => if neg then bitOf 0 else bitOf 7
  | .fin neg m _ =>
    if m = 0 then (if neg then bitOf 3 else bitOf 4)
    else if a.toNat / 2 ^ 23 % 256 = 0 then (if neg then bitOf 2 else bitOf 5)
    else if neg then bitOf 1 else bitOf 6

/-- The magnitude of m × 2^e rounded to an integer in a mode (R51, R111). -/
def roundInt (rm : Rnd) (neg : Bool) (m : Nat) (e : Int) : Nat :=
  if 0 ≤ e then m <<< e.toNat else roundShift rm neg m (-e).toNat

/-- FRND (R111). -/
def frnd (rm : Rnd) (a : Word) : Word :=
  match f32 a with
  | .nan => 0x7FC00000#32
  | .inf _ => a
  | .fin neg m e => if 0 ≤ e then a else toF32 rm (.fin neg (roundInt rm neg m e) 0)

/-- The integer part of the square root of n, by one bit for each unit of fuel. -/
def isqrtLoop (n : Nat) : Nat → Nat → Nat
  | 0, r => r
  | k + 1, r =>
    let t := r + 2 ^ k
    isqrtLoop n k (if t * t ≤ n then t else r)

def isqrt (n : Nat) : Nat := isqrtLoop n (n.log2 / 2 + 1) 0

/-- A value known to lie at q × 2^e, or strictly between it and the next, as a dyadic number that rounds alike (one more bit). -/
def sticky (neg : Bool) (q : Nat) (exact : Bool) (e : Int) : FVal := .fin neg (2 * q + if exact then 0 else 1) (e - 1)

/-- FRCP (R49). -/
def frcp (rm : Rnd) (a : Word) : Word :=
  match f32 a with
  | .nan => 0x7FC00000#32
  | .inf neg => toF32 rm (.fin neg 0 0)
  | .fin neg 0 _ => toF32 rm (.inf neg)
  | .fin neg m e =>
    let k := m.log2 + 40
    toF32 rm (sticky neg (2 ^ k / m) (2 ^ k % m = 0) (-(k : Int) - e))

/-- FSQRT (R49). -/
def fsqrt (rm : Rnd) (a : Word) : Word :=
  match f32 a with
  | .nan => 0x7FC00000#32
  | .inf neg => if neg then 0x7FC00000#32 else a
  | .fin _ 0 _ => a
  | .fin neg m e =>
    if neg then 0x7FC00000#32
    else
      let n := if e % 2 = 0 then m <<< 60 else m <<< 61
      let r := isqrt n
      toF32 rm (sticky false r (r * r = n) ((e - e % 2) / 2 - 30))

/-- FRSQ (R49). -/
def frsq (rm : Rnd) (a : Word) : Word :=
  match f32 a with
  | .nan => 0x7FC00000#32
  | .inf neg => if neg then 0x7FC00000#32 else 0#32
  | .fin neg 0 _ => toF32 rm (.inf neg)
  | .fin neg m e =>
    if neg then 0x7FC00000#32
    else
      let m' := if e % 2 = 0 then m else 2 * m
      let n := 2 ^ 120
      let r := isqrt (n / m')
      toF32 rm (sticky false r (r * r * m' = n) (-60 - (e - e % 2) / 2))

/-! Approximate functions: the special values and exact cases of R49; every other value is free within R49's bound. -/

/-- Exponent of a unit in the last place at the magnitude of c × 2^s (R49). -/
def ulpExp (c s : Int) : Int := max (-149) (s + c.natAbs.log2 - 23)

/-- Whether a value differs from c × 2^s by less than 2 units in the last place (R49; log 12). -/
def withinUlps (x : Int × Int) : FVal → Bool
  | .fin neg m e =>
    let u := ulpExp x.1 x.2
    let b := min (min x.2 e) u
    let d := (FVal.intAt neg m e b - x.1 * 2 ^ (x.2 - b).toNat).natAbs
    decide (d < 2 * 2 ^ (u - b).toNat)
  | _ => false

/-- What a part returns near c × 2^s: its own value where that is within the bound, and otherwise the nearest one (R49; log 12). -/
def approxNear (fn : ApproxFn) (a : Word) (x : Int × Int) : Word :=
  let v := Config.approx fn a
  if withinUlps x (f32 v) then v else toF32 .rne (.fin (decide (x.1 < 0)) x.1.natAbs x.2)

/-- x as an integer, if it is one. -/
def FVal.integer? : FVal → Option Int
  | .fin neg m e =>
    if 0 ≤ e then some (FVal.intAt neg m e 0)
    else if m % 2 ^ (-e).toNat = 0 then some (FVal.intAt neg (m >>> (-e).toNat) 0 0) else none
  | _ => none

def fexp2 (a : Word) : Word :=
  match f32 a with
  | .nan => 0x7FC00000#32
  | .inf neg => if neg then 0#32 else a
  | .fin neg m e =>
    if !(FVal.fin neg m e).lt (.fin false 128 0) then 0x7F800000#32
    else
      let near := approxNear .exp2 a (exp2Fix (toFix neg m e))
      match (FVal.fin neg m e).integer? with
      | some n => if -149 ≤ n then toF32 .rne (.fin false 1 n) else near
      | none => near

def flog2 (a : Word) : Word :=
  match f32 a with
  | .nan => 0x7FC00000#32
  | .inf neg => if neg then 0x7FC00000#32 else a
  | .fin _ 0 _ => 0xFF800000#32
  | .fin true _ _ => 0x7FC00000#32
  | .fin false m e =>
    if m = 2 ^ m.log2 then
      let n := e + m.log2
      toF32 .rne (.fin (n < 0) n.natAbs 0)
    else approxNear .log2 a (log2Fix m e)

def fsin (a : Word) : Word :=
  match f32 a with
  | .nan | .inf _ => 0x7FC00000#32
  | .fin _ 0 _ => a
  | .fin neg m e =>
    let x := circFix 0 m e
    approxNear .sin a (if neg then -x.1 else x.1, x.2)

def fcos (a : Word) : Word :=
  match f32 a with
  | .nan | .inf _ => 0x7FC00000#32
  | .fin _ 0 _ => 0x3F800000#32
  | .fin _ m e => approxNear .cos a (circFix 1 m e)

/-- FTANH; the free value is bounded so that its magnitude never exceeds 1 (R49). -/
def ftanh (a : Word) : Word :=
  match f32 a with
  | .nan => 0x7FC00000#32
  | .inf neg => if neg then 0xBF800000#32 else 0x3F800000#32
  | .fin _ 0 _ => a
  | .fin neg m e =>
    let x := tanhFix m e
    let v := approxNear .tanh a (if neg then -x.1 else x.1, x.2)
    if v.toNat % 2 ^ 31 ≤ 0x3F800000 then v else if neg then 0xBF800000#32 else 0x3F800000#32

/-! Packed and dot-product arithmetic (R50, R113 to R115). -/

def bf (x : BitVec 16) : FVal := bf16.decode x.toNat
def toBf (rm : Rnd) (x : FVal) : BitVec 16 := BitVec.ofNat 16 (bf16.round rm x)

def lo16 (x : Word) : BitVec 16 := x.setWidth 16
def hi16 (x : Word) : BitVec 16 := (x >>> 16).setWidth 16

def hadd2 (rm : Rnd) (a b : Word) : Word :=
  toBf rm ((bf (hi16 a)).add rm (bf (hi16 b))) ++ toBf rm ((bf (lo16 a)).add rm (bf (lo16 b)))

def hmul2 (rm : Rnd) (a b : Word) : Word :=
  toBf rm ((bf (hi16 a)).mul (bf (hi16 b))) ++ toBf rm ((bf (lo16 a)).mul (bf (lo16 b)))

def hfma2 (rm : Rnd) (a b c : Word) : Word :=
  toBf rm (((bf (hi16 a)).mul (bf (hi16 b))).add rm (bf (hi16 c)))
    ++ toBf rm (((bf (lo16 a)).mul (bf (lo16 b))).add rm (bf (lo16 c)))

/-- Byte k of a register. -/
def byteOf (x : Word) (k : Nat) : Byte := (x >>> (8 * k)).setWidth 8

def qval (f : QFmt) (b : Byte) : FVal :=
  match f with
  | .e4m3 => e4m3.decode b.toNat
  | .e5m2 => e5m2.decode b.toNat

/-- Sum of several terms, exact (R114). -/
def exactSum (rm : Rnd) (ts : List FVal) (x : FVal) : FVal := ts.foldl (fun s t => s.add rm t) x

/-- QDOT4 (R114): an exact zero sum of terms that are not all zeros of one sign is +0, in .rdn −0. -/
def qdot4 (fa fb : QFmt) (rm : Rnd) (a b c : Word) : Word :=
  let p (k : Nat) : FVal := (qval fa (byteOf a k)).mul (qval fb (byteOf b k))
  let ts := [p 0, p 1, p 2, p 3]
  let negZero : FVal → Bool := fun x => match x with | .fin true 0 _ => true | _ => false
  let posZero : FVal → Bool := fun x => match x with | .fin false 0 _ => true | _ => false
  match exactSum .rne ts (f32 c) with
  | .fin _ 0 _ =>
    toF32 rm (.fin (if (f32 c :: ts).all negZero then true else if (f32 c :: ts).all posZero then false else rm = .rdn) 0 0)
  | x => toF32 rm x

/-- An 8-bit element as an integer: i8, or n8 when natural (R115). -/
def elt8 (nat : Bool) (b : Byte) : Int := if nat then b.toNat else b.toInt

/-- IDOT4 (R115). -/
def idot4 (na nb : Bool) (a b c : Word) : Word :=
  let p (k : Nat) : Int := elt8 na (byteOf a k) * elt8 nb (byteOf b k)
  c + BitVec.ofInt 32 (p 0 + p 1 + p 2 + p 3)

/-! Conversions (R51, R116). -/

def fmtF : Fmt → FFmt
  | .bf16 => bf16
  | .e4m3 => e4m3
  | .e5m2 => e5m2
  | _ => fp32

/-- Whether an integer format is natural (R43). -/
def fmtNat : Fmt → Bool
  | .n8 | .n16 | .n32 | .n64 => true
  | _ => false

/-- The range of an integer format. -/
def fmtRange (f : Fmt) : Int × Int :=
  let w := 8 * f.bytes
  if fmtNat f then (0, 2 ^ w - 1) else (-(2 ^ (w - 1)), 2 ^ (w - 1) - 1)

/-- Saturation to an integer format (R51). -/
def saturate (f : Fmt) (x : Int) : Int :=
  let r := fmtRange f
  if x < r.1 then r.1 else if r.2 < x then r.2 else x

/-- The integer a format's bits hold (R43). -/
def intOf (f : Fmt) (bits : Nat) : Int :=
  let w := 8 * f.bytes
  let b : Nat := bits % 2 ^ w
  if !fmtNat f && b.testBit (w - 1) then (b : Int) - 2 ^ w else (b : Int)

/-- An exact integer as a floating value. -/
def ofInt (x : Int) : FVal := .fin (x < 0) x.natAbs 0

/-- A floating value as an integer of a format: rounded in mode, saturated, a NaN gives 0 (R51). -/
def toIntFmt (f : Fmt) (rm : Rnd) : FVal → Int
  | .nan => 0
  | .inf neg => if neg then (fmtRange f).1 else (fmtRange f).2
  | .fin neg m e => let k : Int := (roundInt rm neg m e : Int); saturate f (if neg then -k else k)

/-- CVT of the value in the low bits of a source; the result is the element's own bits (R51, R116, R117). From a format narrower than fp32 to an integer
it is as from fp32 (log 112). -/
def convert (df sf : Fmt) (rm : Rnd) (bits : Nat) : Nat :=
  let w := 8 * df.bytes
  if sf.isRaw then bits % 2 ^ (8 * sf.bytes) % 2 ^ w
  else if sf.isFloat then
    let x := (fmtF sf).decode (bits % 2 ^ (8 * sf.bytes))
    if df.isFloat then
      if df = sf then (if x.isNaN then (fmtF df).nanBits else bits % 2 ^ (8 * sf.bytes)) else (fmtF df).round rm x
    else (toIntFmt df rm x % 2 ^ w).toNat
  else
    let x := intOf sf bits
    if df.isFloat then (fmtF df).round rm (ofInt x) else (saturate df x % 2 ^ w).toNat

/-- An element's bits widened to its register or pair: sign copies for i8, i16 and i32, zeros otherwise (R116, R213). -/
def widen (f : Fmt) (w : Nat) (bits : Nat) : Nat :=
  match f with
  | .i8 | .i16 | .i32 => (intOf f bits % 2 ^ w).toNat
  | _ => bits % 2 ^ (8 * f.bytes)

/-- CVT's result in its register or pair (R116). -/
def cvt (df sf : Fmt) (rm : Rnd) (x : Nat) : Nat := widen df (if df.bytes = 8 then 64 else 32) (convert df sf rm x)

/-- CVT pk to four 8-bit elements (R118). -/
def cvtPkNarrow (df : Fmt) (rm : Rnd) (a b : Word) : Word :=
  let k (x : BitVec 16) : BitVec 8 := BitVec.ofNat 8 (convert df .bf16 rm x.toNat)
  k (hi16 b) ++ k (lo16 b) ++ k (hi16 a) ++ k (lo16 a)

/-- CVT pk from four 8-bit elements to a pair of 2 × bf16 (R118). -/
def cvtPkWide (sf : Fmt) (a : Word) : DWord :=
  let k (i : Nat) : BitVec 16 := BitVec.ofNat 16 (convert .bf16 sf .rne (byteOf a i).toNat)
  k 3 ++ k 2 ++ k 1 ++ k 0

/-- PACK2 (R119). -/
def pack2 (k : Pk2) (rm : Rnd) (a b : Word) : Word :=
  match k with
  | .bf16 => toBf rm (f32 b) ++ toBf rm (f32 a)
  | .x16 => lo16 b ++ lo16 a
  | .i16 => BitVec.ofInt 16 (saturate .i16 b.toInt) ++ BitVec.ofInt 16 (saturate .i16 a.toInt)

/-- UNPK2, low register then high (R119). -/
def unpk2 (k : Pk2) (a : Word) : DWord :=
  match k with
  | .bf16 => toF32 .rne (bf (hi16 a)) ++ toF32 .rne (bf (lo16 a))
  | .x16 => (hi16 a).setWidth 32 ++ (lo16 a).setWidth 32
  | .i16 => (hi16 a).signExtend 32 ++ (lo16 a).signExtend 32

/-! Ordered dither (R52 to R54). -/

/-- The dither pattern (R52). -/
def ditherPattern (a b : Nat) : Nat :=
  let c := a ^^^ b
  let k (x i j : Nat) : Nat := if x.testBit i then 2 ^ j else 0
  k c 0 7 + k a 0 6 + k c 1 5 + k a 1 4 + k c 2 3 + k a 2 2 + k c 3 1 + k a 3 0

/-- The pattern value at row i, column j of a tile drained with phase h (R53). -/
def ditherAt (h i j : Nat) : Nat := ditherPattern ((i + h % 16) % 16) ((j + h / 16) % 16)

/-- The dithered conversion of an fp32 value (R54). -/
def dither (f : FFmt) (D : Nat) (x : Word) : Nat :=
  match f32 x with
  | .fin neg m e =>
    if m = 0 then f.sign neg 0
    else if f.beyond m e then f.round .rne (.fin neg m e)
    else
      let lo := f.roundMag .rz false m e
      let l := f.magnitude lo
      let u := f.magnitude (lo + 1)
      let g := min e (min l.2 u.2)
      let k (v : Nat × Int) : Nat := v.1 <<< (v.2 - g).toNat
      let t := 256 * (k (m, e) - k l) / (k u - k l)
      f.sign neg (if D < t then lo + 1 else lo)
  | v => f.round .rne v

/-! Matrix accumulation (R55 to R59). -/

/-- Trunc25 (R55). -/
def trunc25 (x : FVal) : FVal := as25.roundV .rz x

/-- The period sum of R56: the first product, then each product added with Trunc25. Zeros that are all negative sum to −0, other zeros to +0 (log 113). -/
def periodSum : List (FVal × FVal) → FVal
  | [] => .fin false 0 0
  | (a, b) :: rest => rest.foldl (fun s p => trunc25 (s.add .rz (trunc25 (p.1.mul p.2)))) (trunc25 (a.mul b))

/-- Promotion of a period's sum into an element (R57). -/
def promote (scales : Option (Word × Word)) (acc : Word) (sum : FVal) : Word :=
  match scales with
  | some (sa, sb) => toF32 .rne ((sum.mul (f32 (fmul .rne sa sb))).add .rne (f32 acc))
  | none => toF32 .rne (sum.add .rne (f32 acc))

/-- Guided combination (R61). -/
def guide (g c u : Word) : Word := ffma .rne g (fsub .rne c u) u

end Sys2Proof.Machine
end

