-- ==== Sys2Proof/Machine/Flags.lean ====
section
/-! DEFINITION. Conditions: the device has no flags, so a comparison writes 0 or 1 to a register (R16, R23, R68, R105, R109). -/

namespace Sys2Proof.Machine

/-- A comparison of two integers of w bits, as iw, or as nw for the natural conditions (R68, R105). -/
def icond {w : Nat} (cc : ICond) (a b : BitVec w) : Bool :=
  match cc with
  | .eq => a = b
  | .ne => a ≠ b
  | .lt => a.slt b
  | .le => a.sle b
  | .gt => b.slt a
  | .ge => b.sle a
  | .ltn => a.ult b
  | .len => a.ule b
  | .gtn => b.ult a
  | .gen => b.ule a

/-- A comparison of two fp32 values: −0 and +0 are equal, and a NaN is unordered (R68, R109). -/
def fcond (cc : FCond) (a b : Word) : Bool :=
  let x := f32 a
  let y := f32 b
  let un := x.isNaN || y.isNaN
  let lt := x.lt y
  let gt := y.lt x
  match cc with
  | .eq => !un && !lt && !gt
  | .ne => un || lt || gt
  | .lt => !un && lt
  | .le => !un && !gt
  | .gt => !un && gt
  | .ge => !un && !lt
  | .un => un
  | .ord => !un

/-- A predicate result: exactly 0 or 1 (R23). -/
def predBit (b : Bool) : DWord := if b then 1 else 0

end Sys2Proof.Machine
end

