-- ==== Sys2Proof/Machine/State.lean ====
section
/-! DEFINITION. The state of a VX9 module: every piece of state that the spec gives the machine, as plain data, and the state right
after reset. INVENTORY.md lists each field with its rule. Tables are association lists sorted by key; a key that is not listed has
the value that the table's docstring names. -/

namespace Sys2Proof.Machine

/-- A table sorted by key. -/
abbrev NMap (α : Type) := List (Nat × α)

/-- Bytes by address in canonical form: addresses rising, no byte equal to what an unlisted address reads as (log 1). -/
abbrev Memory := List Host.Cell

/-! ## Threads -/

/-- A register: 32 data bits and its poison tag (R18, R21), and whether an uncorrectable error has struck it since it was written, which the
word that first reads it meets (R379). -/
structure RegVal where
  data : Word
  poison : Bool
  struck : Bool
  deriving DecidableEq, Repr

/-- Coherence mode of a translated access after the override of a buffer record (R289, R30). -/
inductive CMode | tracked | selfInv | uncached
  deriving DecidableEq, Repr

/-- A checked and translated location: scratchpad of a workgroup, or a physical address with its mode, the key slot of the window
that covers it (R374) and the partition that translated it. -/
inductive Loc
  | spad (wg a : Nat)
  | phys (pa : Nat) (mode : CMode) (key part : Nat)
  deriving DecidableEq, Repr

/-- A held store (R152). -/
structure HeldStore where
  loc : Loc
  va : DWord
  bytes : List Byte
  pol : CPol
  /-- The store's issue and word, for a record that it may yet make (R145, R146). -/
  issue : Nat
  span : DWord
  off : Nat
  deriving DecidableEq, Repr

/-- A read-set entry: where the load read, and the value of each byte that came from memory (R167). -/
structure ReadEntry where
  loc : Loc
  va : DWord
  vals : List (Option Byte)
  deriving DecidableEq, Repr

/-- Region modes (R151). -/
inductive RMode | plain | tx
  deriving DecidableEq, Repr

/-- Region state (R151). -/
structure Region where
  start : DWord
  target : Option DWord
  tokReg : Nat
  mode : RMode
  taint : Bool
  first : Word
  list : List (Nat × Nat)
  full : Bool
  stores : List HeldStore
  reads : List ReadEntry
  deriving DecidableEq, Repr

/-- Where a thread stands between span ends (R136 to R138, R162, the conditions before R183). -/
inductive Cond
  /-- At a span entry since a cycle: eligible where `hold` is 0; after a YIELD `hold` - 1 opportunities of its port remain (R136). -/
  | ready (since hold : Nat)
  /-- A member of an issue group. -/
  | inFlight
  /-- Parked in SYSCALL with its request. -/
  | syscall (reqid : Nat)
  /-- Parked at BKPT with its request. -/
  | bkpt (reqid : Nat)
  /-- Parked in replay, with the tokens of late taints that the region which restarts will take (R155). -/
  | replay (late : List Word)
  deriving DecidableEq, Repr

/-- One thread (R16). -/
structure Thread where
  regs : List RegVal
  span : DWord
  off : Nat
  lane : Nat
  wid : DWord
  ldc : Nat
  stc : Nat
  cpc : Nat
  mxc : Nat
  region : Region
  cond : Cond
  /-- Registers that await a result (R96). -/
  pending : List Nat
  /-- The record whose token a recovery entry wrote to TOKREG, until the next commit (R148). -/
  recovTok : Option (Nat × Nat)
  /-- Cycle at which a release that still waits first issued (R319). -/
  relSince : Option Nat
  /-- The release's bound passed with a fabric write to this address unacknowledged (R319). -/
  unacked : Option DWord
  /-- Its operation of the word at (span, off) has entered an engine's queue, and the group still waits for the others' (R230, R262, R411). -/
  acted : Bool
  /-- Tells a thread from an earlier one of the same slot (model's own). -/
  serial : Nat
  deriving DecidableEq, Repr

/-! ## Workgroups -/

/-- Engines with timelines (R258). -/
inductive Engine | matrix | copy | xfer | freeze | launch
  deriving DecidableEq, Repr

/-- A timeline context: its binding, ISSUED, DONE and the numbers complete beyond DONE (R258 to R260). -/
structure Timeline where
  bind : Option (Engine × Scope)
  issued : Nat
  done : Nat
  complete : List Nat
  deriving DecidableEq, Repr

/-- Kernel header fields (R327). -/
structure Header where
  gen : Nat
  width : Nat
  depth : Nat
  regs : Nat
  scratch : Nat
  workid : List Nat
  tlbind : List (Option (Engine × Scope))
  queues : Nat
  tandem : Bool
  swizzle : Nat
  persist : Bool
  recover : DWord
  rectok : Nat
  entry : DWord
  argsize : Nat
  deriving DecidableEq, Repr

/-- What each rendezvous collective does with the arrivals (R188, R189, R198). -/
inductive CollOp
  | gred (op : RedOp) (rm : Rnd) (wide part : Bool)
  | gscan (op : RedOp) (excl : Bool) (rm : Rnd) (wide part : Bool)
  | gshf (mode : ShfMode) (wide : Bool)
  | gbcast (wide sel : Bool)
  | gvote (mode : VoteMode) (part : Bool)
  | regsize (tryIt : Bool)
  deriving DecidableEq, Repr

/-- One arrival: the word's address, what it does, its destination and its operand values with the token of each poisoned one. -/
structure Arrival where
  th : Nat
  word : DWord
  op : CollOp
  dst : Nat
  a : DWord
  b : DWord
  aTok : Option Word
  bTok : Option Word
  deriving DecidableEq, Repr

/-- One operation of a tile's history (R249): an MMA with its block, or a partial CLEAR with its rows and columns. -/
inductive HistOp
  | mma (block : List Byte)
  | clear (row0 m col0 n : Nat)
  deriving DecidableEq, Repr
/-- One accumulator tile (R227 to R229, R249, R53): elements row by row, row tokens, checksums, history and dither phase. -/
structure Tile where
  elems : NMap Word
  rowPoison : NMap Word
  /-- Rows that an uncorrectable error has struck and that no operation has used since (R379). -/
  struck : List Nat
  phase : Nat
  cc : NMap Word
  cr : NMap Word
  history : List HistOp
  /-- Cleared by a LOAD or MXWR since the last full reset (R249). -/
  replayable : Bool
  /-- Whether the checksums are i32 sums, after an i8 operation (R249). -/
  integer : Bool
  deriving DecidableEq, Repr

/-- A resident or saved workgroup, or a retired one of a launch that is not complete. -/
structure Workgroup where
  core : Nat
  slot : Nat
  parity : Nat
  base : Nat
  /-- Cycle of placement (R182). -/
  age : Nat
  launch : Nat
  /-- Work identifier bits above F0 (R32, R333). -/
  g : Nat
  hdr : Header
  /-- The launch's argument pointer (R39). -/
  arg : DWord
  part : Nat
  /-- Allocation N in force (R19, R191). -/
  regsN : Nat
  /-- Vacant slots with the cycle of their EXIT (R131, R134). -/
  vacant : NMap Nat
  /-- Slices released (R132). -/
  released : List Nat
  /-- Check-interval register (R165). -/
  cir : DWord
  tls : List Timeline
  spad : Memory
  spadPoison : NMap Cause
  /-- Scratchpad lines whose presence bit is clear (R206), with the copies that still write them. -/
  absent : NMap Nat
  /-- For each barrier object, by address, the scopes of ARRIVEX's engine acquires counted in its current phase, and in the phase that completed
  last (R261, R267, R273). -/
  arrScopes : NMap (List Scope × List Scope)
  /-- FIFO(L, k) under key 8 L + k (R192). -/
  fifos : NMap (List RegVal)
  arrivals : List Arrival
  /-- A blocking REGSIZE that waits: its request (R191). -/
  wantRegs : Option Nat
  /-- Accumulators granted (R228). -/
  tiles : List Tile
  /-- Next index of its matrix operations in a Tandem pair (R245). -/
  tandemIdx : Nat
  /-- Tandem indices that run solo with PARTNER, and with MISMATCH, without waiting (R245, R246). -/
  soloPartner : List Nat
  soloMismatch : List Nat
  /-- Join counter of a forked task: its location and address (R343, R344). -/
  join : Option (Loc × DWord)
  forked : Bool
  /-- Lane-cycles not yet charged, counted up to the cycle `laneAt`, the cycles of residency up to then, and how many charges of 2^22
  cycles a persistent workgroup has had (R341). -/
  laneCycles : Nat
  laneAt : Nat
  residency : Nat
  charges : Nat
  /-- Of the interval that Bridle measures: lane-cycles counted up to the cycle `laneAt`, and bytes that its transfers have sent (R349). -/
  lanesRun : Nat
  moved : Nat
  saved : Bool
  /-- The workgroup has retired: it holds nothing of its core but tiles on which its operations still work (R132, R228). It stays listed until its
  launch completes, for what its threads have left under way (R131, R155; log 25). -/
  retired : Bool
  deriving DecidableEq, Repr

/-! ## Issue groups -/

/-- Why a group is parked (R186). -/
inductive Park
  | rendezvous | queue | phase | presence | counters | timeline | counterFull | join
  /-- A release that waits for its acknowledgements (R185, R315). -/
  | release
  /-- An earlier access of the thread that the word must follow (R185, R196, R264, R310, R313, R316). -/
  | order
  deriving DecidableEq, Repr

/-- An issue group in flight or parked (R183 to R186). -/
structure Group where
  core : Nat
  port : Nat
  members : List Nat
  /-- Cycle at which it formed or returned from a park. -/
  formed : Nat
  waiting : Bool
  /-- Why the group is parked, and the word that it is parked at. -/
  park : Option (Park × Instr)
  /-- Words that an ICINV dropped while this group's span was running, which the span may still finish from (R141). -/
  old : NMap DWord
  deriving DecidableEq, Repr

/-! ## Poison records -/

/-- A poison record (R145). -/
structure PoisonRec where
  faddr : DWord
  lmask : DWord
  origin : BitVec 56
  offset : Byte
  wgslot : Byte
  part : BitVec 4
  status : Byte
  gen : Byte
  cause : Byte
  seq : Byte
  merges : BitVec 16
  deriving DecidableEq, Repr

/-- A record that an issue in progress made, for its distinct triple of workgroup, cause and page (R146). -/
structure IssueFault where
  issue : Nat
  core : Nat
  wg : Nat
  cause : Cause
  page : Option Nat
  idx : Nat
  token : Word
  /-- Logical index of the thread whose address is FADDR. -/
  lead : Nat
  deriving DecidableEq, Repr

/-! ## Accesses in progress -/

/-- How a load's bytes become register contents (R213, R217, R219). -/
inductive LoadForm
  | flat (signed : Bool)
  | element (f : Fmt) (w : Nat)
  | octet
  deriving DecidableEq, Repr

/-- One thread's part of an access: whom it belongs to, its destination registers, its address and its operands. -/
structure Member where
  th : Nat
  serial : Nat
  dst : List Nat
  va : DWord
  d : DWord
  e : DWord
  /-- The load's bytes that the thread's own held stores supply (R152). -/
  held : List (Option Byte)
  /-- The load takes a read-set entry (R167). -/
  tx : Bool
  deriving DecidableEq, Repr

/-- A task that FORK pushed (R281, R346). -/
structure Task where
  launch : Nat
  part : Nat
  reach : Reach
  join : Option (Loc × DWord)
  wid : DWord
  v23 : DWord
  v45 : DWord
  entry : DWord
  hdr : Header
  g : Nat
  /-- The core whose deque holds it, for its return after a save (R284). -/
  home : Nat
  deriving DecidableEq, Repr

/-- What an access does where it is performed. -/
inductive OpKind
  | load (form : LoadForm)
  | store (bytes : List Byte)
  /-- An engine's write of the bytes of up to one sector: clean bytes, or poison of a cause (R150, R242, R268); and the row of a DRAIN that it is
  part of. -/
  | engineWrite (va : DWord) (bytes : List Byte) (poison : Option Cause) (row : Nat)
  | atomic (op : AtomOp) (wide : Bool)
  /-- FORK's increment of the join counter; the task is pushed when it is acknowledged (R346). -/
  | fork (task : Task)
  /-- FORK's increment performed, with the bytes that it wrote, and not yet acknowledged. -/
  | forked (task : Task) (bytes : List Byte)
  /-- The decrement of a retiring forked workgroup's join counter, whose address is given (R344). -/
  | joinDec (va : DWord)
  /-- JOIN's read of a join counter, repeated until it returns zero (R347). -/
  | joinRead
  /-- The matrix engine's read of the 64 bytes at a fabric address, for its operands (R240, R243, R250). -/
  | engineRead (va : DWord)
  deriving DecidableEq, Repr

/-- How far an access has come (R286, R296). -/
inductive Phase
  | waiting
  /-- Invalidations sent and not yet acknowledged. -/
  | counting (n : Nat)
  /-- Performed; the number orders it among all accesses performed. -/
  | performed (n : Nat)
  deriving DecidableEq, Repr

/-- The reply to a fabric access (R395). -/
inductive RemoteReply
  | data (bytes : List Byte) (poison : Option Cause) (replica : Bool)
  | done
  | fault (c : Cause)
  deriving DecidableEq, Repr

/-- An access that has issued and whose result or acknowledgement is outstanding. -/
structure Op where
  kind : OpKind
  core : Nat
  wg : Nat
  launch : Nat
  /-- The issue that made it (R146). -/
  issue : Nat
  /-- Origin of a record that it may yet make (R145). -/
  span : DWord
  off : Nat
  loc : Loc
  n : Nat
  pol : CPol
  parts : List Member
  acq : Option Scope
  rel : Bool
  /-- No later word of the thread issues before it is complete (R316, R346, R414). -/
  blocking : Bool
  phase : Phase
  /-- The engine operation that it belongs to: its core's queue and its entry (R232, R269). -/
  eng : Option (Engine × Nat)
  /-- Cycle in which it was released or issued, and with it entered the queue of its flow (R421). -/
  entered : Nat
  /-- A fabric access whose request has been sent (R395). -/
  sent : Bool
  reply : Option RemoteReply
  deriving DecidableEq, Repr

/-- A refusal on its way to the thread (R155). -/
structure LateFault where
  th : Nat
  serial : Nat
  core : Nat
  wg : Nat
  launch : Nat
  issue : Nat
  span : DWord
  off : Nat
  cause : Cause
  va : DWord
  dst : List Nat
  deriving DecidableEq, Repr

/-! ## Matrix engine -/

/-- One thread's part of an MXRD or MXWR (R256, R257): its indices and, for MXWR, its data. -/
structure MxElem where
  th : Nat
  serial : Nat
  dst : Nat
  row : Nat
  col : Nat
  data : Word
  deriving DecidableEq, Repr

/-- The fields of a completion record that an operation has made so far (R236). -/
structure MxResult where
  token : Word
  prows : Nat
  corr : Nat
  zblk : Nat
  paused : Bool
  gskip : Bool
  partner : Bool
  mismatch : Bool
  fused : Bool
  deriving DecidableEq, Repr

/-- What an entry of the matrix queue does (R230). -/
inductive MxKind
  /-- MXGO of a block address with its context and number. -/
  | go (addr tl num : Nat)
  | rd (tile : Nat) (elems : List MxElem)
  | wr (tile : Nat) (elems : List MxElem)
  deriving DecidableEq, Repr

/-- How far a matrix operation has come. -/
inductive MxStage
  | queued
  /-- A Tandem MMA that waits for its partner since a cycle (R246); saved by a pre-emption, the cycles that it has waited. -/
  | held (since : Nat)
  | heldSaved (elapsed : Nat)
  /-- Its block is read, and it starts as soon as its operands are there. -/
  | ready
  /-- It has started, and so many k-steps or rows of it are done (R252). -/
  | running (pos : Nat)
  /-- Its tile effects are done; its writes may be outstanding. -/
  | started
  deriving DecidableEq, Repr

/-- Operands of an operation as they are read: a by rows, b by columns, sa by rows, sb, the token of each relative row that meets poison, and the first
token met in time (R236). -/
structure Operands where
  a : List (List Nat)
  bt : List (List Nat)
  sa : List (List Word)
  sb : List Word
  bad : List (Nat × Word)
  first : Option Word
  deriving DecidableEq, Repr

/-- An entry of the matrix queue (R230 to R232). -/
structure MxEntry where
  kind : MxKind
  wg : Nat
  th : Nat
  serial : Nat
  issue : Nat
  /-- Cycle in which it entered the queue (R246). -/
  since : Nat
  span : DWord
  off : Nat
  stage : MxStage
  /-- The operands of the k-steps or rows that are done (R252). -/
  got : Operands
  res : MxResult
  /-- The block as the engine read it, and the cause of its block fault (R233, R237). -/
  block : Option (List Byte)
  fault : Option Cause
  /-- Word 0 of the block could be read (R245). -/
  word0 : Bool
  /-- Completion record address, once it has passed its checks (R236, R237). -/
  crec : Option Nat
  /-- The first poison or refusal of its writes in the order of the rows, with its row (R166, R242). -/
  event : Option (Nat × Word)
  /-- Tandem index of an MMA (R245), and the entry that it runs fused with (R246). -/
  index : Option Nat
  fusedWith : Option Nat
  /-- The partner's tile, as a guided DRAIN reads it from its start on (R248). -/
  guideTile : Option Tile
  /-- Operand sectors at fabric addresses that have been fetched, by virtual address: bytes, and the cause of a fault or poison with the flow whose
  reply told it (R240). -/
  fetched : NMap (List Byte × Option (Cause × Option FlowKey))
  deriving DecidableEq, Repr

/-! ## Copy engine -/

/-- A copy request (R263). -/
structure CopyReq where
  fill : Bool
  sspace : Nat
  dspace : Nat
  cpol : CPol
  baraddr : Option Nat
  rows : Nat
  rowbytes : Nat
  sstride : Nat
  dstride : Nat
  sbase : Nat
  dbase : Nat
  deriving DecidableEq, Repr

/-- A queued copy or a copy in progress (R262, R266). -/
structure CopyEntry where
  req : CopyReq
  wg : Nat
  th : Nat
  serial : Nat
  issue : Nat
  span : DWord
  off : Nat
  tl : Nat
  num : Nat
  running : Bool
  /-- Chunks whose write to memory is under way, and chunks done. -/
  writing : List Nat
  done : List Nat
  /-- Byte arrivals that wait for the object's line. -/
  waiting : List Nat
  /-- The tokens of its faults in the order in which it met them, each with the chunk whose reading made it, if one's did (R268, R270). -/
  events : List (Option Nat × Word)
  deriving DecidableEq, Repr

/-- A deferred arrival of ARRIVEX (R273). -/
structure Deferred where
  wg : Nat
  th : Nat
  issue : Nat
  span : DWord
  off : Nat
  tl : Nat
  num : Nat
  addr : Nat
  count : Nat
  /-- Cycle in which DONE first reached its number. -/
  due : Option Nat
  deriving DecidableEq, Repr

/-! ## Launches and the hub -/

/-- A launch record (R332). -/
structure LaunchRec where
  sigval : Nat
  wval1 : Nat
  wval0 : Nat
  stataddr : DWord
  args : DWord
  khdr : DWord
  nitems : Nat
  nwg : Nat
  sigidx : Nat
  widx1 : Nat
  widx0 : Nat
  part : Nat
  inten : Bool
  sigen : Bool
  w1en : Bool
  w0en : Bool
  prio : Nat
  /-- A reserved bit is set (R335). -/
  reserved : Bool
  deriving DecidableEq, Repr

/-- Status codes of a launch (R336). -/
inductive LStatus | done | gen | header | place | part | record | aborted
  deriving DecidableEq, Repr

/-- The LAUNCH operation that a device launch completes (R348): its workgroup, context and number, and the issue that made it. -/
structure LaunchOp where
  wg : Nat
  /-- The issuing workgroup's launch. -/
  launch : Nat
  tl : Nat
  num : Nat
  core : Nat
  th : Nat
  span : DWord
  off : Nat
  addr : DWord
  deriving DecidableEq, Repr

/-- What Bridle knows of a workgroup at the end of an interval: the core, the launch, its queue and its partition, its lane-cycles of the interval,
the bytes that its transfers have sent, and its activity (R349). -/
structure Resident where
  wg : Nat
  core : Nat
  launch : Nat
  queue : Nat
  part : Nat
  lanes : Nat
  moved : Nat
  act : Activity
  deriving DecidableEq, Repr

/-- A launch that is active, running or being completed (R333 to R338). -/
structure Launch where
  recd : LaunchRec
  /-- The queue that it is charged to (R341, R342). -/
  queue : Nat
  part : Nat
  hdr : Header
  status : LStatus
  device : Option LaunchOp
  /-- Cycle at which it became active (R340). -/
  activated : Nat
  /-- Next item of the work distributor (R333). -/
  nextItem : Nat
  /-- Workgroups placed so far; cohorts are placed in ascending order (R338). -/
  placed : Nat
  /-- Cycle since which its next cohort has not been placeable (R339). -/
  blockedSince : Nat
  /-- Dies bound to die cohorts and clusters bound to cluster cohorts, by the cohort's number (R338). -/
  dieBind : NMap Nat
  cluBind : NMap Nat
  /-- Completion status under merge (R166, R336). -/
  energy : Nat
  /-- What ENERGY does not show yet, in units of 2^-16 of 10 nJ (R349). -/
  energyFine : Nat
  charge : Nat
  first : Word
  uncaught : Nat
  count : Nat
  sticky : Bool
  events : BitVec 5
  aborted : Bool
  deriving DecidableEq, Repr

/-- A hardware queue (R329, R330, R340); an unlisted queue has every register at reset. -/
structure Queue where
  owner : Nat
  enable : Bool
  drops : Nat
  energy : Nat
  /-- What QENERGY does not show yet, in units of 2^-16 of 10 nJ (R349). -/
  energyFine : Nat
  deficit : Int
  quantum : Nat
  fifo : List (BitVec 512)
  deriving DecidableEq, Repr

/-- States of a partition (R330). -/
inductive PState | running | halting | saved | restoring
  deriving DecidableEq, Repr

/-- A pending service request or debug event (R371, R372): its thread and the octet it names. -/
structure Request where
  th : Nat
  serial : Nat
  octet : Nat
  isBkpt : Bool
  /-- Resume point. -/
  label : DWord
  origin : DWord
  originOff : Nat
  deriving DecidableEq, Repr

/-- A window (R365, R366). -/
structure Window where
  first : Nat
  key : Nat
  valid : Bool
  last : Nat
  deriving DecidableEq, Repr

/-- An invalidation of TLB entries that has not completed (R361): its kind, the address and the address space. -/
structure TlbInv where
  kind : Nat
  va : Nat
  asid : Nat
  deriving DecidableEq, Repr

/-- A partition block (R330, R364, R391) with the hub's state for the partition. -/
structure Partition where
  pcap : Nat
  ppower : Nat
  allow : Nat
  psave : Nat
  floor : Bool
  pstate : PState
  sig : NMap Nat
  proot : Nat
  asid : Nat
  /-- A TLBINV that has not completed (R361). -/
  tlbinv : Option TlbInv
  fqbase : DWord
  fqhead : Nat
  fqtail : Nat
  sqbase : DWord
  sqhead : Nat
  sqtail : Nat
  pintaddr : DWord
  pintdata : Word
  pirq : BitVec 6
  pirqen : BitVec 6
  pdbg : Bool
  pswva : Nat
  pftid : Nat
  pexEnable : Bool
  pexRoot : Nat
  pexAsid : Nat
  windows : List Window
  /-- Requests made so far (R371). -/
  reqs : Nat
  pending : NMap Request
  /-- Fault and service queue entries that wait for the ring, oldest first (R368, R371). -/
  faultWait : List (BitVec 512)
  serviceWait : List (BitVec 1024)
  /-- Deque entries of the partition while it is saved (R284). -/
  savedTasks : List (Nat × Task)
  deriving DecidableEq, Repr

/-! ## Memory system -/

/-- What a cache holds of a 64-byte sector (R277, R289, R300): a tracked copy with its core vector, a self-invalidating copy with
its bytes and the number of the last access performed when it was filled or updated, or a replica of a frozen range. -/
inductive CacheKind
  | tracked (cores : List Nat)
  | selfInv (asOf : Nat)
  | replica
  deriving DecidableEq, Repr

/-- A sector that a cache holds: its copy, its poison, and for the replacement of its line the priority and the time of the latest use. -/
structure CacheSector where
  kind : CacheKind
  bytes : List Byte
  poison : Option Cause
  /-- Whether an uncorrectable error of this cache poisoned it, and not the sector that it was filled from (R276). -/
  struck : Bool
  /-- 0 evict first, 1 normal, 2 evict last (R214). -/
  prio : Nat
  used : Nat
  deriving DecidableEq, Repr

/-- A TLB entry (R279): tags, page and the leaf entry that a walk read. -/
structure TlbEntry where
  part : Nat
  asid : Nat
  /-- First virtual address of the page and its size in bytes. -/
  page : Nat
  size : Nat
  /-- The leaf (R358). -/
  pte : DWord
  /-- The partition's VALID windows as the walk checked them, of which the one that covers a granule gives its key slot (R366, R374). -/
  wins : List Window
  deriving DecidableEq, Repr

/-- A die directory entry (R292). -/
structure DirEntry where
  sstate : List Nat
  remote : Bool
  coarse : Bool
  /-- Pointer form: the clusters named, in PTR order. Coarse form: the set bits of CVEC. -/
  ptrs : List Nat
  /-- Clusters whose invalidation by a recall or the package directory is not acknowledged yet. -/
  waiting : Nat
  /-- The recall or forwarded invalidation waits to free the entry and notify. -/
  recalling : Bool
  deriving DecidableEq, Repr

/-- A package directory entry (R293). -/
structure PkgEntry where
  sstate : List Nat
  dvec : List Nat
  waiting : Nat
  /-- The access that the home acknowledges when every forwarded invalidation is in, or none for a recall. -/
  forOp : Option Nat
  recalling : Bool
  deriving DecidableEq, Repr

/-- Directory and freeze messages in flight (R294 to R297, R302). -/
inductive MsgKind
  /-- Invalidation of a line to a cluster; acknowledged to the access, the die's own recall, or the package directory. -/
  | inval (die cl line : Nat) (forOp : Option Nat) (keep : Option Nat)
  | downgrade (die cl line : Nat)
  /-- Acknowledgement of a downgrade (R297). -/
  | downAck (die line : Nat)
  /-- Eviction notice of a cluster to its die directory. -/
  | notice (die cl line : Nat)
  /-- Acknowledgement of an invalidation. -/
  | ack (die line : Nat) (forOp : Option Nat)
  /-- Read request of a die to the package directory. -/
  | pkgRead (die cl line : Nat)
  | pkgInval (line : Nat) (forOp : Option Nat) (fromDie : Nat)
  | pkgNotice (die line : Nat)
  /-- Invalidation that the package directory forwards to a die. -/
  | dieInval (die line : Nat)
  | dieAck (die line : Nat)
  /-- Replica invalidation of a freeze entry to a die of the package or to another device, and its acknowledgement. -/
  | replicaInval (entry die : Nat)
  | replicaInvalDev (entry dev : Nat)
  | thawAck (entry : Nat)
  deriving DecidableEq, Repr

/-- A fill that a load or prefetch asked for (R208, R225, R277). -/
structure Fill where
  core : Nat
  sector : Nat
  pol : CPol
  mode : CMode
  key : Nat
  part : Nat
  deriving DecidableEq, Repr

/-- States of a freeze table entry (R298). -/
inductive FState | free | freezing | frozen | thawing
  deriving DecidableEq, Repr

/-- A freeze table entry (R298). -/
structure FreezeEntry where
  dvec : List Nat
  pgran : Nat
  /-- Granules that the entry covers, NGRAN + 1; 0 until its first granule is translated. -/
  count : Nat
  gen : Nat
  part : Nat
  state : FState
  sys : Bool
  link : Nat
  last : Bool
  lvec : List Nat
  pend : Nat
  deriving DecidableEq, Repr

/-- A freeze or thaw in progress (R299, R302): its operation, its range, and for a thaw its handle. -/
structure FreezeOp where
  wg : Nat
  launch : Nat
  core : Nat
  th : Nat
  span : DWord
  off : Nat
  tl : Nat
  num : Nat
  part : Nat
  isThaw : Bool
  va : DWord
  len : Nat
  sys : Bool
  /-- First entry of the freeze. -/
  entry : Nat
  handle : Word
  /-- The next granule to translate, and the entry that it may extend (R299). -/
  next : Nat
  cur : Nat
  deriving DecidableEq, Repr

/-! ## Cores -/

/-- One core; an unlisted core is as at reset. -/
structure Core where
  /-- Poison records 0 to 255; an unlisted record is all zero, FREE (R145). -/
  recs : NMap PoisonRec
  /-- Records 1 to 255 in use, oldest allocation first (R148). -/
  order : List Nat
  seq : Byte
  l1 : NMap CacheSector
  /-- Instruction words that the core holds, by physical address (R139). -/
  icache : NMap DWord
  /-- The loop buffer of each port: the words of the span that it last issued, by physical address (R141). -/
  loops : NMap (NMap DWord)
  /-- Sectors of the instruction cache that an uncorrectable error has struck (R379). -/
  icPoison : List Nat
  tlb : List TlbEntry
  /-- Entries of the matrix queue in issue order (R230, R231). -/
  mxq : NMap MxEntry
  cpq : NMap CopyEntry
  deferred : NMap Deferred
  deque : List Task
  lastSearch : Option Nat
  /-- The latest operation on the deque: its cycle, and 0 for the owner's or 1 + c for the steal of core c of the die (R283). -/
  lastTake : Option (Nat × Nat)
  /-- The latest issue opportunity: its cycle and its port (R133, R183, R194, R196). -/
  lastOpp : Option (Nat × Nat)
  /-- Granules whose carving is in force (R367). -/
  carve : BitVec 24
  /-- The launch whose next cohort reserves the core (R339). -/
  reserved : Option Nat
  offline : Bool
  deriving DecidableEq, Repr

/-! ## Fabric -/

/-- A transfer descriptor (R410). -/
structure XferDesc where
  dslot : Nat
  dcore : Nat
  stream : Nat
  ord : Bool
  dkind : Nat
  sspace : Nat
  ddev : Nat
  bar : Option Nat
  bytes : Nat
  daddr : Nat
  saddr : Nat
  deriving DecidableEq, Repr

/-- A transfer queued or in progress (R411 to R413). -/
structure Xfer where
  desc : XferDesc
  core : Nat
  wg : Nat
  launch : Nat
  th : Nat
  issue : Nat
  span : DWord
  off : Nat
  tl : Nat
  num : Nat
  part : Nat
  running : Bool
  /-- The number and the cycle at which its packets entered their flow, among the accesses (R421). -/
  entry : Nat
  entered : Nat
  /-- Packets sent for the first time, and packets delivered or left unanswered. -/
  sent : Nat
  done : List Nat
  event : Option Word
  deriving DecidableEq, Repr

/-- Whose request a fabric request is: an access, or a packet of a transfer. -/
inductive ReqOwner
  | op (k : Nat)
  | xfer (k packet : Nat)
  /-- A load that a save has given up: it is issued again at the restore, and what answers this request is ignored (R354). -/
  | dropped
  /-- The hub's write of a completion status at an address, in a partition's name (R337). -/
  | status (part : Nat) (va : DWord)
  deriving DecidableEq, Repr

/-- A request that the source keeps until its reply (R395, R396). -/
structure SrcReq where
  flow : FlowKey
  seq : Nat
  owner : ReqOwner
  pkt : Packet
  /-- Cycle of the first attempt and of the latest, none while it waits unsent. -/
  firstAt : Option Nat
  lastAt : Nat
  attempts : Nat
  busy : Bool
  /-- Answered FROZEN and queued again (R401). -/
  queued : Bool
  deriving DecidableEq, Repr

/-- A flow at its source (R395, R401). -/
structure SrcFlow where
  key : FlowKey
  next : Nat
  frozen : Bool
  /-- Records of cause REMOTE-FAULT that the flow made: core, index and generation (R402). -/
  recs : List (Nat × Nat × Nat)
  deriving DecidableEq, Repr

/-- A packet of a transfer whose arrival waits for its object's line, and its reply with it: its workgroup, what becomes of its write, and the
partition whose flow it freezes (R196, R412). -/
structure Arriving where
  pkt : Packet
  wg : Nat
  body : ReplyBody
  froze : Option Nat
  deriving DecidableEq, Repr

/-- A flow at a destination: at this device, or at a switch (R397, R401). -/
structure DstFlow where
  /-- The switch that the flow names, for a flow that a mirror answers in its place; otherwise the switch itself, or at the device 0 for the fabric and one more than the
  peer index for scale-out. -/
  home : Nat
  sdev : Nat
  score : Nat
  stream : Nat
  performed : List Nat
  /-- SEQ values and replies, newest first (R397). -/
  cache : List (Nat × ReplyBody)
  frozenAt : Option Nat
  part : Nat
  /-- The SEQ up to which every request was delivered when the flow's state was last discarded (R398). -/
  floor : Nat
  arriving : List Arriving
  /-- The latest cycle at which its last reply can reach its source (R388, R397). -/
  lastAck : Nat
  deriving DecidableEq, Repr

/-- An allocation of switch memory in 64 KiB granules (R404, R406). -/
structure SwAlloc where
  ftid : Nat
  first : Nat
  count : Nat
  mirror : Option (Nat × Nat)
  /-- The switch is the mirror of this primary, by its key. -/
  mirrorOf : Option Nat
  deriving DecidableEq, Repr

/-- What a switch does with the requests of SWALLOC and SWFREE: it answers, or what is sent to it is lost, or what it sends (R414). -/
inductive Hearing | answers | deaf | mute
  deriving DecidableEq, Repr

/-- A Cantle switch (R403 to R407); an unlisted switch is as at reset. -/
structure Switch where
  mem : Memory
  poison : NMap Cause
  allocs : List SwAlloc
  quota : NMap Nat
  flows : List DstFlow
  lost : Bool
  hearing : Hearing
  /-- The keys under which it opens requests, by device and tenant: 0 where none is installed (R375). -/
  keys : List ((Nat × Nat) × Nat)
  deriving DecidableEq, Repr

/-- A primary's update on its way to the mirror, with the reply that waits for its acknowledgement (R406). -/
structure MirrorUpd where
  primary : Nat
  mirror : Nat
  addr : Nat
  bytes : List Byte
  poison : Option Cause
  sdev : Nat
  score : Nat
  stream : Nat
  seq : Nat
  reply : ReplyBody
  deriving DecidableEq, Repr

/-! ## The module -/

/-- Power states (R383). -/
inductive Power | off | booting | on
  deriving DecidableEq, Repr

/-- The algorithms that the device offers (R378). -/
inductive SpdmAlg | slhDsaShake256s | shake256
  deriving DecidableEq, Repr

/-- What the device answers, at the management port or, to SPDM, over the fabric (R378, R384). -/
inductive PortOut
  /-- To the port, or to a device of the fabric: the measurements, the algorithms offered, what else the answer holds, and its signature. -/
  | spdm (peer : Option Nat) (req : Spdm) (measurements : List (List Byte)) (algs : List SpdmAlg) (body signature : List Byte)
  | redfish (req : Redfish) (values : List Nat)
  | event (code : Nat)
  deriving DecidableEq, Repr

/-- What moves next when no port is issuing (log 9). -/
inductive Input
  /-- A machine step, after so many cycles. -/
  | event (dt : Nat) (i : Instr)
  /-- A store of a control core, by its number, to a physical address. -/
  | ccStore (dt who pa : Nat) (bytes : List Byte)
  /-- A home slice evicts a line of 256 bytes (R287). -/
  | sliceEvict (dt line : Nat)
  /-- The key of a partition and a peer that the manager installs (R375), and an entry of the peer table that it fills (R408). -/
  | fabKey (dt who part : Nat) (peer : Dest) (key : Nat)
  | peerEntry (dt who idx : Nat) (addrs : List Byte)
  /-- A tenant's quota on a switch, in granules, set through the switch's own management interface (R404). -/
  | swQuota (dt plane sw ftid granules : Nat)
  /-- A switch begins or ceases to answer SWALLOC and SWFREE (R414), and a key installed at a switch for a device and a tenant (R375). -/
  | swHearing (dt plane sw : Nat) (h : Hearing)
  | swKeyFor (dt plane sw sdev ftid key : Nat)
  deriving DecidableEq, Repr

/-- The state of the module. -/
structure State where
  /-- Core cycles since reset (R37), and the offset of each die's CLK (log 8). -/
  now : Nat
  clkOff : List Nat
  agenda : List Input
  /-- The group whose next word the port issues now. -/
  focus : Option Nat
  /-- Core and port whose opportunity comes when the agenda is empty. -/
  turn : Nat × Nat
  freeCtr : Nat
  issueFaults : List IssueFault
  nextIssue : Nat
  nextWg : Nat
  nextLaunch : Nat
  nextSerial : Nat
  nextId : Nat
  perfCtr : Nat
  /-- Counts the uses of cached lines, for the least recently used one (R276; the model's own). -/
  useCtr : Nat
  threads : NMap Thread
  wgs : NMap Workgroup
  groups : NMap Group
  cores : NMap Core
  mem : Memory
  poison : NMap Cause
  /-- Sectors whose clean copy in their home slice an uncorrectable error has struck, with the bytes that DRAM still holds (R287). -/
  sliceClean : NMap (List Byte)
  /-- Sectors that are dirty in their home slice, and the pages of HOME 1, whose lines the slices do not evict: first address and size (R287, R288). -/
  sliceDirty : NMap Unit
  slicePinned : List (Nat × Nat)
  /-- Key slot and generation under which a sector of LPDDR 6 or CXL memory was last written (R374). -/
  memKey : NMap (Nat × Nat)
  ops : NMap Op
  acks : NMap Op
  late : NMap LateFault
  fills : List Fill
  /-- Stores of control cores that wait for a write to their lines, in the order of their arrival: who, address and bytes (R296). -/
  ccStores : List (Nat × Nat × List Byte)
  /-- Cluster cache of cluster k of die d under key 8 d + k (R276). -/
  clusters : NMap (NMap CacheSector)
  clusterTlb : NMap (List TlbEntry)
  dirs : NMap (NMap DirEntry)
  pkgDir : NMap PkgEntry
  msgs : NMap MsgKind
  freezes : NMap FreezeEntry
  freezeOps : NMap FreezeOp
  queues : NMap Queue
  roundPtr : List Nat
  parts : List Partition
  ccpart : List Nat
  keystat : BitVec 32
  keyGen : List Nat
  pinmap : NMap (BitVec 24)
  coreoff : NMap (BitVec 64)
  cxlsz : List Nat
  launches : NMap Launch
  pendingStore : List (LaunchOp × LaunchRec × Nat × Nat)
  /-- Workgroups of completed launches that the current interval of Bridle has seen (R349). -/
  gone : List Resident
  /-- Activity of the current interval, by workgroup (R349). -/
  activity : NMap Activity
  intWrites : List (DWord × Word)
  thermal : List Bool
  measure : List (List Byte)
  power : Power
  /-- Stages that the boot in progress has verified, and whether it has failed (R376). -/
  bootStage : Nat
  bootHalted : Bool
  debugUnlocked : Bool
  /-- A firmware image that Redfish has staged, and the image that each stage of the latest boots has loaded, where one is known (R376, R384). -/
  stagedFw : Option (List Byte)
  firmware : NMap (List Byte)
  eccCorrected : NMap Nat
  eccUncorrected : NMap Nat
  portOut : List PortOut
  pkg : Nat
  joined : Bool
  /-- Lanes up of the scale-up port of each plane (R387). -/
  ports : NMap Nat
  flows : List SrcFlow
  reqs : NMap SrcReq
  dstFlows : List DstFlow
  net : List Packet
  netReplies : List Reply
  flowMsgs : List (FlowKey × Nat × Bool)
  /-- The fabric keys of partitions and peers, by number: 0 where none is installed (R375). -/
  fabKeys : List ((Nat × Dest) × Nat)
  /-- The peer table: a peer's addresses by its index (R408). -/
  peers : NMap (List Byte)
  lostDevs : List Nat
  /-- Destinations whose loss notice has arrived (R400, R407). -/
  noticed : List Dest
  switches : NMap Switch
  mirrorUpds : NMap MirrorUpd
  xfers : NMap Xfer
  deriving DecidableEq, Repr

/-- Reasons for which the machine stops. -/
inductive Fault
  /-- Raised by a control core's store of the agenda to an address that the physical map does not list (R356). Safe: the machine stops. -/
  | noMemory
  deriving DecidableEq, Repr

/-- Reasons for which an instruction has no meaning. -/
inductive Refusal
  /-- Raised by the arm of an instruction that has no meaning yet. Safe: nothing is claimed of it. -/
  | notModelled (mnemonic : String)
  deriving DecidableEq, Repr

/-! ## Reset -/

/-- A partition block after reset: PALLOW is 64 (R330), the other registers 0. -/
def Partition.reset : Partition :=
  { pcap := 0, ppower := 0, allow := 64, psave := 0, floor := false, pstate := .running, sig := [], proot := 0, asid := 0,
    tlbinv := none, fqbase := 0, fqhead := 0, fqtail := 0, sqbase := 0, sqhead := 0, sqtail := 0, pintaddr := 0, pintdata := 0,
    pirq := 0, pirqen := 0, pdbg := false, pswva := 0, pftid := 0, pexEnable := false, pexRoot := 0, pexAsid := 0,
    windows := List.replicate 16 ⟨0, 0, false, 0⟩, reqs := 0, pending := [], faultWait := [], serviceWait := [], savedTasks := [] }

/-- A core after reset; the sequence counter's value is the model's (log 3). -/
def Core.reset : Core :=
  { recs := [], order := [], seq := 0, l1 := [], icache := [], loops := [], icPoison := [], tlb := [], mxq := [], cpq := [], deferred := [], deque := [],
    lastSearch := none, lastTake := none, lastOpp := none, carve := 0, reserved := none, offline := false }

/-- A queue after reset; QQUANTUM is 0x10_0000 (R329). -/
def Queue.reset : Queue :=
  { owner := 0, enable := false, drops := 0, energy := 0, energyFine := 0, deficit := 0, quantum := 0x100000, fifo := [] }

/-- A switch on which nothing is set (log 7). -/
def Switch.reset : Switch := { mem := [], poison := [], allocs := [], quota := [], flows := [], lost := false, hearing := .answers, keys := [] }

/-- The module right after reset: every register at the value that the spec gives or, where it gives none, at the value that the log names
(logs 2 to 8 and 100). -/
def State.reset : State :=
  { now := 0, clkOff := [0, 0, 0, 0], agenda := [], focus := none, turn := (0, 0), freeCtr := 0, issueFaults := [], nextIssue := 0,
    nextWg := 0, nextLaunch := 0, nextSerial := 0, nextId := 0, perfCtr := 0, useCtr := 0, threads := [], wgs := [], groups := [], cores := [],
    mem := [], poison := [], sliceClean := [], sliceDirty := [], slicePinned := [], memKey := [], ops := [], acks := [], late := [], fills := [], ccStores := [], clusters := [], clusterTlb := [],
    dirs := [], pkgDir := [], msgs := [], freezes := [], freezeOps := [], queues := [], roundPtr := [0, 0, 0, 0],
    parts := List.replicate 16 Partition.reset, ccpart := List.replicate 32 16, keystat := 0, keyGen := List.replicate 32 0,
    pinmap := [], coreoff := [], cxlsz := [0, 0, 0, 0], launches := [], pendingStore := [], gone := [], activity := [], intWrites := [],
    thermal := [false, false, false, false], measure := List.replicate 32 (List.replicate 64 0), power := .on, bootStage := 0, bootHalted := false,
    debugUnlocked := false, stagedFw := none, firmware := [], eccCorrected := [], eccUncorrected := [], portOut := [], pkg := 0, joined := false,
    ports := [], flows := [], reqs := [], dstFlows := [], net := [], netReplies := [], flowMsgs := [], fabKeys := [], peers := [], lostDevs := [], noticed := [],
    switches := [], mirrorUpds := [], xfers := [] }

end Sys2Proof.Machine
end

