-- ==== Sys2Proof/Machine/Maps.lean ====
section
/-! DEFINITION. Tables sorted by key, and memory in canonical form. -/

namespace Sys2Proof.Machine

/-- The entry of a key. -/
def look {α : Type} : NMap α → Nat → Option α
  | [], _ => none
  | (k, v) :: m, i => if i = k then some v else if i < k then none else look m i

/-- The table with a key's entry written. -/
def put {α : Type} : NMap α → Nat → α → NMap α
  | [], i, x => [(i, x)]
  | (k, v) :: m, i, x => if i = k then (i, x) :: m else if i < k then (i, x) :: (k, v) :: m else (k, v) :: put m i x

/-- The table without a key's entry. -/
def del {α : Type} : NMap α → Nat → NMap α
  | [], _ => []
  | (k, v) :: m, i => if i = k then m else if i < k then (k, v) :: m else (k, v) :: del m i

/-- The entry of a key, or what an unlisted key stands for. -/
def lookD {α : Type} (m : NMap α) (i : Nat) (d : α) : α := (look m i).getD d

/-- The table with a key's entry changed, if it has one. -/
def alter {α : Type} (m : NMap α) (i : Nat) (f : α → α) : NMap α :=
  match look m i with
  | some x => put m i (f x)
  | none => m

/-- What a byte of memory that is not listed reads as (log 1). -/
def unlistedByte : Byte := 0#8

/-- The byte at an address. -/
def memGet (m : Memory) (a : Nat) : Byte := lookD m a unlistedByte

/-- Memory with a byte written; a byte equal to what an unlisted address reads as is not listed. -/
def memSet (m : Memory) (a : Nat) (b : Byte) : Memory := if b = unlistedByte then del m a else put m a b

/-- The n bytes from an address up. -/
def memGetN (m : Memory) (a : Nat) : Nat → List Byte
  | 0 => []
  | n + 1 => memGet m a :: memGetN m (a + 1) n

/-- Memory with bytes written from an address up. -/
def memSetN (m : Memory) (a : Nat) : List Byte → Memory
  | [] => m
  | b :: bs => memSetN (memSet m a b) (a + 1) bs

/-- Keys rising strictly. -/
def rising {α : Type} : NMap α → Bool
  | [] => true
  | [_] => true
  | (k, _) :: (j, y) :: m => decide (k < j) && rising ((j, y) :: m)

/-- The canonical form of memory: addresses rising, no byte equal to what an unlisted address reads as. -/
def memWf (m : Memory) : Bool := rising m && m.all fun c => decide (c.2 ≠ unlistedByte)

/-- A little-endian number (R6). -/
def leNat : List Byte → Nat
  | [] => 0
  | b :: bs => b.toNat + 256 * leNat bs

/-- The n low bytes of a number, lowest first (R6). -/
def leBytes : Nat → Nat → List Byte
  | 0, _ => []
  | n + 1, x => BitVec.ofNat 8 x :: leBytes n (x / 256)

/-- Element k of a list changed. -/
def modAt {α : Type} (l : List α) (k : Nat) (f : α → α) : List α :=
  match l[k]? with
  | some x => l.set k (f x)
  | none => l

end Sys2Proof.Machine
end

