-- ==== Sys2Proof/Machine/Base.lean ====
section
/-! DEFINITION. Reading and changing the parts of the state: threads, workgroups, cores, partitions, and the numbering of R27, R182 and
R394. A thread's key is 2048 × its workgroup's key + its logical index. -/

namespace Sys2Proof.Machine

def tidOf (w i : Nat) : Nat := 2048 * w + i
def wgOf (t : Nat) : Nat := t / 2048
def idxOf (t : Nat) : Nat := t % 2048

/-- The die and the cluster (numbered over the package) of a core, and a cluster's place in its die (R394, R36). -/
def dieOf (c : Nat) : Nat := c / 64
def cluOf (c : Nat) : Nat := c / 8

def thOf (s : State) (t : Nat) : Option Thread := look s.threads t
def setTh (s : State) (t : Nat) (x : Thread) : State := { s with threads := put s.threads t x }
def modTh (s : State) (t : Nat) (f : Thread → Thread) : State := { s with threads := alter s.threads t f }
def wgAt (s : State) (w : Nat) : Option Workgroup := look s.wgs w
def setWg (s : State) (w : Nat) (x : Workgroup) : State := { s with wgs := put s.wgs w x }
def modWg (s : State) (w : Nat) (f : Workgroup → Workgroup) : State := { s with wgs := alter s.wgs w f }
def grpOf (s : State) (g : Nat) : Option Group := look s.groups g
def setGrp (s : State) (g : Nat) (x : Group) : State := { s with groups := put s.groups g x }
def modGrp (s : State) (g : Nat) (f : Group → Group) : State := { s with groups := alter s.groups g f }
def coreAt (s : State) (c : Nat) : Core := lookD s.cores c Core.reset
def setCore (s : State) (c : Nat) (x : Core) : State := { s with cores := put s.cores c x }
def modCore (s : State) (c : Nat) (f : Core → Core) : State := setCore s c (f (coreAt s c))
def partAt (s : State) (p : Nat) : Partition := (s.parts[p]?).getD Partition.reset
def modPart (s : State) (p : Nat) (f : Partition → Partition) : State := { s with parts := modAt s.parts p f }
def queueAt (s : State) (q : Nat) : Queue := lookD s.queues q Queue.reset
def modQueue (s : State) (q : Nat) (f : Queue → Queue) : State := { s with queues := put s.queues q (f (queueAt s q)) }
def modLaunch (s : State) (l : Nat) (f : Launch → Launch) : State := { s with launches := alter s.launches l f }
def modOp (s : State) (k : Nat) (f : Op → Op) : State := { s with ops := alter s.ops k f }

def noActivity : Activity := ⟨0, 0, 0, 0, 0, 0⟩

def addActivity (x y : Activity) : Activity :=
  ⟨x.words + y.words, x.lanes + y.lanes, x.steps + y.steps, x.units + y.units, x.spad + y.spad, x.l1 + y.l1⟩

/-- Activity of a workgroup counted (R349). -/
def noted (m : NMap Activity) (wg : Nat) (x : Activity) : NMap Activity := put m wg (addActivity (lookD m wg noActivity) x)
def countActivity (s : State) (wg : Nat) (x : Activity) : State := { s with activity := noted s.activity wg x }

/-- CLK of a die (R37). -/
def clkOf (s : State) (d : Nat) : Nat := s.now + (s.clkOff[d]?).getD 0

/-- A fresh key for a table. -/
def freshId (s : State) : Nat × State := (s.nextId, { s with nextId := s.nextId + 1 })

/-- A free choice, a free byte (log 10). -/
def drawBool (s : State) : Bool × State := (Config.freeBool s.freeCtr, { s with freeCtr := s.freeCtr + 1 })
def drawByte (s : State) : Byte × State := (Config.freeByte s.freeCtr, { s with freeCtr := s.freeCtr + 1 })

def drawBytes (s : State) : Nat → List Byte × State
  | 0 => ([], s)
  | n + 1 =>
    let b := drawByte s
    let r := drawBytes b.2 n
    (b.1 :: r.1, r.2)

/-- Whether thread t comes before thread u in the order of one issue: by logical index, then by the age and the slot of the
workgroup (R27). -/
def before (s : State) (t u : Nat) : Bool :=
  let k (x : Nat) : Nat × Nat :=
    match wgAt s (wgOf x) with
    | some w => (w.age, w.slot)
    | none => (0, 0)
  let a := k t
  let b := k u
  decide (idxOf t < idxOf u) || (idxOf t = idxOf u && (decide (a.1 < b.1) || (a.1 = b.1 && decide (a.2 < b.2))))

/-- A thread inserted in the order of R27. -/
def insertTh (s : State) (t : Nat) : List Nat → List Nat
  | [] => [t]
  | u :: us => if before s t u then t :: u :: us else u :: insertTh s t us

def sortThs (s : State) (ts : List Nat) : List Nat := ts.foldr (insertTh s) []

/-- The home lane of logical index i (R26). -/
def laneOf (base width swizzle i : Nat) : Nat := base + ((i % width) ^^^ ((i / width * swizzle) % width))

/-- Whether a workgroup works: it is not saved, and its partition is running (R353). -/
def wgActive (s : State) (w : Workgroup) : Bool := !w.saved && (partAt s w.part).pstate = .running

/-- The allowance of a partition on a die: held at no more than 32 while a sensor has made the die hot (R350, R382). -/
def allowOn (s : State) (die part : Nat) : Nat :=
  let a := (partAt s part).allow
  if (s.thermal[die]?).getD false then min a 32 else a

/-- Whether Bridle gives a partition the cycle on a core's die (R351). -/
def bridleLets (s : State) (core part : Nat) : Bool :=
  let a := allowOn s (dieOf core) part
  let j := clkOf s (dieOf core) % 64
  decide (j * a / 64 < (j + 1) * a / 64)

/-- Whether a workgroup's words, k-steps, rows and units may go on now: it is not saved, and its partition is running and has the cycle (R351,
R353). -/
def wgIssues (s : State) (w : Workgroup) : Bool := wgActive s w && bridleLets s w.core w.part

/-- Threads of a workgroup that are live: started and not exited (R188). -/
def liveOf (s : State) (w : Nat) : List Nat := (s.threads.map (·.1)).filter fun t => wgOf t = w

/-- The 64-bit address of a thread's next word (R25). -/
def wordAddr (th : Thread) : DWord := th.span + BitVec.ofNat 64 (8 * th.off)

end Sys2Proof.Machine
end

