-- ==== Sys2Proof/Machine/Poison.lean ====
section
/-! DEFINITION. Poison tokens, the record table, taint and the check-interval register (R143 to R149, R151, R153, R165, R166). -/

namespace Sys2Proof.Machine

/-- Codes of R144. -/
def causeCode : Cause → Byte
  | .pageMiss => 0x01#8 | .perm => 0x02#8 | .bounds => 0x03#8 | .spadBounds => 0x04#8 | .ecc => 0x05#8 | .illegal => 0x06#8
  | .invalid => 0x07#8 | .writeFrozen => 0x08#8 | .scaleCount => 0x09#8 | .format => 0x0A#8 | .abft => 0x0B#8
  | .remoteUnacked => 0x0C#8 | .remoteFault => 0x0D#8 | .swmLost => 0x0E#8 | .txConflict => 0x10#8 | .txLocal => 0x11#8
  | .txCapacity => 0x12#8 | .txPreempt => 0x13#8 | .noncanon => 0x14#8 | .overflow => 0x1E#8 | .user => 0x1F#8

/-- Service classes of R144. -/
inductive CauseClass | serviceable | immediate | final
  deriving DecidableEq, Repr

def causeClass : Cause → CauseClass
  | .pageMiss | .perm | .remoteFault => .serviceable
  | .txConflict | .txLocal | .txPreempt => .immediate
  | _ => .final

/-- The class of a cause code, if R144 assigns the code. -/
def codeClass (c : Byte) : Option CauseClass :=
  match c.toNat with
  | 0x01 | 0x02 | 0x0D => some .serviceable
  | 0x10 | 0x11 | 0x13 => some .immediate
  | 0x03 | 0x04 | 0x05 | 0x06 | 0x07 | 0x08 | 0x09 | 0x0A | 0x0B | 0x0C | 0x0E | 0x12 | 0x14 | 0x1E | 0x1F => some .final
  | _ => none

/-! Status values (R145). -/
def stFree : Byte := 0#8
def stFinal : Byte := 1#8
def stPending : Byte := 2#8
def stServiced : Byte := 3#8
def stRefused : Byte := 4#8

def PoisonRec.zero : PoisonRec := ⟨0, 0, 0, 0, 0, 0, 0, 0, 0, 0, 0⟩

/-- The 256 bits of a record (R145). -/
def recBits (r : PoisonRec) : BitVec 256 :=
  r.faddr ++ r.lmask ++ r.origin ++ r.offset ++ r.wgslot ++ r.part ++ 0#4 ++ r.status ++ r.gen ++ r.cause ++ r.seq ++ r.merges

/-- A token (R143). -/
def mkToken (index gen cause seq : Byte) : Word := index ++ gen ++ cause ++ seq

def tokIndex (t : Word) : Nat := (t.extractLsb' 24 8).toNat
def tokGen (t : Word) : Byte := t.extractLsb' 16 8
def tokCause (t : Word) : Byte := t.extractLsb' 8 8

def recAt (s : State) (core i : Nat) : PoisonRec := lookD (coreAt s core).recs i PoisonRec.zero

def setRec (s : State) (core i : Nat) (r : PoisonRec) : State := modCore s core fun c => { c with recs := put c.recs i r }

/-- Why a token is made: the cause, the faulting address if there is one, and what a fault queue entry says of it (R368). -/
structure Why where
  cause : Cause
  addr : Option DWord
  window : Bool
  write : Bool
  deriving DecidableEq, Repr

def why (c : Cause) (a : DWord) : Why := ⟨c, some a, false, false⟩

/-- Where a token is made: the issue or engine operation, its core and workgroup, the word, and the thread's lane and index. -/
structure Org where
  issue : Nat
  core : Nat
  wg : Nat
  span : DWord
  off : Nat
  lane : Nat
  idx : Nat
  deriving DecidableEq, Repr

/-- Whether a thread holds a record, by its index and generation: its region's list names it, its next region will take a late taint of it, or a
recovery entry wrote its token and the thread has not committed since (R148, R155). -/
def holdsRec (th : Thread) (i gen : Nat) : Bool :=
  th.region.list.contains (i, gen)
    || (match th.cond with
      | .replay late => late.any fun t => tokIndex t = i && (tokGen t).toNat = gen
      | _ => false)
    || th.recovTok = some (i, gen)

/-- Whether some thread of the core holds the record that stands at an index (R148). -/
def recNamed (s : State) (core i : Nat) : Bool :=
  s.threads.any fun (t, th) =>
    (match wgAt s (wgOf t) with
      | some w => w.core = core
      | none => false)
    && holdsRec th i (recAt s core i).gen.toNat

/-- Whether a note of an issue names the record that stands at its index (R143, R146). -/
def noteStands (s : State) (f : IssueFault) : Bool :=
  f.idx = 0 || ((recAt s f.core f.idx).gen = tokGen f.token && (recAt s f.core f.idx).status ≠ stFree)

/-- Whether a record is held (R148). -/
def recHeld (s : State) (core i : Nat) : Bool :=
  (recAt s core i).status = stPending || recNamed s core i || s.issueFaults.any fun f => f.core = core && f.idx = i && noteStands s f

/-- The record that an allocation takes: the lowest-numbered FREE one, else the reclaimable one of oldest allocation (R148). -/
def allocIndex (s : State) (core : Nat) : Option Nat :=
  match (List.range' 1 255).find? fun i => (recAt s core i).status = stFree with
  | some i => some i
  | none => (coreAt s core).order.find? fun i => !recHeld s core i

/-- The fault queue entry of a record (R368). -/
def faultEntry (r : PoisonRec) (core i : Nat) (window write : Bool) : BitVec 512 :=
  recBits r ++ 0#230 ++ (if window then 1#1 else 0#1) ++ (if write then 1#1 else 0#1) ++ BitVec.ofNat 8 core ++ BitVec.ofNat 8 i ++ 0#8

def orBit (m : DWord) (lane : Nat) : DWord := m ||| BitVec.ofNat 64 (2 ^ lane)

/-- The slot and the partition of a workgroup. -/
def slotPart (s : State) (w : Nat) : Nat × Nat :=
  match wgAt s w with
  | some x => (x.slot, x.part)
  | none => (0, 0)

/-- The STICKY bit of a workgroup's check-interval register; of a retired one, of its launch's completion status (R149, R166). -/
def markSticky (s : State) (wg : Nat) : State :=
  match wgAt s wg with
  | none => s
  | some w =>
    if w.retired then modLaunch s w.launch fun l => { l with sticky := true }
    else setWg s wg { w with cir := orBit w.cir 63 }

/-- The note that an issue has a token for its distinct triple of workgroup, cause and page (R146). -/
def noteFault (s : State) (o : Org) (f : Why) (i : Nat) (tok : Word) : State :=
  { s with issueFaults := s.issueFaults ++ [⟨o.issue, o.core, o.wg, f.cause, f.addr.map fun a => a.toNat / 65536, i, tok, o.idx⟩] }

/-- A merge into record 0: one event, whose threads all receive its token (R146, R149). -/
def mergeOverflow (s : State) (o : Org) (f : Why) : State × Word :=
  let c := coreAt s o.core
  let r := recAt s o.core 0
  let r := { r with merges := if r.merges = BitVec.allOnes 16 then r.merges else r.merges + 1 }
  let tok := mkToken 0 0 (causeCode .overflow) c.seq
  let s := setCore s o.core { c with recs := put c.recs 0 r, seq := c.seq + 1 }
  (noteFault (markSticky s o.wg) o f 0 tok, tok)

/-- A newly allocated record (R146 to R148). -/
def allocRecord (s : State) (o : Org) (f : Why) : State × Word :=
  match allocIndex s o.core with
  | none => mergeOverflow s o f
  | some i =>
    let c := coreAt s o.core
    let sp := slotPart s o.wg
    let gen := (recAt s o.core i).gen + 1
    let pending : Bool := causeClass f.cause = .serviceable
    let r : PoisonRec :=
      { faddr := f.addr.getD 0, lmask := orBit 0 o.lane, origin := o.span.setWidth 56, offset := BitVec.ofNat 8 o.off,
        wgslot := BitVec.ofNat 8 sp.1, part := BitVec.ofNat 4 sp.2, status := if pending then stPending else stFinal,
        gen := gen, cause := causeCode f.cause, seq := c.seq, merges := 0 }
    let tok := mkToken (BitVec.ofNat 8 i) gen (causeCode f.cause) c.seq
    let s := setCore s o.core { c with recs := put c.recs i r, order := c.order.filter (· ≠ i) ++ [i], seq := c.seq + 1 }
    let s := noteFault s o f i tok
    (if pending then modPart s sp.2 (fun p => { p with faultWait := p.faultWait ++ [faultEntry r o.core i f.window f.write] }) else s, tok)

/-- A fault of an issue that already has a record for its workgroup, cause and page: the lanes join, and FADDR is the address of the
lowest-indexed thread (R146); record 0 keeps neither (R149). -/
def joinRecord (s : State) (o : Org) (f : Why) (x : IssueFault) : State :=
  if x.idx = 0 then s else
  let r := recAt s x.core x.idx
  let lower : Bool := decide (o.idx < x.lead)
  let r' := { r with lmask := orBit r.lmask o.lane, faddr := if lower then f.addr.getD 0 else r.faddr }
  let s := setRec s x.core x.idx r'
  let s := { s with issueFaults := s.issueFaults.map fun y => if y = x && lower then { y with lead := o.idx } else y }
  modPart s (slotPart s x.wg).2 fun p =>
    { p with faultWait := p.faultWait.map fun e =>
        if e.extractLsb' 256 256 = recBits r && e.extractLsb' 16 8 = BitVec.ofNat 8 x.core && e.extractLsb' 8 8 = BitVec.ofNat 8 x.idx
        then recBits r' ++ e.extractLsb' 0 256 else e }

/-- MakeToken: one record for each distinct workgroup, cause and 64 KiB page of one issue or engine operation (R146); a record that its workgroup's
retirement has freed is gone (R148). -/
def makeToken (s : State) (o : Org) (f : Why) : State × Word :=
  match s.issueFaults.find? fun x =>
      x.issue = o.issue && x.core = o.core && x.wg = o.wg && x.cause = f.cause && (x.page = f.addr.map fun a => a.toNat / 65536) && noteStands s x with
  | some x => (joinRecord s o f x, x.token)
  | none => allocRecord s o f

/-- Whether an engine still works on an operation, whose faults share records (R146). -/
def engineBusy (s : State) (issue : Nat) : Bool :=
  s.cores.any (fun p => p.2.mxq.any (fun q => q.2.issue = issue) || p.2.cpq.any fun q => q.2.issue = issue)
    || s.xfers.any fun p => p.2.issue = issue

/-- Errors counted by structure, in the order of R379's table from 0: corrected ones, and uncorrected ones (R381). -/
def countCorrected (s : State) (k : Nat) : State := { s with eccCorrected := put s.eccCorrected k (lookD s.eccCorrected k 0 + 1) }
def countUncorrected (s : State) (k : Nat) : State := { s with eccUncorrected := put s.eccUncorrected k (lookD s.eccUncorrected k 0 + 1) }

/-- Structures of R379's table whose errors other steps find: the matrix array, links, control state. -/
def structArray : Nat := 3
def structLinks : Nat := 5
def structControl : Nat := 6

/-- Records of an issue stop being held for it once its last access is done (R148). -/
def endIssue (s : State) (issue : Nat) : State :=
  if s.ops.any (fun p => p.2.issue = issue) || s.late.any (fun p => p.2.issue = issue) || engineBusy s issue then s
  else { s with issueFaults := s.issueFaults.filter fun x => x.issue ≠ issue }

/-- Taint(tok) on a region (R151, R153). -/
def taintRegion (r : Region) (tok : Word) : Region :=
  let p := (tokIndex tok, (tokGen tok).toNat)
  let r1 := { r with taint := true, first := if r.taint then r.first else tok }
  if r.list.contains p then r1
  else if r.list.length < 4 then { r1 with list := r.list ++ [p] }
  else { r1 with full := true }

def taint (s : State) (t : Nat) (tok : Word) : State := modTh s t fun th => { th with region := taintRegion th.region tok }

/-- Whether a token names a live record of a workgroup (R143). -/
def tokenLive (s : State) (core slot : Nat) (tok : Word) : Bool :=
  let r := recAt s core (tokIndex tok)
  tokCause tok ≠ 0 && tokIndex tok ≠ 0 && r.status ≠ stFree && r.gen = tokGen tok && r.wgslot = BitVec.ofNat 8 slot

/-! ## The check-interval register (R165, R166) -/

def cirCount (x : DWord) : Nat := (x.extractLsb' 32 16).toNat

/-- One event recorded: COUNT, the engine bit if there is one, and FIRST (R166). -/
def cirEvent (x : DWord) (bit : Option Nat) (tok : Word) : DWord :=
  let n := cirCount x
  let hi := match bit with
    | some b => orBit x b
    | none => x
  hi.extractLsb' 48 16 ++ BitVec.ofNat 16 (min (n + 1) 0xFFFF) ++ (if n = 0 then tok else x.setWidth 32)

/-- Engine bits of the register (R165). -/
def engineBit : Engine → Nat
  | .matrix => 48 | .copy => 49 | .xfer => 50 | .freeze => 51 | .launch => 52

/-- A token merged into a launch's completion status (R166). -/
def mergeFirst (l : Launch) (tok : Word) : Launch := { l with first := if l.first = 0 then tok else l.first }

/-- An event of a workgroup; of a retired one it goes to its launch's completion status (R155, R166). -/
def recordEvent (s : State) (wg launch : Nat) (bit : Option Nat) (tok : Word) : State :=
  match (wgAt s wg).filter fun w => !w.retired with
  | some w => setWg s wg { w with cir := cirEvent w.cir bit tok }
  | none =>
    modLaunch s launch fun l =>
      mergeFirst { l with
        count := min (l.count + 1) 0xFFFF
        events := match bit with
          | some b => l.events ||| BitVec.ofNat 5 (2 ^ (b - 48))
          | none => l.events } tok

end Sys2Proof.Machine
end

