-- ==== Sys2Proof/Machine/Memory.lean ====
section
/-! DEFINITION. Physical memory and scratchpad: the physical map (R356, R389), poisoned sectors (R150), the keys of encrypted memory
(R366, R374), the freeze filter (R299) and core-pinned granules (R204, R207). -/

namespace Sys2Proof.Machine

/-- What a physical address names (R356, R389). -/
inductive Home
  | dram (die : Nat)
  | lpddr
  | cxl (k : Nat)
  | pinned (core granule : Nat)
  | hub
  | device (n off : Nat)
  | switch (plane sw off : Nat)
  /-- The map lists nothing there. -/
  | hole
  deriving DecidableEq, Repr

/-- The physical map (R356, R389). -/
def homeOf (s : State) (pa : Nat) : Home :=
  if 2 ^ 51 ≤ pa then
    if pa / 2 ^ 50 % 2 = 0 then
      let n := pa / 2 ^ 39 % 2 ^ 11
      if n ≤ 1025 && n ≠ s.pkg then .device n (pa % 2 ^ 39) else .hole
    else
      let sw := pa / 2 ^ 40 % 64
      if sw ≤ 56 && pa / 2 ^ 38 % 4 = 0 then .switch (pa / 2 ^ 46 % 16) sw (pa % 2 ^ 38) else .hole
  else if pa < 0x8000000000 then (if pa % 0x2000000000 < 96 * 2 ^ 30 then .dram (pa / 0x2000000000) else .hole)
  else if 0x010000000000 ≤ pa && pa ≤ 0x04FFFFFFFFFF then .lpddr
  else if 0x100000000000 ≤ pa && pa < 0x100000000000 + 4 * 0x40000000000 then
    let k := (pa - 0x100000000000) / 0x40000000000
    if (pa - 0x100000000000) % 0x40000000000 < (s.cxlsz[k]?).getD 0 then .cxl k else .hole
  else if 0x0E0000000000 ≤ pa && pa < 0x0E0000000000 + 256 * 0x200000 then
    let g := (pa - 0x0E0000000000) % 0x200000 / 0x10000
    if g < 24 then .pinned ((pa - 0x0E0000000000) / 0x200000) g else .hole
  else if 0x0F0000000000 ≤ pa && pa ≤ 0x0F000FFFFFFF then .hub
  else .hole

/-- Memory of the package (R309): stacked DRAM, LPDDR 6 or CXL memory. -/
def isPkgMem : Home → Bool
  | .dram _ | .lpddr | .cxl _ => true
  | _ => false

/-- Memory that is encrypted (R374). -/
def isKeyed : Home → Bool
  | .lpddr | .cxl _ => true
  | _ => false

/-- Whether a location lies outside the package (R168, R268). -/
def isRemote : Home → Bool
  | .device .. | .switch .. => true
  | _ => false

def locHome (s : State) : Loc → Home
  | .spad _ _ => .hole
  | .phys pa _ _ _ => homeOf s pa

/-- The core that homes a location, if a core does (R207): the workgroup's core, or the owner of the granule. -/
def coreHome (s : State) : Loc → Option Nat
  | .spad w _ => (wgAt s w).map (·.core)
  | .phys pa _ _ _ => match homeOf s pa with
    | .pinned c _ => some c
    | _ => none

/-- The home slice of an address (R285). -/
def sliceOf (s : State) (pa : Nat) : Nat :=
  let f (lo n : Nat) : Nat := pa / 2 ^ lo % 2 ^ n
  match homeOf s pa with
  | .dram d => 64 * d + (f 8 6 ^^^ f 14 6 ^^^ f 20 6 ^^^ f 26 6 ^^^ f 32 6)
  | _ => f 8 8 ^^^ f 16 8 ^^^ f 24 8 ^^^ f 32 8 ^^^ f 40 8

/-- The die of a home slice. -/
def homeDie (s : State) (pa : Nat) : Nat := sliceOf s pa / 64

/-- Whether two byte ranges overlap. -/
def rangesMeet (a n b m : Nat) : Bool := decide (a < b + m) && decide (b < a + n)

/-- Whether two locations name common bytes. -/
def locsMeet (x : Loc) (n : Nat) (y : Loc) (m : Nat) : Bool :=
  match x, y with
  | .spad w a, .spad v b => w = v && rangesMeet a n b m
  | .phys a _ _ _, .phys b _ _ _ => rangesMeet a n b m
  | _, _ => false

def locAdd (l : Loc) (k : Nat) : Loc :=
  match l with
  | .spad w a => .spad w (a + k)
  | .phys pa m key p => .phys (pa + k) m key p

def locAddr : Loc → Nat
  | .spad _ a => a
  | .phys pa _ _ _ => pa

/-- The sectors that n bytes from a touch. -/
def sectorsOf (a n : Nat) : List Nat := List.range' (a / 64) ((a + n + 63) / 64 - a / 64)

/-! ## Poisoned sectors (R150) -/

/-- The cause of the first poisoned sector among those that n bytes from a touch. -/
def poisonIn (p : NMap Cause) (a n : Nat) : Option Cause :=
  (List.range' (a / 64) ((a + n + 63) / 64 - a / 64)).findSome? (look p)

def poisonAt (s : State) (l : Loc) (n : Nat) : Option Cause :=
  match l with
  | .spad w a => match wgAt s w with
    | some x => poisonIn x.spadPoison a n
    | none => none
  | .phys pa _ _ _ => poisonIn s.poison pa n

/-- The bytes that a write changes, sector by sector: a thread's write changes nothing in a poisoned sector; an engine's write cleans a
sector whose 64 bytes it covers (R150). -/
def writeSectors (engine : Bool) (mem : Memory) (p : NMap Cause) (a : Nat) : List Byte → Nat → Memory × NMap Cause
  | _, 0 => (mem, p)
  | bs, k + 1 =>
    if bs = [] then (mem, p)
    else
      let n := 64 - a % 64
      let now := bs.take n
      match look p (a / 64) with
      | none => writeSectors engine (memSetN mem a now) p (a + n) (bs.drop n) k
      | some _ =>
        if engine && now.length = 64 then writeSectors engine (memSetN mem a now) (del p (a / 64)) (a + n) (bs.drop n) k
        else writeSectors engine mem p (a + n) (bs.drop n) k

/-- A sector made poisoned: its cause in byte 0 and zeros (R150). -/
def poisonSector (mem : Memory) (p : NMap Cause) (sec : Nat) (c : Cause) : Memory × NMap Cause :=
  (memSetN mem (64 * sec) (causeCode c :: List.replicate 63 0#8), put p sec c)

/-- An engine write of n bytes from a that carries poison: every sector that it touches becomes poisoned, but one that is poisoned already and
that it covers only in part keeps its cause (R150). -/
def poisonRange (mem : Memory) (p : NMap Cause) (a n : Nat) (c : Cause) : Memory × NMap Cause :=
  (List.range' (a / 64) ((a + n + 63) / 64 - a / 64)).foldl (fun x sec =>
    if (look x.2 sec).isSome && !(decide (a ≤ 64 * sec) && decide (64 * sec + 64 ≤ a + n)) then x else poisonSector x.1 x.2 sec c) (mem, p)

/-! ## Keys (R366, R374) -/

/-- The key of a slot now: the slot and the generation of its key. -/
def keyNow (s : State) (slot : Nat) : Nat × Nat := (slot, (s.keyGen[slot]?).getD 0)

/-- Whether a sector's bytes are undecryptable under a key: it was written under another. -/
def wrongKey (s : State) (pa key : Nat) : Bool :=
  isKeyed (homeOf s pa) && match look s.memKey (pa / 64) with
    | some k => k ≠ keyNow s key
    | none => false

/-- The write of one sector's bytes under a key: in a sector that another key wrote, the other bytes become undecryptable, that is
free, under the new key (R366). -/
def keySector (s : State) (pa key : Nat) : State :=
  if isKeyed (homeOf s pa) then
    let s1 :=
      if wrongKey s pa key then
        let d := drawBytes s 64
        { d.2 with mem := memSetN d.2.mem (64 * (pa / 64)) d.1 }
      else s
    { s1 with memKey := put s1.memKey (pa / 64) (keyNow s1 key) }
  else s

/-- The sectors that a write changes: not those that are poisoned, but for an engine's write that covers them whole (R150). -/
def changedSectors (s : State) (engine : Bool) (pa n : Nat) : List Nat :=
  (sectorsOf pa n).filter fun sec =>
    (look s.poison sec).isNone || (engine && decide (pa ≤ 64 * sec) && decide (64 * sec + 64 ≤ pa + n))

/-- Sectors about to be written: under the writer's key (R366, R374), and dirty in their home slice, where an error is not undone any more (R287). -/
def ownSectors (s : State) (secs : List Nat) (key : Nat) : State :=
  secs.foldl (fun s sec =>
    let s := keySector s (64 * sec) key
    if isPkgMem (homeOf s (64 * sec)) then { s with sliceClean := del s.sliceClean sec, sliceDirty := put s.sliceDirty sec () } else s) s

/-! ## Reading and writing -/

/-- The n bytes from an address, sector by sector, in at most k of them: those that another key wrote are free (R366). -/
def readSectors (s : State) (key : Nat) : Nat → Nat → Nat → List Byte × State
  | 0, _, _ => ([], s)
  | k + 1, a, n =>
    if n = 0 then ([], s)
    else
      let m := min n (64 - a % 64)
      let x := if wrongKey s a key then drawBytes s m else (memGetN s.mem a m, s)
      let r := readSectors x.2 key k (a + m) (n - m)
      (x.1 ++ r.1, r.2)

/-- The n bytes at a location, without regard to poison; the bytes of sectors under another key are free (R366). -/
def readLoc (s : State) (l : Loc) (n : Nat) : List Byte × State :=
  match l with
  | .spad w a => match wgAt s w with
    | some x => (memGetN x.spad a n, s)
    | none => (List.replicate n 0#8, s)
  | .phys pa _ key _ =>
    if (sectorsOf pa n).any fun sec => wrongKey s (64 * sec) key then readSectors s key (sectorsOf pa n).length pa n else (memGetN s.mem pa n, s)

/-- Bytes written at a location (R150). -/
def writeLoc (s : State) (engine : Bool) (l : Loc) (bs : List Byte) : State :=
  match l with
  | .spad w a =>
    modWg s w fun x =>
      let r := writeSectors engine x.spad x.spadPoison a bs bs.length
      { x with spad := r.1, spadPoison := r.2 }
  | .phys pa _ key _ =>
    let s := ownSectors s (changedSectors s engine pa bs.length) key
    let r := writeSectors engine s.mem s.poison pa bs bs.length
    { s with mem := r.1, poison := r.2 }

/-- Every sector that n bytes touch made poisoned (R150). -/
def poisonLoc (s : State) (l : Loc) (n : Nat) (c : Cause) : State :=
  match l with
  | .spad w a =>
    modWg s w fun x =>
      let r := poisonRange x.spad x.spadPoison a n c
      { x with spad := r.1, spadPoison := r.2 }
  | .phys pa _ key _ =>
    let s := ownSectors s (changedSectors s true pa n) key
    let r := poisonRange s.mem s.poison pa n c
    { s with mem := r.1, poison := r.2 }

/-! ## Errors in a home slice (R287) -/

/-- An uncorrectable error in a slice's copy of a sector: it poisons the sector, and of a clean one DRAM keeps the bytes. -/
def strikeSlice (s : State) (sec : Nat) : State :=
  let old := memGetN s.mem (64 * sec) 64
  let r := poisonSector s.mem s.poison sec .ecc
  { s with
    mem := r.1, poison := r.2
    sliceClean := if (look s.sliceDirty sec).isSome || (look s.poison sec).isSome then s.sliceClean else put s.sliceClean sec old }

/-- Whether a line belongs to a slice-pinned page, so that its slice never evicts it (R287, R288). -/
def linePinned (s : State) (line : Nat) : Bool := s.slicePinned.any fun p => decide (p.1 ≤ 256 * line) && decide (256 * line < p.1 + p.2)

/-- A sector leaves its slice: a dirty one is written back with its poison, and what an error did to a clean one is gone with it. -/
def evictSlice (s : State) (sec : Nat) : State :=
  match look s.sliceClean sec with
  | some bs => { s with mem := memSetN s.mem (64 * sec) bs, poison := del s.poison sec, sliceClean := del s.sliceClean sec }
  | none => { s with sliceDirty := del s.sliceDirty sec }

/-- The eviction of a line of a home slice (R287). -/
def evictSliceLine (s : State) (line : Nat) : State :=
  if linePinned s line then s else (List.range' (4 * line) 4).foldl evictSlice s

/-! ## The freeze filter (R299, R301) -/

/-- Whether an entry covers an address. -/
def covers (f : FreezeEntry) (pa : Nat) : Bool :=
  decide (f.pgran ≤ pa / 65536) && decide (pa / 65536 < f.pgran + f.count)

/-- Whether writes to an address are refused: an entry that covers it is installed and not yet FREE again. An entry of a freeze that
is FREEZING is installed from the step that takes it (R299, log 13). -/
def isFrozen (s : State) (pa n : Nat) : Bool :=
  s.freezes.any fun (_, f) => f.state ≠ .free && (covers f pa || covers f (pa + n - 1))

def locFrozen (s : State) (l : Loc) (n : Nat) : Bool :=
  match l with
  | .spad _ _ => false
  | .phys pa _ _ _ => isPkgMem (homeOf s pa) && isFrozen s pa n

/-- Whether a scratchpad line is absent (R206). -/
def lineAbsent (s : State) (l : Loc) (n : Nat) : Bool :=
  match l with
  | .spad w a => match wgAt s w with
    | some x => (List.range' (a / 128) ((a + n + 127) / 128 - a / 128)).any fun k => (look x.absent k).isSome
    | none => false
  | _ => false

end Sys2Proof.Machine
end

