-- ==== Sys2Proof/Machine/Lines.lean ====
section
/-! DEFINITION. The entries of the directories and the messages on their way, by line of 256 bytes, and when a line or a sector is in the middle of
a write or of a recall (R292, R293, R296, R297). Clusters are numbered over the package; an entry of a die names them by their place in the
die. -/

namespace Sys2Proof.Machine

def dirAt (s : State) (die line : Nat) : Option DirEntry := look (lookD s.dirs die []) line
def setDir (s : State) (die line : Nat) (e : DirEntry) : State := { s with dirs := put s.dirs die (put (lookD s.dirs die []) line e) }
def freeDir (s : State) (die line : Nat) : State := { s with dirs := alter s.dirs die fun m => del m line }

/-- The clusters that an entry names: both clusters of every set pair in coarse form (R292). -/
def DirEntry.named (e : DirEntry) : List Nat := if e.coarse then e.ptrs.flatMap fun p => [2 * p, 2 * p + 1] else e.ptrs

def sendMsg (s : State) (m : MsgKind) : State :=
  let k := freshId s
  { k.2 with msgs := put k.2.msgs k.1 m }

/-- The way of a message about a line between one sender and one receiver, where messages keep their order (R296). -/
def channel : MsgKind → Option (Nat × Nat × Nat)
  | .inval die cl line _ _ | .downgrade die cl line => some (0, 32 * die + cl, line)
  | .notice die cl line => some (1, 32 * die + cl, line)
  | .pkgRead die _ line | .pkgNotice die line | .pkgInval line _ die => some (2, die, line)
  | .dieInval die line => some (3, die, line)
  | _ => none

/-- Whether a message is the earliest on its way (R296). -/
def inOrder (s : State) (m : Nat) (k : MsgKind) : Bool :=
  (channel k).isNone || !(s.msgs.any fun p => decide (p.1 < m) && channel p.2 = channel k)

/-- A message taken, if it may be delivered now. -/
def takeMsg (s : State) (m : Nat) : Option (MsgKind × State) :=
  match look s.msgs m with
  | some k => if inOrder s m k then some (k, { s with msgs := del s.msgs m }) else none
  | none => none

/-- Whether a write counts the acknowledgements of its invalidations. -/
def isCounting (o : Op) : Bool :=
  match o.phase with
  | .counting _ => true
  | _ => false

/-- Whether a write to a line still counts acknowledgements (R296). -/
def lineCounting (s : State) (line : Nat) : Bool :=
  s.ops.any fun (_, o) => isCounting o && match o.loc with
    | .phys pa _ _ _ => pa / 256 = line
    | _ => false

def entryBusy (e : Option DirEntry) : Bool :=
  match e with
  | some e => e.recalling || decide (0 < e.waiting)
  | none => false

def pkgBusy (s : State) (line : Nat) : Bool :=
  match look s.pkgDir line with
  | some e => e.recalling || decide (0 < e.waiting)
  | none => false

/-- Whether a line is in the middle of a write, a recall or an invalidation, for which a read waits (R296, R297). -/
def lineBusy (s : State) (die line : Nat) : Bool :=
  lineCounting s line || entryBusy (dirAt s die line) || entryBusy (dirAt s (homeDie s (256 * line)) line) || pkgBusy s line

/-- An entry that names one cluster, with one sector in a state (R294). -/
def newEntry (k sec state : Nat) : DirEntry :=
  { sstate := [0, 0, 0, 0].set sec state, remote := false, coarse := false, ptrs := [k], waiting := 0, recalling := false }

/-- Whether nothing about a line is under way in any directory, so that a transaction's step may hold it (R171, R296). -/
def lineQuiet (s : State) (line : Nat) : Bool :=
  !lineCounting s line && !pkgBusy s line && s.dirs.all fun p => !entryBusy (look p.2 line)

/-- Whether a line that n bytes touch is not quiet, so that a write from outside the cores waits (R296). -/
def linesBusy (s : State) (pa n : Nat) : Bool :=
  isPkgMem (homeOf s pa) && (List.range' (pa / 256) ((pa + n + 255) / 256 - pa / 256)).any fun line => !lineQuiet s line

/-- Whether a sector of n bytes has a write that still counts acknowledgements, for which another access waits (R296). -/
def sectorsCounting (s : State) (pa n : Nat) : Bool :=
  s.ops.any fun (_, p) => isCounting p && match p.loc with
    | .phys b _ _ _ => (sectorsOf pa n).any fun x => (sectorsOf b p.n).contains x
    | .spad _ _ => false

end Sys2Proof.Machine
end

