-- ==== Sys2Proof/Machine/Translate.lean ====
section
/-! DEFINITION. Translation: page walks, TLBs and access checks (R210, R279, R288, R357 to R362, R366, R390). -/

namespace Sys2Proof.Machine

/-- A failed translation: its cause, and whether a window refused it (R359, R368). -/
structure XFault where
  cause : Cause
  window : Bool
  deriving DecidableEq, Repr

/-- The window of a partition that covers a granule (R366). -/
def windowOf (p : Partition) (granule : Nat) : Option Window :=
  p.windows.find? fun w => w.valid && decide (w.first ≤ granule) && decide (granule ≤ w.last)

/-- Whether every granule of a range lies inside some VALID window (R366). -/
def inWindows (p : Partition) (pa n : Nat) : Bool :=
  (List.range' (pa / 65536) ((pa + n + 65535) / 65536 - pa / 65536)).all fun g => (windowOf p g).isSome

/-- The key slot of the window that covers an address, among some VALID windows (R366, R374). -/
def keyIn (ws : List Window) (pa : Nat) : Nat :=
  match ws.find? fun w => w.valid && decide (w.first ≤ pa / 65536) && decide (pa / 65536 ≤ w.last) with
  | some w => w.key
  | none => 0

def keyOf (p : Partition) (pa : Nat) : Nat := keyIn p.windows pa

def pteBit (e : DWord) (k : Nat) : Bool := e.getLsbD k
def pteHome (e : DWord) : Nat := (e.extractLsb' 58 2).toNat
def pteMode (e : DWord) : Nat := (e.extractLsb' 56 2).toNat

/-- HOME and MODE combinations of R288; a leaf of a fabric address has HOME 0 and MODE tracked or uncached (R390). -/
def homeModeOk (e : DWord) (fabric : Bool) : Bool :=
  if fabric then pteHome e = 0 && (pteMode e = 0 || pteMode e = 2)
  else match pteHome e with
    | 0 | 1 => pteMode e ≠ 3
    | 2 => true
    | _ => pteMode e = 2

/-- Bytes that a leaf maps at a level, and the table size below a level (R357). -/
def leafSize : Nat → Nat
  | 0 => 65536
  | 1 => 2 ^ 21
  | _ => 2 ^ 30

def tableSize : Nat → Nat
  | 0 => 256
  | 1 => 4096
  | _ => 65536

/-- The first bit and the width of the index of a level (R357). -/
def levelBits : Nat → Nat × Nat
  | 0 => (16, 5)
  | 1 => (21, 9)
  | 2 => (30, 13)
  | _ => (43, 13)

/-- Whether a page of so many bytes is backed by memory of one kind throughout (R359). -/
def pageBacked (s : State) (pa size : Nat) : Bool :=
  match homeOf s pa, homeOf s (pa + size - 1) with
  | .dram a, .dram b => a = b
  | .lpddr, .lpddr => true
  | .cxl a, .cxl b => a = b
  | .device a _, .device b _ => a = b
  | .switch p a _, .switch q b _ => p = q && a = b
  | .pinned c g, .pinned d k =>
    c = d && (List.range' g (k + 1 - g)).all fun j => (coreAt s c).carve.getLsbD j
  | _, _ => false

/-- Reserved bits of an entry (R358). -/
def pteReserved (e : DWord) : Bool :=
  e.extractLsb' 60 4 ≠ 0 || e.extractLsb' 52 4 ≠ 0 || e.extractLsb' 6 2 ≠ 0 || e.getLsbD 4

/-- The physical address of a leaf's page or of a pointer's table (R358). -/
def pteAddr (e : DWord) (leaf : Bool) : Nat :=
  65536 * (e.extractLsb' 16 36).toNat + if leaf then 0 else 256 * (e.extractLsb' 8 8).toNat

/-- The access permission of a leaf (R358). -/
def permits (e : DWord) : AccKind → Bool
  | .read => pteBit e 2
  | .write => pteBit e 3
  | .atomic => pteBit e 2 && pteBit e 3
  | .fetch => pteBit e 5

/-- The checks of R359 on a leaf of a level, before its permission. -/
def leafFault (s : State) (p : Partition) (level : Nat) (e : DWord) : Option XFault :=
  let pa := pteAddr e true
  let size := leafSize level
  if pteReserved e || level = 3 || e.extractLsb' 8 8 ≠ 0 || pa % size ≠ 0 || !homeModeOk e (decide (2 ^ 51 ≤ pa))
      || !pageBacked s pa size then some ⟨.perm, false⟩
  else if !inWindows p pa size then some ⟨.perm, true⟩
  else none

/-- The checks of R359 on a pointer at a level, whose table serves the level below. -/
def pointerFault (s : State) (p : Partition) (level : Nat) (e : DWord) : Option XFault :=
  let pa := pteAddr e false
  let size := tableSize (level - 1)
  if pteReserved e || level = 0 || pteHome e ≠ 0 || pteMode e ≠ 0 || pteBit e 2 || pteBit e 3 || pteBit e 5 || pa % size ≠ 0
      || !isPkgMem (homeOf s pa) || !isPkgMem (homeOf s (pa + size - 1)) then some ⟨.perm, false⟩
  else if !inWindows p pa size then some ⟨.perm, true⟩
  else none

/-- The entry of a level that translates an address, and whether it is a leaf, or the first failing check of R359. -/
def walkStep (s : State) (p : Partition) (part table va level : Nat) : Except XFault (Bool × DWord) × State :=
  let b := levelBits level
  let ea := table + 8 * (va / 2 ^ b.1 % 2 ^ b.2)
  match look s.poison (ea / 64) with
  | some c => (.error ⟨c, false⟩, s)
  | none =>
    let r := readLoc s (.phys ea .uncached (keyOf p ea) part) 8
    let e := BitVec.ofNat 64 (leNat r.1)
    if !pteBit e 0 then (.error ⟨.pageMiss, false⟩, r.2)
    else match (if pteBit e 1 then leafFault r.2 p level e else pointerFault r.2 p level e) with
      | some f => (.error f, r.2)
      | none => (.ok (pteBit e 1, e), r.2)

/-- A walk from a level down: the leaf and its level, or the first failing check of R359. The last argument is the number of levels
left. -/
def walkFrom (s : State) (p : Partition) (part table va : Nat) : Nat → Except XFault (DWord × Nat) × State
  | 0 => (.error ⟨.perm, false⟩, s)
  | n + 1 =>
    match walkStep s p part table va n with
    | (.error f, t) => (.error f, t)
    | (.ok (true, e), t) => (.ok (e, n), t)
    | (.ok (false, e), t) => walkFrom t p part (pteAddr e false) va n

/-- The walk of an address space whose level-3 table is at a root (R359). A root outside table memory or the windows fails. -/
def walk (s : State) (part root va : Nat) : Except XFault (DWord × Nat) × State :=
  let p := partAt s part
  if !isPkgMem (homeOf s root) || !isPkgMem (homeOf s (root + 65535)) then (.error ⟨.perm, false⟩, s)
  else if !inWindows p root 65536 then (.error ⟨.perm, true⟩, s)
  else walkFrom s p part root va 4

/-- The entry that a successful walk installs, with the windows that the walk checked the page against (R279, R366). -/
def tlbEntry (s : State) (part asid va : Nat) (e : DWord) (level : Nat) : TlbEntry :=
  { part := part, asid := asid, page := va - va % leafSize level, size := leafSize level, pte := e,
    wins := (partAt s part).windows.filter (·.valid) }

def tlbHit (part asid va : Nat) (e : TlbEntry) : Bool :=
  e.part = part && e.asid = asid && decide (e.page ≤ va) && decide (va < e.page + e.size)

/-- An entry put into a TLB of a capacity, in place of one for its page, the oldest entry leaving when it is full (R279, log 14). -/
def tlbPut (cap : Nat) (t : List TlbEntry) (e : TlbEntry) : List TlbEntry :=
  (e :: t.filter fun x => !(x.part = e.part && x.asid = e.asid && x.page = e.page)).take cap

/-- Core TLB and cluster TLB with an entry installed (R279). -/
def tlbInstall (s : State) (core : Nat) (e : TlbEntry) : State :=
  let s := modCore s core fun c => { c with tlb := tlbPut 512 c.tlb e }
  { s with clusterTlb := put s.clusterTlb (cluOf core) (tlbPut 8192 (lookD s.clusterTlb (cluOf core) []) e) }

/-- A leaf that a walk uses: the lines of a page of HOME 1 are pinned in their home slices (R287, R288). -/
def pinPage (s : State) (e : DWord) (level : Nat) : State :=
  let p := (pteAddr e true, leafSize level)
  let rest := s.slicePinned.filter (· ≠ p)
  { s with slicePinned := if pteHome e = 1 then rest ++ [p] else rest }

/-- A walk for an access of a core that installs its entry; a failed walk, for want of a permission too, installs nothing (R279,
R359). -/
def walkInstall (s : State) (core part va : Nat) (acc : AccKind) : Except XFault TlbEntry × State :=
  let p := partAt s part
  let r := walk s part p.proot va
  match r.1 with
  | .error f => (.error f, r.2)
  | .ok (e, level) =>
    if permits e acc then
      let t := tlbEntry r.2 part p.asid va e level
      (.ok t, tlbInstall (pinPage r.2 e level) core t)
    else (.error ⟨.perm, false⟩, r.2)

/-- The entry that translates an address: of the core TLB, of the cluster TLB, or of a walk (R279). -/
def tlbLookup (s : State) (core part va : Nat) (acc : AccKind) : Except XFault TlbEntry × State :=
  let p := partAt s part
  match (coreAt s core).tlb.find? (tlbHit part p.asid va) with
  | some e => (.ok e, s)
  | none =>
    match (lookD s.clusterTlb (cluOf core) []).find? (tlbHit part p.asid va) with
    | some e => (.ok e, modCore s core fun c => { c with tlb := tlbPut 512 c.tlb e })
    | none => walkInstall s core part va acc

/-- The mode of an access: the page's, moved down by a record's COH (R30, R289). A HOME of 2 ignores MODE, and core-pinned memory, which the
physical address alone names, is never cached (R207, R285, R288). -/
def accessMode (s : State) (e : DWord) (pa coh : Nat) : CMode :=
  if coh = 1 || pteHome e = 2 || (coreHome s (.phys pa .uncached 0 0)).isSome then .uncached
  else match pteMode e with
    | 0 => if coh = 2 then .selfInv else .tracked
    | 1 => .selfInv
    | _ => .uncached

/-- Translate(va, acc) for a core and partition (R210): the location, under the key of the window that covers its granule, or the fault. -/
def translate (s : State) (core part va : Nat) (acc : AccKind) (coh : Nat) : Except XFault Loc × State :=
  let r := tlbLookup s core part va acc
  match r.1 with
  | .error f => (.error f, r.2)
  | .ok e =>
    let pa := pteAddr e.pte true + (va - e.page)
    if permits e.pte acc then (.ok (.phys pa (accessMode s e.pte pa coh) (keyIn e.wins pa) part), r.2)
    else (.error ⟨.perm, false⟩, r.2)

/-- Translation in a partition's export space, by a walk at the target (R392); a leaf that maps a fabric address is a walk failure. -/
def exportWalk (s : State) (part off : Nat) (acc : AccKind) : Except XFault Loc × State :=
  let p := partAt s part
  let r := walk s part p.pexRoot off
  match r.1 with
  | .error f => (.error f, r.2)
  | .ok (e, level) =>
    let pa := pteAddr e true + off % leafSize level
    if 2 ^ 51 ≤ pa || !permits e acc then (.error ⟨.perm, false⟩, r.2)
    else (.ok (.phys pa (accessMode s e pa 0) (keyOf p pa) part), r.2)

end Sys2Proof.Machine
end

