-- ==== Sys2Proof/Machine/Cache.lean ====
section
/-! DEFINITION. The copies that the L1s and the cluster caches hold (R208, R276 to R280, R289, R300, R316). The home always holds the
current value, so a tracked copy needs no bytes here; a self-invalidating copy holds its own; a replica's bytes cannot change while it is held. -/

namespace Sys2Proof.Machine

def clusterAt (s : State) (k : Nat) : NMap CacheSector := lookD s.clusters k []

def setCluster (s : State) (k : Nat) (m : NMap CacheSector) : State := { s with clusters := put s.clusters k m }

def isSelfInv (c : CacheSector) : Bool :=
  match c.kind with
  | .selfInv _ => true
  | _ => false

def isReplica (c : CacheSector) : Bool :=
  match c.kind with
  | .replica => true
  | _ => false

def isTracked (c : CacheSector) : Bool :=
  match c.kind with
  | .tracked _ => true
  | _ => false

/-- A bit of a sector's core vector set or cleared (R277). -/
def setVector (s : State) (core sec : Nat) (on : Bool) : State :=
  match look (clusterAt s (cluOf core)) sec with
  | some c => match c.kind with
    | .tracked cores =>
      let rest := cores.filter (· ≠ core % 8)
      setCluster s (cluOf core) (put (clusterAt s (cluOf core)) sec { c with kind := .tracked (if on then rest ++ [core % 8] else rest) })
    | _ => s
  | none => s

def dropL1 (s : State) (core sec : Nat) : State :=
  if (look (coreAt s core).l1 sec).isSome then modCore s core fun c => { c with l1 := del c.l1 sec } else s

def dropCluster (s : State) (k sec : Nat) : State :=
  if (look (clusterAt s k) sec).isSome then setCluster s k (del (clusterAt s k) sec) else s

/-- The self-invalidating copies that an acquire at a scope drops (R280, R316); it never drops a replica or a tracked copy. -/
def dropSelfInv (s : State) (core : Nat) (sc : Scope) : State :=
  let keep (m : NMap CacheSector) : NMap CacheSector := m.filter fun p => !isSelfInv p.2
  match sc with
  | .grp | .core => s
  | .clu => modCore s core fun c => { c with l1 := keep c.l1 }
  | _ =>
    let s := modCore s core fun c => { c with l1 := keep c.l1 }
    setCluster s (cluOf core) (keep (clusterAt s (cluOf core)))

/-! ## Tracked copies dropped (R277) -/

/-- L1 copies of a sector dropped in the cores that the cluster's vector names, but for one core (R277). -/
def dropVector (s : State) (cl sec : Nat) (cores : List Nat) (keep : Option Nat) : State :=
  cores.foldl (fun s c => if keep = some (8 * cl + c) then s else dropL1 s (8 * cl + c) sec) s

/-- A tracked copy of a sector dropped from a cluster with the L1 copies that its vector names (R277). -/
def dropTracked (s : State) (cl sec : Nat) (keep : Option Nat) : State :=
  match look (clusterAt s cl) sec with
  | some c => match c.kind with
    | .tracked cores => dropCluster (dropVector s cl sec cores keep) cl sec
    | _ => s
  | none => s

/-- Whether a cluster holds a tracked sector of a line. -/
def holdsLine (s : State) (cl line : Nat) : Bool := (clusterAt s cl).any fun (sec, c) => sec / 4 = line && isTracked c

/-- A cluster's notice to its die directory, once it holds no sector of the line any more (R277). -/
def noticeIfGone (s : State) (cl line : Nat) (had : Bool) : State :=
  if had && !holdsLine s cl line then sendMsg s (.notice (cl / 8) cl line) else s

/-- Copies of a sector of every mode dropped from a cluster cache and, for a tracked one, from the L1s that hold it. -/
def dropSector (s : State) (cl sec : Nat) : State := dropCluster (dropTracked s cl sec none) cl sec

/-! ## Replacement (R208, R214, R276; log 107) -/

/-- The eviction priority of a policy (R214). -/
def polPrio : CPol → Nat
  | .stream => 0
  | .keep => 2
  | _ => 1

/-- The lines of 128 bytes that a cache holds. -/
def cacheLines : NMap CacheSector → List Nat
  | [] => []
  | (sec, _) :: m => let r := cacheLines m; if r.contains (sec / 2) then r else (sec / 2) :: r

/-- The priority and the latest use of a line of a cache. -/
def lineRank (m : NMap CacheSector) (line : Nat) : Nat × Nat :=
  match m.find? fun p => p.1 / 2 = line with
  | some p => (p.2.prio, p.2.used)
  | none => (0, 0)

def rankLt (a b : Nat × Nat) : Bool := decide (a.1 < b.1) || (a.1 = b.1 && decide (a.2 < b.2))

/-- The line that a full set gives up: of the lowest priority, the least recently used (R276). -/
def victimOf (m : NMap CacheSector) : List Nat → Option Nat
  | [] => none
  | l :: ls => match victimOf m ls with
    | none => some l
    | some v => if rankLt (lineRank m v) (lineRank m l) then some v else some l

/-- A use of a line of a cache: its sectors take the access's priority and the time. -/
def markUse (m : NMap CacheSector) (line prio t : Nat) : NMap CacheSector :=
  m.map fun p => (p.1, if p.1 / 2 = line then { p.2 with prio := prio, used := t } else p.2)

def useL1 (s : State) (core sec : Nat) (pol : CPol) : State :=
  modCore { s with useCtr := s.useCtr + 1 } core fun c => { c with l1 := markUse c.l1 (sec / 2) (polPrio pol) s.useCtr }

def useCluster (s : State) (cl sec : Nat) (pol : CPol) : State :=
  setCluster { s with useCtr := s.useCtr + 1 } cl (markUse (clusterAt s cl) (sec / 2) (polPrio pol) s.useCtr)

/-- A sector that a cluster cache gives up: one that an error poisoned is written back with its poison (R276), and the other copies go with it. -/
def evictSector (s : State) (cl sec : Nat) : State :=
  match look (clusterAt s cl) sec with
  | none => s
  | some c =>
    let s := dropSector s cl sec
    if c.struck then
      let r := poisonSector s.mem s.poison sec (c.poison.getD .ecc)
      { s with mem := r.1, poison := r.2 }
    else s

/-- The eviction of a 128-byte line of a cluster cache (R276, R277). -/
def evictLine (s : State) (cl line : Nat) : State :=
  let had := holdsLine s cl (line / 2)
  noticeIfGone (evictSector (evictSector s cl (2 * line)) cl (2 * line + 1)) cl (line / 2) had

/-- The lines of a cache that fall into the set of a line. -/
def sameSet (m : NMap CacheSector) (set : Nat → Nat) (line : Nat) : List Nat := (cacheLines m).filter fun l => set l = set line

/-- Room in a cluster cache for a sector's line: 4,096 sets of 16 ways (R276). -/
def clusterRoom (s : State) (cl sec : Nat) : State :=
  let m := clusterAt s cl
  let ls := cacheLines m
  if ls.contains (sec / 2) || decide (ls.length < 16) then s
  else
    let set := sameSet m (fun l => Config.clusterSet l % 4096) (sec / 2)
    if set.length < 16 then s
    else match victimOf m set with
      | some v => evictLine s cl v
      | none => s

/-- An L1's copies of a 128-byte line given up; the cluster's vectors hear of it (R277). -/
def evictL1 (s : State) (core line : Nat) : State :=
  [2 * line, 2 * line + 1].foldl (fun s sec =>
    if (look (coreAt s core).l1 sec).isSome then setVector (dropL1 s core sec) core sec false else s) s

/-- A free choice among so many (log 10). -/
def drawNat (s : State) (n : Nat) : Nat × State := ((Config.freeWord s.freeCtr).toNat % n, { s with freeCtr := s.freeCtr + 1 })

/-- The ways and the sets of an L1: 2,048 lines in all (R208; log 107). -/
def l1Ways : Nat := 2 ^ (Config.l1WayBits % 12)

/-- Room in an L1 for a sector's line. The lowest priority goes first; which line of that priority is free (R208, R214; log 107). -/
def l1Room (s : State) (core sec : Nat) : State :=
  let m := (coreAt s core).l1
  let ls := cacheLines m
  if ls = [] || ls.contains (sec / 2) then s
  else
    let set := sameSet m (fun l => Config.l1Set l % (2048 / l1Ways)) (sec / 2)
    if set.length < l1Ways then s
    else
      let low := set.foldl (fun p l => min p (lineRank m l).1) 2
      let cand := set.filter fun l => (lineRank m l).1 = low
      let d := drawNat s cand.length
      match cand[d.1]? with
      | some v => evictL1 d.2 core v
      | none => d.2

/-- A store that updates the copies that its core and its cluster hold is a use of their lines (R208, R214, R276). -/
def useCopies (s : State) (core a n : Nat) (pol : CPol) : State :=
  (sectorsOf a n).foldl (fun s sec =>
    let s := if (look (coreAt s core).l1 sec).isSome then useL1 s core sec pol else s
    if (look (clusterAt s (cluOf core)) sec).isSome then useCluster s (cluOf core) sec pol else s) s

/-- Whether a cluster cache gives a line up: its set is full, and of its lines of the lowest priority it is the least recently used (R276). -/
def evictable (s : State) (cl line : Nat) : Bool :=
  let set := sameSet (clusterAt s cl) (fun l => Config.clusterSet l % 4096) line
  decide (16 ≤ set.length) && victimOf (clusterAt s cl) set = some line

/-- A sector put into an L1 or a cluster cache, with room made for its line. -/
def putL1 (s : State) (core sec : Nat) (pol : CPol) (c : CacheSector) : State :=
  let s := l1Room s core sec
  useL1 (modCore s core fun x => { x with l1 := put x.l1 sec c }) core sec pol

def putCluster (s : State) (cl sec : Nat) (pol : CPol) (c : CacheSector) : State :=
  let s := clusterRoom s cl sec
  useCluster (setCluster s cl (put (clusterAt s cl) sec c)) cl sec pol

/-- A copy of a kind, as a fill brings it. -/
def filled (k : CacheKind) (bs : List Byte) (p : Option Cause) : CacheSector :=
  { kind := k, bytes := bs, poison := p, struck := false, prio := 1, used := 0 }

/-! ## Self-invalidating copies (R208, R278, R289) -/

/-- The part of a write that lies in a sector, placed over the sector's bytes. -/
def overlay (old : List Byte) (base a : Nat) (bs : List Byte) : List Byte :=
  old.zipIdx.map fun (b, k) => if a ≤ base + k && base + k < a + bs.length then (bs[base + k - a]?).getD b else b

/-- A self-invalidating copy updated by an access performed with number p, given the poison of its sector at the home; a copy never goes back
to an older value (R278, R289). A poisoned copy of a sector that is clean again at its home is given up, and the next load fills it anew. -/
def forwardCopy (c : CacheSector) (sec a : Nat) (bs : List Byte) (p : Nat) (home : Option Cause) : Option CacheSector :=
  match c.kind with
  | .selfInv asOf =>
    let new (x : Option Cause) (k : Bool) : CacheSector :=
      { c with kind := .selfInv p, bytes := overlay c.bytes (64 * sec) a bs, poison := x, struck := k }
    if p ≤ asOf then some c
    else if a ≤ 64 * sec && 64 * sec + 64 ≤ a + bs.length then some (new home false)
    else if c.struck then some (new c.poison true)
    else match home, c.poison with
      | some h, _ => some (new (some h) false)
      | none, none => some (new none false)
      | none, some _ => none
  | _ => some c

/-- A table with a key's entry changed or removed. -/
def alterOpt {α : Type} (m : NMap α) (k : Nat) (f : α → Option α) : NMap α :=
  match look m k with
  | none => m
  | some x => match f x with
    | some y => put m k y
    | none => del m k

/-- The copies of the writer's core and cluster updated when its acknowledgement returns (R208, R278). -/
def forwardCopies (s : State) (core a : Nat) (bs : List Byte) (p : Nat) : State :=
  (sectorsOf a bs.length).foldl (fun s sec =>
    let f (c : CacheSector) : Option CacheSector := forwardCopy c sec a bs p (look s.poison sec)
    let s := if (look (coreAt s core).l1 sec).isSome then modCore s core fun x => { x with l1 := alterOpt x.l1 sec f } else s
    if (look (clusterAt s (cluOf core)) sec).isSome then setCluster s (cluOf core) (alterOpt (clusterAt s (cluOf core)) sec f) else s) s

/-- A sector's bytes and poison at its home. -/
def homeSector (s : State) (l : Loc) : List Byte × Option Cause × State :=
  match l with
  | .spad _ _ => ([], none, s)
  | .phys pa m key p =>
    let r := readLoc s (.phys (64 * (pa / 64)) m key p) 64
    (r.1, look s.poison (pa / 64), r.2)

/-- Whether a policy keeps data in the L1 and in the cluster cache (R214). -/
def polL1 : CPol → Bool
  | .skipl1 | .skipcc => false
  | _ => true

def polCluster : CPol → Bool
  | .skipcc => false
  | _ => true

/-- The self-invalidating copies of some bytes that a core and its cluster hold given up, as a load of its threads takes the home's value: none
of them reads an older one later, and no other core of the cluster reads the bytes of a store before its acknowledgement (R278, R289, R310;
log 106). -/
def forgetCopies (s : State) (core pa n : Nat) : State :=
  (sectorsOf pa n).foldl (fun s sec =>
    let s := if (look (coreAt s core).l1 sec).any isSelfInv then dropL1 s core sec else s
    if (look (clusterAt s (cluOf core)) sec).any isSelfInv then evictSector s (cluOf core) sec else s) s

/-- A self-invalidating fill put where the policy keeps it, of a sector of which neither cache holds a copy (R214, R289). -/
def fillSelfInv (s : State) (core sec : Nat) (pol : CPol) (c : CacheSector) : State :=
  let s := if polCluster pol then putCluster s (cluOf core) sec pol c else s
  if polL1 pol then putL1 s core sec pol c else s

/-- Whether a FROZEN entry covers an address, so that a load that misses receives a frozen grant (R300). -/
def isFrozenEntry (f : FreezeEntry) : Bool := f.state = .frozen

def frozenNow (s : State) (pa : Nat) : Bool := s.freezes.any fun p => isFrozenEntry p.2 && covers p.2 pa

/-- A die recorded in every FROZEN entry that covers an address (R300, R301). -/
def recordDie (s : State) (pa die : Nat) : State :=
  { s with freezes := s.freezes.map fun (k, f) =>
      (k, if isFrozenEntry f && covers f pa && !f.lvec.contains die then { f with lvec := f.lvec ++ [die] } else f) }

/-- Whether a grant leaves a held copy as it is: a tracked copy or a replica. A self-invalidating one is replaced by what the fill brings (R289). -/
def staysBeside (c : Option CacheSector) : Bool :=
  match c with
  | some c => !isSelfInv c
  | none => false

/-- A replica put along the path of a load that missed, where no tracked copy is held: that a load hits remains under its mode, and a
self-invalidating copy further on, which the load passed over, is replaced, so that no thread reads its older bytes after the replica (R289,
R300). -/
def installReplica (s : State) (core sec : Nat) (pol : CPol) : State :=
  let c := filled .replica [] none
  let cl := cluOf core
  let s := if polCluster pol && !staysBeside (look (clusterAt s cl) sec) then putCluster (evictSector s cl sec) cl sec pol c else s
  if polL1 pol && !staysBeside (look (coreAt s core).l1 sec) then putL1 s core sec pol c else s

/-- The copy of a sector in the L1 that a hit in the cluster cache brings there: a tracked one sets the core's bit of the vector, and the poison
goes with it (R276, R277). -/
def copyUp (s : State) (core sec : Nat) (pol : CPol) (c : CacheSector) : State :=
  let s := useCluster s (cluOf core) sec pol
  if polL1 pol && (look (coreAt s core).l1 sec).isNone then
    match c.kind with
    | .tracked _ => setVector (putL1 s core sec pol { c with kind := .tracked [], struck := false }) core sec true
    | _ => putL1 s core sec pol { c with struck := false }
  else s

/-- The first of two causes. -/
def orElsePoison : Option Cause → Option Cause → Option Cause
  | some c, _ => some c
  | none, d => d

/-- A held copy as a load through it reads it: a self-invalidating one its own bytes, another the home's value; and its poison (R276, R289). -/
def readCopy (s : State) (l : Loc) (c : CacheSector) : List Byte × Option Cause × State :=
  if isSelfInv c then (c.bytes, c.poison, s)
  else
    let h := homeSector s l
    (h.1, orElsePoison h.2.1 c.poison, h.2.2)

/-- The other sector of a sector's line of 128 bytes. -/
def otherSector (sec : Nat) : Nat := if sec % 2 = 0 then sec + 1 else sec - 1

/-- A self-invalidating load that misses in the cluster cache brings the other sector of the line there too, unless the cluster holds it (R420). -/
def fillBeside (s : State) (core : Nat) (l : Loc) (pol : CPol) : State :=
  match l with
  | .spad _ _ => s
  | .phys pa m key p =>
    let sec := otherSector (pa / 64)
    let held (x : Nat) : Bool := (look (clusterAt s (cluOf core)) x).isSome
    if !polCluster pol || held (pa / 64) || held sec then s
    else if frozenNow s (64 * sec) then installReplica (recordDie s (64 * sec) (dieOf core)) core sec .skipl1
    else
      let h := homeSector s (.phys (64 * sec) m key p)
      putCluster h.2.2 (cluOf core) sec pol (filled (.selfInv h.2.2.perfCtr) h.1 h.2.1)

/-- The sector at its home that a self-invalidating load reads when it finds no copy, with the copies that it leaves (R214, R289, R300, R420). -/
def fillFromHome (s : State) (core : Nat) (l : Loc) (pol : CPol) : List Byte × Option Cause × State :=
  let sec := locAddr l / 64
  let h := homeSector (fillBeside s core l pol) l
  let s := h.2.2
  (h.1, h.2.1,
    if frozenNow s (64 * sec) then installReplica (recordDie s (64 * sec) (dieOf core)) core sec pol
    else fillSelfInv s core sec pol (filled (.selfInv s.perfCtr) h.1 h.2.1))

/-- The sector as a load of policy .skipcc reads it, which the home serves (R214): the copies that the core and its cluster hold are given up. -/
def readPast (s : State) (core : Nat) (l : Loc) : List Byte × Option Cause × State :=
  let a := 64 * (locAddr l / 64)
  let h := homeSector s l
  (h.1, h.2.1, forgetCopies (if frozenNow h.2.2 a then recordDie h.2.2 a (dieOf core) else h.2.2) core a 64)

/-- The sector as a self-invalidating load reads it: through the core's copy, the cluster's, or at the home, from which .skipcc is served (R208,
R214, R289). -/
def readSelfInv (s : State) (core : Nat) (l : Loc) (pol : CPol) : List Byte × Option Cause × State :=
  let sec := locAddr l / 64
  if !polCluster pol then readPast s core l
  else match look (coreAt s core).l1 sec, look (clusterAt s (cluOf core)) sec with
    | some c, _ => readCopy (useL1 s core sec pol) l c
    | none, some c => readCopy (copyUp s core sec pol c) l c
    | none, none => fillFromHome s core l pol

/-! ## A write's invalidations in one step -/

/-- Tracked copies of a line removed from every cache, but for one cluster's, with the line's directory entries: the whole of a write's
invalidations in one step (R171, R294). An entry that waits for acknowledgements stays until they are in (R294 to R296). -/
def invalidateNow (s : State) (line : Nat) (keep : Option Nat) : State :=
  let gone (m : NMap CacheSector) : NMap CacheSector := m.filter fun p => !(p.1 / 4 = line && isTracked p.2)
  { s with
    cores := s.cores.map fun p => (p.1, if keep = some (cluOf p.1) then p.2 else { p.2 with l1 := gone p.2.l1 })
    clusters := s.clusters.map fun p => (p.1, if keep = some p.1 then p.2 else gone p.2)
    dirs := s.dirs.map fun p => (p.1, if entryBusy (look p.2 line) then p.2 else del p.2 line)
    pkgDir := if pkgBusy s line then s.pkgDir else del s.pkgDir line }

/-- The same for every line of n bytes that an agent other than a core has written. -/
def invalidateLines (s : State) (pa n : Nat) : State :=
  (List.range' (pa / 256) ((pa + n + 255) / 256 - pa / 256)).foldl (fun s line => invalidateNow s line none) s

/-- What a performed write leaves: the home die's entry of a line that a cluster of another die wrote is freed, and in the writer's own
cluster no other core's L1 keeps a copy of the sector (R208, R294). -/
def afterWrite (s : State) (pa core : Nat) : State :=
  let d := homeDie s pa
  let cl := cluOf core
  let s := if cl / 8 ≠ d && isPkgMem (homeOf s pa) then freeDir s d (pa / 256) else s
  match look (clusterAt s cl) (pa / 64) with
  | some c => match c.kind with
    | .tracked cores =>
      let s := dropVector s cl (pa / 64) cores (some core)
      setCluster s cl (put (clusterAt s cl) (pa / 64) { c with kind := .tracked (cores.filter fun j => 8 * cl + j = core) })
    | _ => s
  | none => s

/-- The owner of a line, if a sector of it is E or M (R291). -/
def DirEntry.owner (e : DirEntry) : Option Nat := if e.sstate.any (2 ≤ ·) && !e.coarse then e.ptrs.head? else none

/-- Whether a write of a sector by a cluster of the home die finds it E or M there, and so only makes it M (R294). -/
def ownsSector (e : DirEntry) (k sec : Nat) : Bool := e.owner = some k && decide (2 ≤ e.sstate.getD sec 0)

/-- The writer's cluster drops its copies of the other sectors of a line, which the entry that its write leaves does not hold (R420). -/
def dropOthers (s : State) (cl line sec : Nat) : State :=
  (List.range' (4 * line) 4).foldl (fun s x => if x = sec then s else dropTracked s cl x none) s

/-- The rows of R294 for a write by a core, taken in one step with their acknowledgements: the copies of every other cluster go, and the entry is left as
the row says. -/
def dirWriteNow (s : State) (pa core : Nat) : State :=
  let line := pa / 256
  let d := homeDie s pa
  let cl := cluOf core
  let home : Bool := cl / 8 = d
  let sec := pa / 64 % 4
  match dirAt s d line with
  | none => afterWrite (invalidateNow s line (if home then some cl else none)) pa core
  | some e =>
    if home && ownsSector e (cl % 8) sec then afterWrite (setDir s d line { e with sstate := e.sstate.set sec 3 }) pa core
    else
      let kept := (look (clusterAt s cl) (pa / 64)).any isTracked
      let s := invalidateNow s line (if home then some cl else none)
      let s := if home then dropOthers s cl line (pa / 64) else s
      afterWrite (if home && kept then setDir s d line (newEntry (cl % 8) sec 3) else s) pa core

/-- The self-invalidating copies of a written range in the writer's core and cluster filled anew from the home (R278, R289). -/
def refillCopies (s : State) (core : Nat) (l : Loc) (n : Nat) : State :=
  (sectorsOf (locAddr l) n).foldl (fun s sec =>
    let h := homeSector s (match l with
      | .phys _ m key p => .phys (64 * sec) m key p
      | l => l)
    let f (c : CacheSector) : CacheSector :=
      if !isSelfInv c then c
      else if c.struck then { c with kind := .selfInv h.2.2.perfCtr, bytes := h.1 }
      else { c with kind := .selfInv h.2.2.perfCtr, bytes := h.1, poison := h.2.1 }
    let s := h.2.2
    let s := if (look (coreAt s core).l1 sec).any isSelfInv then modCore s core fun x => { x with l1 := alter x.l1 sec f } else s
    if (look (clusterAt s (cluOf core)) sec).any isSelfInv then setCluster s (cluOf core) (alter (clusterAt s (cluOf core)) sec f) else s) s

end Sys2Proof.Machine
end

