-- ==== Sys2Proof/Machine/Operands.lean ====
section
/-! DEFINITION. Operands: registers and queue ports (R18 to R23, R94 to R97, R192 to R194), scratchpad, flat and buffer-record
addresses (R29 to R31, R205, R210 to R214). -/

namespace Sys2Proof.Machine

/-! ## Registers -/

def RegVal.clean (w : Word) : RegVal := ⟨w, false, false⟩
def RegVal.bad (tok : Word) : RegVal := ⟨tok, true, false⟩

/-- A register read: v0 is zero and clean (R18). -/
def readReg (th : Thread) (r : Nat) : RegVal := if r = 0 then .clean 0 else (th.regs[r]?).getD (.clean 0)

/-- A register written: a write to v0 is discarded (R18). -/
def setReg (th : Thread) (r : Nat) (v : RegVal) : Thread := if r = 0 then th else { th with regs := th.regs.set r v }

/-- The n registers from r on. -/
def readRegs (th : Thread) (r n : Nat) : List RegVal := (List.range' r n).map (readReg th)

/-- Registers from r on written. -/
def setRegs (th : Thread) (r : Nat) : List RegVal → Thread
  | [] => th
  | v :: vs => setRegs (setReg th r v) (r + 1) vs

/-- The token of the first poisoned value (R22, R31, R95). -/
def firstTok : List RegVal → Option Word
  | [] => none
  | v :: vs => if v.poison then some v.data else firstTok vs

/-- Data bits joined, the first register lowest (R22). -/
def joinRegs : List RegVal → Nat
  | [] => 0
  | v :: vs => v.data.toNat + 2 ^ 32 * joinRegs vs

/-- A value of n registers with its tag (R21, R22). -/
structure Val where
  data : DWord
  tok : Option Word
  deriving DecidableEq, Repr

def valOf (vs : List RegVal) : Val := ⟨BitVec.ofNat 64 (joinRegs vs), firstTok vs⟩

/-- The value of a register, of a pair. -/
def reg1 (th : Thread) (r : Reg) : Val := valOf (readRegs th r.toNat 1)
def reg2 (th : Thread) (r : Reg) : Val := valOf (readRegs th r.toNat 2)

/-- The n registers that hold a number clean, lowest first. -/
def splitRegs : Nat → Nat → List RegVal
  | 0, _ => []
  | n + 1, x => .clean (BitVec.ofNat 32 x) :: splitRegs n (x / 2 ^ 32)

/-- A result of n registers: clean data, or a token in every register (R21, R22). -/
def resultRegs (n : Nat) (v : Val) : List RegVal :=
  match v.tok with
  | some t => List.replicate n (.bad t)
  | none => splitRegs n v.data.toNat

/-- The first token among values (FirstPoison, R95). -/
def firstPoison (vs : List Val) : Option Word := vs.findSome? (·.tok)

/-- A destination of n registers written in a thread. -/
def writeN (s : State) (t r n : Nat) (v : Val) : State := modTh s t fun th => setRegs th r (resultRegs n v)

def cleanVal (d : DWord) : Val := ⟨d, none⟩
def badVal (tok : Word) : Val := ⟨0, some tok⟩
def cleanWord (w : Word) : Val := ⟨w.setWidth 64, none⟩

/-- A destination field written: a pair when n is 2. -/
def writeD (s : State) (t : Nat) (d : Reg) (n : Nat) (v : Val) : State := writeN s t d.toNat n v

/-! ## Queue ports (R192, R97) -/

/-- Whether a register number is a declared queue port (R17). -/
def isPort (w : Workgroup) (r : Nat) : Bool := decide (248 ≤ r) && decide (r < 248 + w.hdr.queues)

/-- The key of FIFO(L, k) for the port of register r. -/
def fifoKey (lane r : Nat) : Nat := 8 * lane + (r - 248)

def fifoAt (w : Workgroup) (lane r : Nat) : List RegVal := lookD w.fifos (fifoKey lane r) []

def setFifo (w : Workgroup) (lane r : Nat) (q : List RegVal) : Workgroup := { w with fifos := put w.fifos (fifoKey lane r) q }

/-- A source field read, which pops a port (R97). -/
def readSrc (s : State) (t : Nat) (u : RegUse) : Val × State :=
  match thOf s t, wgAt s (wgOf t) with
  | some th, some w =>
    if isPort w u.reg then
      match fifoAt w th.lane u.reg with
      | v :: q => (valOf [v], setWg s (wgOf t) (setFifo w th.lane u.reg q))
      | [] => (⟨0, none⟩, s)
    else (valOf (readRegs th u.reg u.n), s)
  | _, _ => (⟨0, none⟩, s)

/-- The source fields read in field order. -/
def readSrcs (s : State) (t : Nat) : List RegUse → List Val × State
  | [] => ([], s)
  | u :: us =>
    let a := readSrc s t u
    let r := readSrcs a.2 t us
    (a.1 :: r.1, r.2)

/-- A destination field written, which pushes a port (R97). -/
def writeDst (s : State) (t : Nat) (u : RegUse) (v : Val) : State :=
  match thOf s t, wgAt s (wgOf t) with
  | some th, some w =>
    if isPort w u.reg then
      setWg s (wgOf t) (setFifo w th.lane u.reg (fifoAt w th.lane u.reg ++ resultRegs 1 v))
    else setTh s t (setRegs th u.reg (resultRegs u.n v))
  | _, _ => s

def isSrc (u : RegUse) : Bool := u.role = .src
def isDst (u : RegUse) : Bool := u.role = .dst

/-- What a register or a FIFO word holds that an uncorrectable error has struck, until a word reads it: poison that has no token yet (R379). -/
def RegVal.hit : RegVal := ⟨0, true, true⟩

/-- A value as it reads: one that an error has struck with the token that its first read makes (R379). -/
def RegVal.told (tok : Word) (v : RegVal) : RegVal := if v.struck then .bad tok else v

/-- Words that a thread's word pops from the FIFO of a port. -/
def popsOf (us : List RegUse) (r : Nat) : Nat := (us.filter fun u => isSrc u && u.reg = r).length

/-- Whether a source field of a word meets an error that nothing has read yet. -/
def meetsError (th : Thread) (w : Workgroup) (us : List RegUse) (u : RegUse) : Bool :=
  if isPort w u.reg then ((fifoAt w th.lane u.reg).take (popsOf us u.reg)).any (·.struck)
  else (readRegs th u.reg u.n).any (·.struck)

/-- Whether every FIFO that a thread's word pops holds enough words and the FIFO that it pushes has room (R97, R194). -/
def fifosReady (th : Thread) (w : Workgroup) (us : List RegUse) : Bool :=
  (us.filter isSrc).all (fun u =>
      !isPort w u.reg || decide (((us.filter isSrc).filter fun x => x.reg = u.reg).length ≤ (fifoAt w th.lane u.reg).length))
    && (us.filter isDst).all fun u => !isPort w u.reg || decide ((fifoAt w th.lane u.reg).length < 16)

/-- Whether a thread holds the registers of a field: below N, or a queue port where the field may name one (R19, R97, R193). -/
def fieldHeld (w : Workgroup) (ports : Bool) (u : RegUse) : Bool :=
  decide (u.reg + u.n ≤ w.regsN) || (ports && decide (u.n = 1) && isPort w u.reg)

/-! ## Addresses -/

/-- A failed address check: a token of an operand, or a token that is to be made. -/
inductive AddrFault
  | tok (t : Word)
  | make (f : Why)
  deriving DecidableEq, Repr

/-- The scratchpad address of an operand and its checks (R205). -/
def spadForm (th : Thread) (w : Workgroup) (a : Nat) (off : BitVec 16) (n : Nat) : Except AddrFault Nat :=
  let v := readReg th a
  if v.poison then .error (.tok v.data)
  else
    let x : Int := v.data.toNat + off.toInt
    if x < 0 || x + n > 128 * w.hdr.scratch then .error (.make (why .spadBounds (BitVec.ofInt 64 x)))
    else if x % n ≠ 0 then .error (.make (why .invalid (BitVec.ofInt 64 x)))
    else .ok x.toNat

/-- Canonical form of an address (R210). -/
def canonical (va : DWord) : Bool := va.extractLsb' 56 8 = 0

/-- The virtual address of a flat operand (R210). -/
def flatVa (th : Thread) (a : Nat) (off : BitVec 16) : Val :=
  let v := valOf (readRegs th a 2)
  ⟨v.data + off.signExtend 64, v.tok⟩

/-- Checks 2 to 4 of a flat address (R210): canonical form, alignment to n bytes, translation. -/
def flatChecks (s : State) (core part : Nat) (va : DWord) (n : Nat) (acc : AccKind) (coh : Nat) : Except Why Loc × State :=
  if !canonical va then (.error (why .noncanon va), s)
  else if va.toNat % n ≠ 0 then (.error (why .invalid va), s)
  else
    let r := translate s core part va.toNat acc coh
    match r.1 with
    | .error f => (.error ⟨f.cause, some va, f.window, acc = .write || acc = .atomic⟩, r.2)
    | .ok l => (.ok l, r.2)

/-- The fields of a buffer record (R29). -/
structure BufRec where
  base : DWord
  extent : Nat
  fmt : Option Fmt
  bmode : Nat
  pol : Option CPol
  coh : Nat
  stride0 : Nat
  stride1 : Nat
  reserved : Bool
  deriving DecidableEq, Repr

def polOfCode : Nat → Option CPol
  | 0 => some .norm
  | 1 => some .stream
  | 2 => some .skipl1
  | 3 => some .skipcc
  | 4 => some .keep
  | _ => none

def bufRec (x : BitVec 256) : BufRec :=
  { base := x.setWidth 64, extent := (x.extractLsb' 64 40).toNat, fmt := fmtOfCode (x.extractLsb' 104 8),
    bmode := (x.extractLsb' 112 4).toNat, pol := polOfCode (x.extractLsb' 116 4).toNat, coh := (x.extractLsb' 120 4).toNat,
    stride0 := (x.extractLsb' 128 32).toNat, stride1 := (x.extractLsb' 160 32).toNat,
    reserved := x.extractLsb' 124 4 ≠ 0 || x.extractLsb' 192 64 ≠ 0 }

/-- Whether every code of a record is one that R29 and R30 list. -/
def BufRec.ok (r : BufRec) : Bool := !r.reserved && r.fmt.isSome && decide (r.bmode ≤ 2) && r.pol.isSome && decide (r.coh ≤ 2)

/-- The record that an octet holds. -/
def octetRec (th : Thread) (a : Nat) : BitVec 256 := BitVec.ofNat 256 (joinRegs (readRegs th a 8))

/-- Whether a load or store of a SIZE matches a FMT (R213). -/
def sizeOk (f : Fmt) (sz : Size) : Bool :=
  match f, sz with
  | .fp32, .x32 | .bf16, .x32 | .e4m3, .x32 | .e5m2, .x32 => true
  | .i8, .x32 | .i16, .x32 | .i32, .x32 | .n8, .x32 | .n16, .x32 | .n32, .x32 => true
  | .i8, .x64 | .i16, .x64 | .i32, .x64 | .n8, .x64 | .n16, .x64 | .n32, .x64 => true
  | .i64, .x64 | .n64, .x64 | .x64, .x64 => true
  | .x8, .x8 | .x16, .x16 | .x32, .x32 | .x128, .x128 => true
  | _, _ => false

/-- Whether an atomic of an operation and SIZE matches a FMT (R220). -/
def atomFmtOk (f : Fmt) (sz : Size) (op : AtomOp) : Bool :=
  match op with
  | .fadd | .fmin | .fmax => f = .fp32 && sz = .x32
  | _ =>
    match f, sz with
    | .x32, .x32 | .i32, .x32 | .n32, .x32 | .x64, .x64 | .i64, .x64 | .n64, .x64 => true
    | _, _ => false

/-- What an access through a record is, for the bounds modes of R212. -/
inductive RecAcc | load | store | atomic | pref
  deriving DecidableEq, Repr

/-- A record address that its own checks let pass, or that a bounds mode drops or fills with zero (R212). -/
inductive RecAddr
  | at (va : DWord) (r : BufRec) (f : Fmt)
  | dropped
  deriving DecidableEq, Repr

/-- The address of a record operand and the checks of R212 before the flat checks. The index registers are b, and b + 1 where there
are two. -/
def recForm (th : Thread) (a b : Nat) (two : Bool) (off : BitVec 16) (acc : RecAcc) (fits : Fmt → Bool) : Except AddrFault RecAddr :=
  match firstTok (readRegs th a 8 ++ readRegs th b (if two then 2 else 1)) with
  | some t => .error (.tok t)
  | none =>
    let r := bufRec (octetRec th a)
    if !r.ok then .error (.make (why .format r.base))
    else
      match r.fmt with
      | none => .error (.make (why .format r.base))
      | some f =>
        let i0 : Int := (readReg th b).data.toNat
        let i1 : Int := if two then (readReg th (b + 1)).data.toNat else 0
        let o : Int := i0 * r.stride0 + i1 * r.stride1 + off.toInt
        let eb := f.bytes
        let va (o : Int) : DWord := r.base + BitVec.ofInt 64 o
        if !fits f then .error (.make (why .format (va o)))
        else if 0 ≤ o && o + eb ≤ r.extent * eb then .ok (.at (va o) r f)
        else if r.bmode = 0 then .error (.make (why .bounds (va o)))
        else if r.bmode = 1 && acc = .load && r.extent ≠ 0 then
          .ok (.at (va (min (max o 0) ((r.extent - 1 : Int) * eb))) r f)
        else .ok .dropped

/-- The policy of an access (R214). -/
def policyOf (word : CPol) (r : Option BufRec) : CPol :=
  if word ≠ .norm then word
  else match r with
    | some r => r.pol.getD .norm
    | none => .norm

/-! ## Store data and load results (R213, R217, R218) -/

/-- The bytes of n data registers that a flat or scratchpad store writes. -/
def storeBytes (vs : List RegVal) (n : Nat) : List Byte := leBytes n (joinRegs vs)

/-- Whether a record store of a format converts its data (R213). -/
def elementStore (f : Fmt) (sz : Size) (vs : List RegVal) : List Byte :=
  let x := joinRegs vs
  let src : Fmt := match sz with
    | .x64 => if f.isRaw then .x64 else if fmtNat f then .n64 else .i64
    | _ => if f.isFloat then .fp32 else if f.isRaw then f else if fmtNat f then .n32 else .i32
  leBytes f.bytes (if f.isRaw then x else convert f src .rne x)

/-- The registers that a load writes, from its bytes (R213, R217, R219). -/
def loadRegs (form : LoadForm) (bs : List Byte) : List RegVal :=
  let x := leNat bs
  match form with
  | .flat signed =>
    if signed then [.clean ((BitVec.ofNat (8 * bs.length) x).signExtend 32)]
    else splitRegs (max 1 (bs.length / 4)) x
  | .element f w =>
    if f = .x128 then splitRegs 4 x
    else if f.isFloat then splitRegs 1 (convert .fp32 f .rne x)
    else if f.isRaw then splitRegs w x
    else splitRegs w (convert (if w = 2 then (if fmtNat f then .n64 else .i64) else if fmtNat f then .n32 else .i32) f .rne x)
  | .octet => splitRegs 8 x

/-! ## Formed addresses (R205, R210 to R212, R217, R218) -/

/-- An address that its checks let pass: where it lies, the virtual address, its width in bytes, its policy, and the element format of a
record form. -/
structure Place where
  loc : Loc
  va : DWord
  n : Nat
  pol : CPol
  fmt : Option Fmt
  deriving DecidableEq, Repr

/-- The outcome of FormAddress (R217, R218). -/
inductive Formed
  | fault (f : AddrFault)
  | dropped
  | at (p : Place)
  deriving DecidableEq, Repr

/-- A scratchpad address (R205). -/
def formSpad (th : Thread) (w : Workgroup) (wg a : Nat) (off : BitVec 16) (n : Nat) : Formed :=
  match spadForm th w a off n with
  | .error f => .fault f
  | .ok x => .at ⟨.spad wg x, BitVec.ofNat 64 x, n, .norm, none⟩

/-- A flat address (R210). -/
def formFlat (s : State) (th : Thread) (w : Workgroup) (a : Nat) (off : BitVec 16) (n : Nat) (acc : AccKind) (cp : CPol) : Formed × State :=
  let v := flatVa th a off
  match v.tok with
  | some k => (.fault (.tok k), s)
  | none =>
    let r := flatChecks s w.core w.part v.data n acc 0
    match r.1 with
    | .error f => (.fault (.make f), r.2)
    | .ok l => (.at ⟨l, v.data, n, cp, none⟩, r.2)

/-- A record address (R211, R212). -/
def formRec (s : State) (th : Thread) (w : Workgroup) (a b : Nat) (two : Bool) (off : BitVec 16) (kind : RecAcc) (fits : Fmt → Bool)
    (acc : AccKind) (cp : CPol) : Formed × State :=
  match recForm th a b two off kind fits with
  | .error f => (.fault f, s)
  | .ok .dropped => (.dropped, s)
  | .ok (.at va r f) =>
    let x := flatChecks s w.core w.part va f.bytes acc r.coh
    match x.1 with
    | .error e => (.fault (.make e), x.2)
    | .ok l => (.at ⟨l, va, f.bytes, policyOf cp (some r), some f⟩, x.2)

/-- The data operands of an atomic: d, and for .cas the new value, with the registers that hold them (R221). -/
def atomData (th : Thread) (b : Nat) (sz : Size) (op : AtomOp) (record : Bool) : DWord × DWord × List RegVal :=
  let first := if record then (if sz = .x64 then b + 2 else b + 1) else b
  let n := sz.regs
  let x := readRegs th first n
  let y := if op = .cas then readRegs th (first + n) n else []
  (BitVec.ofNat 64 (joinRegs x), BitVec.ofNat 64 (joinRegs y), x ++ y)

end Sys2Proof.Machine
end

