-- ==== Sys2Proof/Machine/Loads.lean ====
section
/-! DEFINITION. How an outstanding load is performed and its result written (R28, R152, R167, R217, R311, R313, R316), and what has to
be performed before an access (R310, R313, R315). -/

namespace Sys2Proof.Machine

def ownedBy (o : Op) (t serial : Nat) : Bool := o.parts.any fun m => m.th = t && m.serial = serial

/-- Whether two accesses share a thread. -/
def sameThread (x y : Op) : Bool := x.parts.any fun m => ownedBy y m.th m.serial

def isLoad (o : Op) : Bool :=
  match o.kind with
  | .load _ => true
  | _ => false

/-- Whether an access only reads. -/
def isReadOp (o : Op) : Bool :=
  match o.kind with
  | .load _ | .joinRead | .engineRead _ => true
  | _ => false

def opsMeet (x y : Op) : Bool := locsMeet x.loc x.n y.loc y.n

/-- Whether a load's bytes all come from held stores (R152). -/
def allHeld (o : Op) : Bool := o.parts.all fun m => decide (m.held.length = o.n) && m.held.all (·.isSome)

/-- Whether the core that homes a location is the access's own (R313). -/
def ownHomed (s : State) (o : Op) : Bool := coreHome s o.loc = some o.core

def isSelfInvLoc : Loc → Bool
  | .phys _ .selfInv _ _ => true
  | _ => false

/-- Whether an earlier access of the same thread has to be performed before access k: one to common bytes (R310), for core-homed memory
one that R313 orders, where JOIN's read is a load too, and for a store or an atomic an earlier release (R315). A load through a self-invalidating copy also waits for the
acknowledgements of the thread's stores to its bytes, with which the copy is updated (R278, R310). -/
def mustWait (s : State) (k : Nat) (o : Op) : Bool :=
  if isLoad o && allHeld o then false
  else
    s.ops.any (fun (j, p) =>
      decide (j < k) && sameThread o p
        && (opsMeet o p
          || (ownHomed s o && ownHomed s p && (!isReadOp p || isReadOp o))
          || (p.rel && !isReadOp o)))
      || (isLoad o && isSelfInvLoc o.loc && s.acks.any fun (_, p) => sameThread o p && opsMeet o p)

/-- The cause of an error in the copy through which a tracked load reads: its core's, or its cluster's (R379). The home serves .skipcc (R214), and a
self-invalidating copy serves no tracked load. -/
def cachePoison (s : State) (core : Nat) (l : Loc) (n : Nat) (pol : CPol) : Option Cause :=
  match l with
  | .phys pa .tracked _ _ =>
    if !polCluster pol then none
    else (sectorsOf pa n).findSome? fun sec =>
      match (look (coreAt s core).l1 sec).filter (!isSelfInv ·) with
      | some c => c.poison
      | none => ((look (clusterAt s (cluOf core)) sec).filter (!isSelfInv ·)).bind (·.poison)
  | _ => none

/-- Whether a load reads its bytes at their home: it finds no copy, or its policy or mode takes none (R208, R214, R289). -/
def readsHome (s : State) (core : Nat) (l : Loc) (pol : CPol) : Bool :=
  match l with
  | .spad _ _ => true
  | .phys _ .uncached _ _ => true
  | .phys pa _ _ _ => !polCluster pol || ((look (coreAt s core).l1 (pa / 64)).isNone && (look (clusterAt s (cluOf core)) (pa / 64)).isNone)

/-- Whether a load waits at its home for a write to its sector that still counts acknowledgements (R296). -/
def readWaits (s : State) (o : Op) : Bool :=
  match o.loc with
  | .spad _ _ => false
  | .phys pa _ _ _ => readsHome s o.core o.loc o.pol && sectorsCounting s pa o.n

/-- The bytes that an access reads at its home or through a copy, and the cause of the poisoned sector that it touches (R150, R311). -/
def readBytes (s : State) (core : Nat) (l : Loc) (n : Nat) (pol : CPol) : List Byte × Option Cause × State :=
  match l with
  | .phys pa .selfInv _ _ =>
    let c := readSelfInv s core l pol
    ((c.1.drop (pa % 64)).take n, c.2.1, c.2.2)
  | .phys pa _ _ _ =>
    let r := readLoc s l n
    (r.1, orElsePoison (poisonAt s l n) (cachePoison s core l n pol), forgetCopies r.2 core pa n)
  | .spad _ _ =>
    let r := readLoc s l n
    (r.1, poisonAt s l n, r.2)

/-- Bytes with those of held stores in place (R152). -/
def withHeld (held : List (Option Byte)) (bs : List Byte) : List Byte := (bs.zipIdx).map fun (b, k) => ((held[k]?).getD none).getD b

/-- Read-set entries with the bytes that a load read from memory, where they have none yet (R167). -/
def fillReads (rs : List ReadEntry) (l : Loc) (n : Nat) (held : List (Option Byte)) (bs : List Byte) : List ReadEntry :=
  rs.map fun e =>
    if e.loc = l && e.vals.length = n then
      { e with vals := (e.vals.zip (bs.zipIdx)).map fun (v, b, k) =>
          match v with
          | some x => some x
          | none => if ((held[k]?).getD none).isSome then none else some b }
    else e

/-- Registers written with the values of a list, in order. -/
def setEach (th : Thread) : List Nat → List RegVal → Thread
  | r :: rs, v :: vs => setEach (setReg th r v) rs vs
  | _, _ => th

/-- A result written to its destination registers, which no longer await it (R96), with LDC lowered (R28). -/
def landLoad (th : Thread) (dst : List Nat) (vs : List RegVal) : Thread :=
  let th := setEach th dst vs
  { th with pending := th.pending.filter fun r => !dst.contains r, ldc := th.ldc - 1 }

def orgOf (s : State) (issue t : Nat) (th : Thread) : Org :=
  { issue := issue, core := match wgAt s (wgOf t) with
      | some w => w.core
      | none => 0,
    wg := wgOf t, span := th.span, off := th.off, lane := th.lane, idx := idxOf t }

/-- The origin of a record that an outstanding access makes (R145, R146). -/
def orgOp (o : Op) (t : Nat) (th : Thread) : Org :=
  { issue := o.issue, core := o.core, wg := o.wg, span := o.span, off := o.off, lane := th.lane, idx := idxOf t }

def liveTh (s : State) (t serial : Nat) : Option Thread :=
  match thOf s t with
  | some th => if th.serial = serial then some th else none
  | none => none

/-- The result of a load for its thread: the registers, and the read-set entry (R167, R217). A thread that has ended receives nothing
(R131). -/
def deliverLoad (s : State) (o : Op) (form : LoadForm) (m : Member) (bs : List Byte) (cause : Option Cause) : State :=
  match liveTh s m.th m.serial with
  | none => s
  | some th =>
    let allIn : Bool := decide (m.held.length = o.n) && m.held.all (·.isSome)
    let r : State × Option Word :=
      match cause with
      | some c =>
        if allIn then (s, none)
        else
          let k := makeToken s (orgOp o m.th th) (why c m.va)
          (k.1, some k.2)
      | none => (s, none)
    let vs : List RegVal :=
      match r.2 with
      | some tok => List.replicate m.dst.length (.bad tok)
      | none => loadRegs form (withHeld m.held bs)
    modTh r.1 m.th fun th =>
      let th := landLoad th m.dst vs
      if m.tx then { th with region := { th.region with reads := fillReads th.region.reads o.loc o.n m.held bs } } else th

/-- Whether a load's own fill is still on its way: the load reads when the fill is there (R208, R277, R422). -/
def fillPending (s : State) (o : Op) : Bool :=
  match o.kind, o.loc with
  | .load _, .phys pa .tracked _ _ => !allHeld o && polCluster o.pol && s.fills.any fun f => f.core = o.core && f.sector = pa / 64
  | _, _ => false

/-- Load k performed now and its result written (R217, R311). -/
def performLoad (s : State) (k : Nat) (o : Op) (form : LoadForm) : State :=
  let r := if allHeld o then (List.replicate o.n 0#8, none, s) else readBytes s o.core o.loc o.n o.pol
  let s := o.parts.foldl (fun s m => deliverLoad s o form m r.1 r.2.1) r.2.2
  let s := match o.acq with
    | some sc => dropSelfInv s o.core sc
    | none => s
  endIssue { s with ops := del s.ops k } o.issue

/-- The tracked copy that a load or a prefetch uses: the core's, the cluster's, which the L1 takes over, or a fill that it asks for (R208, R214,
R225, R277). -/
def wantFill (s : State) (core : Nat) (l : Loc) (pol : CPol) : State :=
  match l with
  | .phys pa .tracked key part =>
    let sec := pa / 64
    if !isPkgMem (homeOf s pa) || !polCluster pol then s
    else match (look (coreAt s core).l1 sec).filter (!isSelfInv ·), (look (clusterAt s (cluOf core)) sec).filter (!isSelfInv ·) with
      | some _, _ => useL1 s core sec pol
      | none, some c => copyUp s core sec pol c
      | none, none =>
        if s.fills.any fun f => f.core = core && f.sector = sec then s
        else { s with fills := s.fills ++ [⟨core, sec, pol, .tracked, key, part⟩] }
  | _ => s

end Sys2Proof.Machine
end

