-- ==== Sys2Proof/WellFormed.lean ====
section
/-! DEFINITION. Which instructions are well-formed: the rules of their entries that the word alone decides. The rules that depend on
the thread (registers held, queue ports, timeline bindings, R19, R70, R97) are checked when the word issues. -/

namespace Sys2Proof

/-- A well-formed instruction (R22, R70, R72, R79, R98). -/
def Instr.wf (i : Instr) : Bool :=
  Machine.alignedUses (Machine.usesOf i) && Machine.entryRules i && Machine.pairRules i

end Sys2Proof
end

