-- ==== Sys2Proof/Machine/Gates.lean ====
section
/-! DEFINITION. What decides whether a word issues for a thread: its legality (R19, R25, R70, R79, R97, R168, R193, R253), the registers,
counters, queues and lines that it waits for (R28, R96, R185, R186, R194, R206), and the commit that goes before it (R158, R315). -/

namespace Sys2Proof.Machine

/-- Instructions of "Thread instructions: integer, floating point, conversion and moves", whose single register fields may name queue
ports (R97, R193). -/
def isArith : Instr → Bool
  | .iadd .. | .iaddImm .. | .iaddW .. | .iaddWImm .. | .isub .. | .isubW .. | .imul .. | .imulImm .. | .imulW .. | .imulWImm ..
  | .imulhi .. | .imulhiW .. | .imad .. | .imadW .. | .imin .. | .iminImm .. | .iminW .. | .iminWImm .. | .imax .. | .imaxImm ..
  | .imaxW .. | .imaxWImm .. | .iabs .. | .iabsW .. | .and .. | .andImm .. | .andW .. | .andWImm .. | .or .. | .orImm .. | .orW ..
  | .orWImm .. | .xor .. | .xorImm .. | .xorW .. | .xorWImm .. | .andn .. | .andnW .. | .shl .. | .shlImm .. | .shlW .. | .shlWImm ..
  | .shr .. | .shrImm .. | .shrW .. | .shrWImm .. | .shra .. | .shraImm .. | .shraW .. | .shraWImm .. | .rotl .. | .rotlImm ..
  | .rotlW .. | .rotlWImm .. | .shf .. | .shfW .. | .bfx .. | .bfxW .. | .bfi .. | .bfiW .. | .clz .. | .clzW .. | .popc ..
  | .popcW .. | .brev .. | .brevW .. | .prmt .. | .prmtW .. | .icmp .. | .icmpImm .. | .icmpW .. | .icmpWImm .. | .sel .. | .selW ..
  | .lea .. | .leaW .. | .movi .. | .moviW .. | .fadd .. | .faddImm .. | .fsub .. | .fmul .. | .fmulImm .. | .ffma .. | .fmin ..
  | .fminImm .. | .fmax .. | .fmaxImm .. | .fcmp .. | .fcmpImm .. | .fclass .. | .frnd .. | .frcp .. | .frsq .. | .fsqrt ..
  | .fexp2 .. | .flog2 .. | .fsin .. | .fcos .. | .ftanh .. | .hadd2 .. | .hadd2Imm .. | .hmul2 .. | .hmul2Imm .. | .hfma2 ..
  | .qdot4 .. | .idot4 .. | .cvt .. | .cvtPk .. | .pack2 .. | .unpk2 .. | .mov .. | .sysr .. | .nop => true
  | _ => false

/-- The span-end instructions (R122). -/
def isSpanEnd : Instr → Bool
  | .next .. | .br .. | .brx .. | .call .. | .callx .. | .ret .. | .exit | .refill .. | .yield .. | .syscall .. | .bkpt .. => true
  | _ => false

/-- Words that make no access of R309: a thread may issue them while an acquire of its own is outstanding. PREF, which never parks, is one of them
(R225). -/
def isQuiet : Instr → Bool
  | .next .. | .br .. | .brx .. | .call .. | .callx .. | .ret .. | .yield .. | .bkpt .. | .ptest .. | .ptok .. | .pread ..
  | .pmake .. | .chkerr .. | .gred .. | .gscan .. | .gshf .. | .gbcast .. | .gredW .. | .gscanW .. | .gshfW .. | .gbcastW ..
  | .gvote .. | .regsize .. | .waitcnt .. | .tlread .. | .pref .. | .prefRec .. => true
  | .ld .. | .ldRec .. | .st .. | .stRec .. | .lds .. | .sts .. | .ldrec .. | .atom .. | .atomRec .. | .atoms .. | .barinit .. | .arrive .. | .waitph .. | .testph .. | .mxgo .. | .mxrd .. | .mxwr .. | .cpgo .. | .arrivex ..
  | .tlwait .. | .cinv .. | .icinv .. | .freeze .. | .thaw .. | .fence .. | .fork .. | .join .. | .launch .. | .xfer .. | .swalloc ..
  | .swfree .. | .exit | .refill .. | .syscall .. | .rbegin .. | .commit .. | .abort .. => false
  | _ => true

def isRel : MemOrder → Bool
  | .rel _ | .acqrel _ => true
  | _ => false

def isAcq : MemOrder → Bool
  | .acq _ | .acqrel _ => true
  | _ => false

/-- The scope of an acquire. -/
def acqScope (mo : MemOrder) : Option Scope := if isAcq mo then scopeOf mo else none

/-- Instructions with release semantics (R159). -/
def isRelease : Instr → Bool
  | .arrive _ _ _ mo | .st _ _ _ _ _ mo | .stRec _ _ _ _ _ _ _ mo | .sts _ _ _ _ mo | .atom _ _ _ _ _ _ _ mo
  | .atomRec _ _ _ _ _ _ _ mo | .atoms _ _ _ _ _ _ mo | .fence _ mo => isRel mo
  | .freeze .. | .syscall .. | .fork .. | .launch .. => true
  | _ => false

/-- Instructions forbidden in a transaction, but for queue pushes and accesses outside the package (R168, R271). -/
def txForbids (i : Instr) : Bool :=
  isRelease i ||
    match i with
    | .atom .. | .atomRec .. | .atoms .. | .fence .. | .mxgo .. | .mxrd .. | .mxwr .. | .cpgo .. | .arrivex .. | .xfer ..
    | .freeze .. | .thaw .. | .launch .. | .fork .. | .join .. | .swalloc .. | .swfree .. | .cinv .. | .icinv .. => true
    | _ => false

/-- The timeline context that a word names, and the engine that it has to be bound to (R70, R271). -/
def timelineUse : Instr → Option (Nat × Option Engine)
  | .mxgo _ _ tl => some (tl.toNat, some .matrix)
  | .cpgo _ _ tl => some (tl.toNat, some .copy)
  | .xfer _ _ tl => some (tl.toNat, some .xfer)
  | .freeze _ _ _ _ tl _ => some (tl.toNat, some .freeze)
  | .thaw _ _ tl => some (tl.toNat, some .freeze)
  | .launch _ _ _ tl => some (tl.toNat, some .launch)
  | .arrivex _ _ _ tl => some (tl.toNat, none)
  | .tlread _ tl _ => some (tl.toNat, none)
  | .tlwait _ tl => some (tl.toNat, none)
  | _ => none

def tileUse : Instr → Option Nat
  | .mxrd _ _ _ tile | .mxwr _ _ _ tile => some tile.toNat
  | _ => none

def timelineAt (w : Workgroup) (k : Nat) : Timeline := (w.tls[k]?).getD ⟨none, 0, 0, []⟩

def timelineOk (w : Workgroup) (i : Instr) : Bool :=
  match timelineUse i with
  | none => true
  | some (k, e) =>
    match (timelineAt w k).bind with
    | none => false
    | some b => match e with
      | none => true
      | some e => b.1 = e

def tileOk (w : Workgroup) (i : Instr) : Bool :=
  match tileUse i with
  | none => true
  | some k => decide (k < w.tiles.length)

/-- The failed fetch of a word, which aborts with its own cause at any offset (R80). -/
def isFetchFault : Instr → Bool
  | .fetchFault .. => true
  | _ => false

/-- Whether a word is an instruction for a thread (R79). -/
def legalFor (i : Instr) (th : Thread) (w : Workgroup) : Bool :=
  i.wf && (usesOf i).all (fieldHeld w (isArith i)) && timelineOk w i && tileOk w i && (decide (th.off < 255) || isSpanEnd i || isFetchFault i)

def legalHere (i : Instr) (s : State) (t : Nat) : Bool :=
  match thOf s t, wgAt s (wgOf t) with
  | some th, some w => legalFor i th w
  | _, _ => false

/-- Whether a thread's word is one that a transaction forbids (R168). -/
def txStops (i : Instr) (s : State) (t : Nat) : Bool :=
  match thOf s t, wgAt s (wgOf t) with
  | some th, some w =>
    th.region.mode = .tx && (txForbids i || (isArith i && (usesOf i).any fun u => isDst u && isPort w u.reg))
  | _, _ => false

/-! ## Waiting and parking (R185, R186) -/

inductive Stall
  | wait
  | park (p : Park)
  deriving DecidableEq, Repr

def stallIf (b : Bool) (x : Stall) : Option Stall := if b then some x else none

/-- Whether a register that the word reads or writes still awaits a result (R96). -/
def awaits (i : Instr) (th : Thread) : Bool :=
  (usesOf i).any fun u => u.role ≠ .named && (List.range' u.reg u.n).any fun r => th.pending.contains r

/-- Whether an acquire, or another access that later ones may not pass, is outstanding (R316, R346). -/
def blocked (s : State) (t : Nat) (th : Thread) : Bool := s.ops.any fun (_, o) => o.blocking && ownedBy o t th.serial

/-- Whether a FORK of the thread still waits in flight for its status (R346). -/
def forking (s : State) (t : Nat) (th : Thread) : Bool :=
  let f (o : Op) : Bool := ownedBy o t th.serial && match o.kind with
    | .fork _ | .forked .. => true
    | _ => false
  s.ops.any (fun p => f p.2) || s.acks.any fun p => f p.2

/-- Whether a scratchpad access of the thread is still outstanding; an engine's snapshot follows the stores released before it (R264,
R265). -/
def ownSpad (s : State) (t : Nat) (th : Thread) : Bool :=
  s.ops.any fun (_, o) => ownedBy o t th.serial && !isLoad o && match o.loc with
    | .spad _ _ => true
    | _ => false

/-- Whether some outstanding access of the thread meets n bytes at a location. -/
def ownMeets (s : State) (t : Nat) (th : Thread) (l : Loc) (n : Nat) : Bool :=
  s.ops.any fun (_, o) => ownedBy o t th.serial && locsMeet o.loc o.n l n

/-- Whether a held store overlaps n bytes (R152). -/
def heldMeets (th : Thread) (l : Loc) (n : Nat) : Bool := th.region.stores.any fun h => locsMeet h.loc h.bytes.length l n

/-- Whether a commit may release the held stores, and the word then raise STC by so many, without passing the counter's limit (R28). A
tainted commit releases none, and a transaction's stores are performed within its step. -/
def commitRoom (th : Thread) (more : Nat) : Bool :=
  decide (th.stc + (if th.region.taint || th.region.mode = .tx then 0 else th.region.stores.length) + more ≤ 63)

/-- Whether a transaction's step cannot yet hold the sectors of a location: its line is in the middle of a write or of a recall (R171, R296). -/
def lineHeld (s : State) (l : Loc) (n : Nat) : Bool :=
  match l with
  | .phys pa _ _ _ => isPkgMem (homeOf s pa) && (sectorsOf pa n).any fun sec => !lineQuiet s (sec / 4)
  | .spad _ _ => false

/-- Whether an acknowledgement of a write to a sector of a location is on its way to a cluster, whose self-invalidating copies show the write only
when it passes (R278). -/
def ackOnWay (s : State) (cl : Nat) (l : Loc) (n : Nat) : Bool :=
  s.acks.any fun (_, o) => cluOf o.core = cl && match l, o.loc with
    | .phys pa _ _ _, .phys b _ _ _ => (sectorsOf pa n).any fun x => (sectorsOf b o.n).contains x
    | _, _ => false

/-- Whether a commit of a transaction has to wait: for a line of its sets (R171); for an acknowledgement on its way to its cluster for a sector that
it writes (R278); for a fill of its own loads (R422); for an acknowledgement of the thread's own write to bytes of its sets (R310); or for an
outstanding access of the thread that is none of its own loads: one to bytes of its sets (R310), one to core-homed memory where a set names
such memory (R313), and where it writes, an earlier release (R315). -/
def txWaits (s : State) (t : Nat) (th : Thread) : Bool :=
  let writes := th.region.stores.map (fun h => (h.loc, h.bytes.length))
  let sets := writes ++ th.region.reads.map fun r => (r.loc, r.vals.length)
  let core := match wgAt s (wgOf t) with
    | some w => w.core
    | none => 0
  th.region.mode = .tx && !th.region.taint
    && (sets.any (fun x => lineHeld s x.1 x.2)
      || writes.any (fun x => ackOnWay s (cluOf core) x.1 x.2)
      || s.acks.any (fun (_, o) => ownedBy o t th.serial && sets.any fun x => locsMeet o.loc o.n x.1 x.2)
      || s.ops.any fun (_, o) => ownedBy o t th.serial
        && (if isLoad o && o.parts.any (·.tx) then fillPending s o
          else sets.any (fun x => locsMeet o.loc o.n x.1 x.2)
            || (ownHomed s o && sets.any fun x => coreHome s x.1 = some o.core)
            || (o.rel && !th.region.stores.isEmpty)))

/-- The bytes of a thread's held stores over n bytes at a location, the youngest first to count (R152). -/
def heldBytes (th : Thread) (l : Loc) (n : Nat) : List (Option Byte) :=
  (List.range n).map fun k =>
    th.region.stores.foldl (fun acc h =>
      if locsMeet h.loc h.bytes.length (locAdd l k) 1 then h.bytes[locAddr l + k - locAddr h.loc]? else acc) none

/-- The address of a barrier word's object in a register, where the word's operands and the address pass (R197). -/
def barAddr (i : Instr) (th : Thread) (w : Workgroup) (a : Reg) : Option Nat :=
  if (firstTok ((usesOf i).flatMap fun u => if isSrc u then readRegs th u.reg u.n else [])).isSome then none
  else match spadForm th w a.toNat 0 16 with
    | .ok x => some x
    | .error _ => none

/-- The barrier object that a barrier word names for a thread, where its operands and its address pass (R197). -/
def barrierOf (i : Instr) (th : Thread) (w : Workgroup) : Option Nat :=
  match i with
  | .barinit a _ _ => barAddr i th w a
  | .arrive _ a _ _ => barAddr i th w a
  | .waitph _ a _ _ => barAddr i th w a
  | .testph _ a _ _ => barAddr i th w a
  | .arrivex a b _ tl => if (reg2 th b).data.toNat ≤ (timelineAt w tl.toNat).done then barAddr i th w a else none
  | _ => none

/-- PHASE of a barrier object (R195). -/
def phaseBit (w : Workgroup) (a : Nat) : Bool := (memGet w.spad a).getLsbD 0

/-- Whether an object is refused: a reserved bit, or a poisoned sector (R195). -/
def objectRefused (w : Workgroup) (a : Nat) : Option Cause :=
  match poisonIn w.spadPoison a 16 with
  | some c => some c
  | none => if leNat (memGetN w.spad a 4) / 2 = 0 then none else some .format

/-- The scratchpad bytes that a word's own access names for a thread, where the address passes (R205). -/
def spadOf (i : Instr) (th : Thread) (w : Workgroup) : Option (Nat × Nat) :=
  let at' (a : Reg) (off : BitVec 16) (n : Nat) : Option (Nat × Nat) :=
    match spadForm th w a.toNat off n with
    | .ok x => some (x, n)
    | .error _ => none
  match i with
  | .lds _ a off sz _ _ => at' a off sz.bytes
  | .sts _ a off sz _ => at' a off sz.bytes
  | .atoms _ a _ off sz _ _ => at' a off sz.bytes
  | .ldrec _ a off _ spad _ => if spad then at' a off 32 else none
  | _ => (barrierOf i th w).map fun x => (x, 16)

def isSpadLoad : Instr → Bool
  | .lds .. | .ldrec .. => true
  | _ => false

/-- The address of a block or a request in scratchpad, where its checks pass (R254, R272). -/
def blockAddr (th : Thread) (w : Workgroup) (a : Reg) (n : Nat) : Option Nat :=
  let v := readReg th a.toNat
  if v.poison || v.data.toNat % n ≠ 0 || v.data.toNat + n > 128 * w.hdr.scratch then none else some v.data.toNat

/-- Where an atomic of a thread acts, where its address and its operands pass (R223). -/
def atomPlace (i : Instr) (s : State) (t : Nat) (th : Thread) (w : Workgroup) : Option Place :=
  let place (f : Formed) (data : List RegVal) : Option Place :=
    match f, firstTok data with
    | .at p, none => some p
    | _, _ => none
  match i with
  | .atom _ a b off sz cp op _ => place (formFlat s th w a.toNat off sz.bytes .atomic cp).1 (atomData th b.toNat sz op false).2.2
  | .atomRec _ a b off sz cp op _ =>
    place (formRec s th w a.toNat b.toNat false off .atomic (fun f => atomFmtOk f sz op) .atomic cp).1 (atomData th b.toNat sz op true).2.2
  | .atoms _ a b off sz op _ => place (formSpad th w (wgOf t) a.toNat off sz.bytes) (atomData th b.toNat sz op false).2.2
  | _ => none

/-- Whether an atomic meets bytes that its thread holds, so that it commits first (R152). -/
def atomCommits (i : Instr) (s : State) (t : Nat) (th : Thread) (w : Workgroup) : Bool :=
  match atomPlace i s t th w with
  | some p => heldMeets th p.loc p.n
  | none => false

/-- Whether a word may perform a commit for a thread before or as its own effect (R152, R158, R160). -/
def mayCommit (i : Instr) (s : State) (t : Nat) (th : Thread) (w : Workgroup) : Bool :=
  match i with
  | .rbegin .. | .exit | .refill .. | .commit .. => true
  | .st .. | .stRec .. | .sts .. => isRelease i || decide (th.region.stores.length = 32)
  | .atom .. | .atomRec .. | .atoms .. => isRelease i || atomCommits i s t th w
  | .barinit .. | .arrive .. | .waitph .. | .testph .. | .arrivex .. =>
    isRelease i || (match barrierOf i th w with
      | some a => heldMeets th (.spad (wgOf t) a) 16
      | none => false)
  | _ => isRelease i

/-- Whether an atomic would raise a counter that is at its limit, or that its commit brings there (R28): a release has committed by the time that
it acts, and an atomic whose commit finds the region tainted does not execute (R158). -/
def atomFull (i : Instr) (d : Reg) (s : State) (t : Nat) (th : Thread) (w : Workgroup) : Bool :=
  if isRelease i && th.relSince.isNone then false
  else if atomCommits i s t th w then !th.region.taint && (if d = 0 then !commitRoom th 1 else th.ldc = 63)
  else if d = 0 then th.stc = 63 else th.ldc = 63

/-- Counters at their limit, which a word would raise (R28). -/
def counterFull (i : Instr) (s : State) (t : Nat) (th : Thread) (w : Workgroup) : Bool :=
  match i with
  | .ld .. | .ldRec .. | .lds .. | .ldrec .. => th.ldc = 63
  | .atom d .. | .atomRec d .. | .atoms d .. => atomFull i d s t th w
  | .mxrd .. | .mxwr .. => th.mxc = 63
  | .mxgo _ a _ => (blockAddr th w a 128).isSome && th.mxc = 63
  | .cpgo _ a _ => (blockAddr th w a 64).isSome && th.cpc = 63
  | .st .. | .stRec .. | .sts .. => isRelease i && th.relSince.isSome && th.stc = 63
  | _ => false

def underLimit (limit : BitVec 8) (c : Nat) : Bool := limit.toNat = 255 || decide (c ≤ limit.toNat)

/-- Whether an address lies in a partition's switch window (R391). -/
def inSwitchWindow (p : Partition) (va : DWord) : Bool := va.toNat / 2 ^ 50 = p.pswva / 2 ^ 50

/-- Whether SWFREE of an address sends a request, and so waits first: it lies in the switch window and translates to switch memory (R415). -/
def swfreeSends (s : State) (w : Workgroup) (va : DWord) : Bool :=
  inSwitchWindow (partAt s w.part) va && match (translate s w.core w.part va.toNat .read 0).1 with
    | .ok l => (match locHome s l with
      | .switch .. => true
      | _ => false)
    | .error _ => false

/-- Conditions of a word's own entry (R206, R226, R275, R348, R415). -/
def entryStall (i : Instr) (s : State) (t : Nat) (th : Thread) (w : Workgroup) : Option Stall :=
  match i with
  | .waitcnt l st c m =>
    stallIf (!(underLimit l th.ldc && underLimit st th.stc && underLimit c th.cpc && underLimit m th.mxc)) (.park .counters)
  | .tlwait a tl =>
    let v := reg2 th a
    stallIf (v.tok.isNone && decide ((timelineAt w tl.toNat).done < v.data.toNat)) (.park .timeline)
  | .cpgo _ a _ =>
    match blockAddr th w a 64 with
    | some x =>
      if lineAbsent s (.spad (wgOf t) x) 64 then some (.park .presence)
      else stallIf (ownSpad s t th) (.park .order)
    | none => none
  | .launch _ a _ _ =>
    match blockAddr th w a 64 with
    | some x => stallIf (lineAbsent s (.spad (wgOf t) x) 64) (.park .presence)
    | none => none
  | .swfree _ a =>
    stallIf ((reg2 th a).tok.isNone && swfreeSends s w (reg2 th a).data
      && (s.ops.any (fun (_, o) => !isLoad o && ownedBy o t th.serial) || s.acks.any (fun (_, o) => ownedBy o t th.serial)
        || s.late.any fun (_, f) => f.th = t && f.serial = th.serial)) .wait
  | .mxgo .. | .mxrd .. | .mxwr .. => none
  | _ =>
    match spadOf i th w with
    | some (a, n) =>
      let l := Loc.spad (wgOf t) a
      if lineAbsent s l n && !(isSpadLoad i && (heldBytes th l n).all (·.isSome)) then some (.park .presence) else none
    | none => none

/-- WAITPH: the object's phase has the parity that the thread waits on (R203). A refused object does not park (R195). -/
def phaseStall (i : Instr) (th : Thread) (w : Workgroup) : Option Stall :=
  match i with
  | .waitph _ _ b _ =>
    match barrierOf i th w with
    | some a =>
      stallIf ((objectRefused w a).isNone && phaseBit w a = (readReg th b.toNat).data.getLsbD 0) (.park .phase)
    | none => none
  | _ => none

def orElse' : Option Stall → Option Stall → Option Stall
  | some x, _ => some x
  | none, y => y

/-- Why a word cannot issue yet for a thread (R185, R186), the commit that goes before it apart. -/
def stallOf (i : Instr) (s : State) (t : Nat) : Option Stall :=
  match thOf s t, wgAt s (wgOf t) with
  | some th, some w =>
    orElse' (stallIf (awaits i th || forking s t th) .wait)
      (orElse' (stallIf ((!isQuiet i && blocked s t th) || (mayCommit i s t th w && txWaits s t th)) (.park .order))
        (orElse' (stallIf (isArith i && !fifosReady th w (usesOf i)) (.park .queue))
          (orElse' (stallIf (counterFull i s t th w || (mayCommit i s t th w && !commitRoom th 0)) (.park .counterFull))
            (entryStall i s t th w))))
  | _, _ => none

/-- Entries of engine queues that an issue takes: each MXGO or CPGO thread that is not suppressed one, an MXRD or MXWR word one (R230,
R262); an ARRIVEX thread whose number is not reached one deferred arrival (R273); an XFER thread one queued transfer (R411). -/
def entriesNeeded (i : Instr) (s : State) (ts : List Nat) : Nat :=
  let count (f : Thread → Workgroup → Bool) : Nat :=
    (ts.filter fun t => match thOf s t, wgAt s (wgOf t) with
      | some th, some w => f th w
      | _, _ => false).length
  match i with
  | .mxgo _ a _ => count fun th w => (blockAddr th w a 128).isSome
  | .mxrd .. | .mxwr .. => if ts.isEmpty then 0 else 1
  | .cpgo _ a _ => count fun th w => (blockAddr th w a 64).isSome
  | .arrivex a b c tl => count fun th w =>
    (barAddr (.arrivex a b c tl) th w a).isSome && decide ((timelineAt w tl.toNat).done < (reg2 th b).data.toNat)
  | .xfer _ a _ => count fun th _ => (firstTok (readRegs th a.toNat 8)).isNone
  | _ => 0

/-- Whether a workgroup holds its place in its core's queues: a saved one does not (R354). -/
def wgResident (s : State) (wg : Nat) : Bool :=
  match wgAt s wg with
  | some w => !w.saved
  | none => false

/-- Entries of the queue that a word uses (R230, R262, R273, R411). -/
def entriesOf : Instr → Nat
  | .arrivex .. => 64
  | _ => 32

/-- Entries of the queue that are taken; the operations of one MXRD or MXWR word share an entry. -/
def entriesTaken (i : Instr) (s : State) (core : Nat) : Nat :=
  let c := coreAt s core
  match i with
  | .mxgo .. | .mxrd .. | .mxwr .. => ((c.mxq.filter fun p => wgResident s p.2.wg).map (·.2.issue)).eraseDups.length
  | .cpgo .. => (c.cpq.filter fun p => wgResident s p.2.wg).length
  | .arrivex .. => (c.deferred.filter fun p => wgResident s p.2.wg).length
  | .xfer .. => (s.xfers.filter fun p => p.2.core = core && !p.2.running).length
  | _ => 0

def entriesFree (i : Instr) (s : State) (core : Nat) : Nat := entriesOf i - entriesTaken i s core

/-- Whether a word needs more entries than its queue has: then its threads' operations enter as entries come free (R230, R254). -/
def exceedsQueue (i : Instr) (s : State) (ts : List Nat) : Bool := decide (entriesOf i < entriesNeeded i s ts)

/-- The first threads whose operations find an entry. -/
def fittingPrefix (i : Instr) (s : State) (free : Nat) : List Nat → List Nat
  | [] => []
  | t :: ts =>
    let n := entriesNeeded i s [t]
    if n ≤ free then t :: fittingPrefix i s (free - n) ts else []

/-! ## The commit that goes before a word -/

/-- Whether a word performs an implicit commit before itself for a thread (R152, R158). A release has performed it once it waits for its
accesses (R315). -/
def preCommit (i : Instr) (s : State) (t : Nat) : Bool :=
  match thOf s t, wgAt s (wgOf t) with
  | some th, some w =>
    (isRelease i && th.relSince.isNone)
      || (match i with
        | .rbegin .. | .exit => true
        | .barinit .. | .arrive .. | .waitph .. | .testph .. | .arrivex .. =>
          match barrierOf i th w with
          | some a => heldMeets th (.spad (wgOf t) a) 16
          | none => false
        | _ => false)
  | _, _ => false

def remoteOp (s : State) (o : Op) : Bool := isRemote (locHome s o.loc)

/-- Whether a thread's earlier loads have returned and its earlier stores and atomics are acknowledged (R315), a refusal that is still on its way
being an acknowledgement that has not arrived (R155); once this release's bound of R319 has passed, the fabric writes that are still
unacknowledged do not count. -/
def waitReleased (s : State) (t : Nat) (th : Thread) : Bool :=
  let gone (o : Op) : Bool := th.unacked.isSome && !isLoad o && remoteOp s o
  !(s.ops.any fun (_, o) => ownedBy o t th.serial && !gone o) && !(s.acks.any fun (_, o) => ownedBy o t th.serial && !gone o)
    && !(s.late.any fun (_, f) => f.th = t && f.serial = th.serial)

def loadsDone (s : State) (t : Nat) (th : Thread) : Bool := !(s.ops.any fun (_, o) => ownedBy o t th.serial && isLoad o)

/-- FENCE, which waits in flight (R325). -/
def isFence : Instr → Bool
  | .fence .. => true
  | _ => false

/-- Whether a word may act for a thread once its implicit commit is done: a release waits for acknowledgements, a fence that acquires for
its loads, a barrier operation for the thread's own stores to the object (R196, R315, R325). -/
def settled (i : Instr) (s : State) (t : Nat) : Bool :=
  match thOf s t, wgAt s (wgOf t) with
  | some th, some w =>
    (!isRelease i || waitReleased s t th)
      && (match i with
        | .fence _ mo => isRel mo || loadsDone s t th
        | .barinit .. | .arrive .. | .waitph .. | .testph .. | .arrivex .. =>
          match barrierOf i th w with
          | some a => !ownMeets s t th (.spad (wgOf t) a) 16
          | none => true
        | _ => true)
  | _, _ => true

end Sys2Proof.Machine
end

