-- ==== Sys2Proof/Machine/Select.lean ====
section
/-! DEFINITION. What a port selects at an issue opportunity, the forming of groups, and the end of an opportunity (R136, R142, R183, R184, R351). -/

namespace Sys2Proof.Machine

/-- Where an opportunity of a port leaves a thread: one that gave way counts the opportunity down, and is eligible at once when a group without
it has issued (R136). A cycle that Bridle or a pre-emption withholds from the thread's partition is no opportunity for it (R187, R351). -/
def yieldCond (core port : Nat) (issued : Option (List Nat)) (s : State) (t : Nat) (th : Thread) : Cond :=
  match th.cond, wgAt s (wgOf t) with
  | .ready since hold, some w =>
    if hold = 0 || w.core ≠ core || (idxOf t / w.hdr.width + w.parity) % 2 ≠ port then .ready since hold
    else
      let left := match issued with
        | some ms => if ms.contains t then hold - 1 else 1
        | none => if wgIssues s w then hold - 1 else hold
      .ready since (max left 1)
  | c, _ => c

/-- One opportunity of a port has passed (R136). -/
def yieldTick (core port : Nat) (issued : Option (List Nat)) (s : State) : State :=
  { s with threads := s.threads.map fun p => (p.1, { p.2 with cond := yieldCond core port issued s p.1 p.2 }) }

/-- The turn after a port's: the core's other port, then the next core; after the last core the cycle ends (R183). -/
def nextTurn (s : State) : State :=
  if s.turn.2 = 0 then { s with turn := (s.turn.1, 1) }
  else if s.turn.1 < 255 then { s with turn := (s.turn.1 + 1, 0) }
  else { s with turn := (0, 0), now := s.now + 1 }

/-- The end of a port's opportunity. -/
def endOpportunity (s : State) (core port : Nat) (issued : Option (List Nat)) : State :=
  let s := yieldTick core port issued s
  if s.turn = (core, port) then nextTurn s else s

/-- The port of a thread (R182). -/
def portOf (w : Workgroup) (t : Nat) : Nat := (idxOf t / w.hdr.width + w.parity) % 2

/-- Since when a thread has been ready, if it is (R183). -/
def readySince (th : Thread) : Option Nat :=
  match th.cond with
  | .ready since 0 => some since
  | _ => none

/-- The order of ready threads: the longest ready, then the older workgroup, then the lower index (R183). -/
def readyKey (s : State) (t : Nat) : List Nat :=
  match thOf s t, wgAt s (wgOf t) with
  | some th, some w => [(readySince th).getD 0, w.age, w.slot, idxOf t]
  | _, _ => []

def lexLt : List Nat → List Nat → Bool
  | a :: as, b :: bs => decide (a < b) || (a = b && lexLt as bs)
  | _, _ => false

/-- The oldest of some ready threads. -/
def oldest (s : State) : List Nat → Option Nat
  | [] => none
  | t :: ts =>
    match oldest s ts with
    | none => some t
    | some u => if lexLt (readyKey s u) (readyKey s t) then some u else some t

/-- The ready threads of a port that may issue. -/
def readyOn (s : State) (core port : Nat) : List Nat :=
  (s.threads.filter fun (t, th) =>
    (readySince th).isSome && match wgAt s (wgOf t) with
      | some w => w.core = core && portOf w t = port && wgIssues s w
      | none => false).map (·.1)

/-- Whether a thread may join a group around another: the same launch, and the same span address and offset (R142, R184). -/
def joins (s : State) (t u : Nat) : Bool :=
  match thOf s t, thOf s u, wgAt s (wgOf t), wgAt s (wgOf u) with
  | some a, some b, some v, some w => a.span = b.span && a.off = b.off && v.launch = w.launch
  | _, _, _, _ => false

def laneIs (s : State) (l t : Nat) : Bool :=
  match thOf s t with
  | some th => th.lane = l
  | none => false

/-- The members of a group around a thread: on its own lane the thread, on every other lane the oldest that may join (R184). -/
def membersAround (s : State) (t : Nat) (ready : List Nat) : List Nat :=
  let cs := ready.filter (joins s t)
  sortThs s ((List.range 64).filterMap fun l => if laneIs s l t then some t else oldest s (cs.filter (laneIs s l)))

def inFlightOn (s : State) (core port : Nat) : NMap Group :=
  s.groups.filter fun p => p.2.core = core && p.2.port = port && p.2.park.isNone

def groupIssues (s : State) (G : Group) : Bool :=
  !G.waiting && match G.members with
    | t :: _ => match wgAt s (wgOf t) with
      | some w => wgIssues s w
      | none => true
    | [] => true

/-- The group formed earliest among those whose next word may issue (R183). Of two that returned to the in-flight set in one cycle it is the one with
the lower key, the model's choice where the spec gives none (log 43). -/
def earliest : NMap Group → Option (Nat × Group)
  | [] => none
  | p :: ps =>
    match earliest ps with
    | none => some p
    | some q => if q.2.formed < p.2.formed then some q else some p

/-- A new group around a thread, in focus (R183, R184). -/
def formGroup (s : State) (core port t : Nat) : State :=
  let ms := membersAround s t (readyOn s core port)
  let k := freshId s
  let s := ms.foldl (fun s u => modTh s u fun th => { th with cond := .inFlight }) k.2
  let G : Group := { core := core, port := port, members := ms, formed := s.now, waiting := false, park := none, old := [] }
  { s with groups := put s.groups k.1 G, focus := some k.1 }

/-- The selection of an issue opportunity (R183). -/
def selectWord (s : State) (core port : Nat) : State :=
  let fl := inFlightOn s core port
  let G := earliest (fl.filter fun p => groupIssues s p.2)
  let t := oldest s (readyOn s core port)
  let form : Option Nat :=
    match t with
    | none => none
    | some t =>
      match G with
      | none => if fl.length < 16 then some t else none
      | some (_, g) =>
        match thOf s t with
        | some th => if fl.length < 16 && decide ((readySince th).getD 0 < g.formed) then some t else none
        | none => none
  match form with
  | some t => formGroup s core port t
  | none =>
    match G with
    | some (g, _) => { s with focus := some g }
    | none => endOpportunity s core port none

end Sys2Proof.Machine
end

