-- ==== Sys2Proof/Machine/Ops.lean ====
section
/-! DEFINITION. The shared operations of every word: taking an exception, which on this machine is the abort of a region and the entry
into recovery (R79, R156, R161), and the ways back from it (R160, R162, R163); commits (R158 to R160, R170, R171); the end of a thread
(R131, R132); and the issue of a word for its group (R183 to R186). -/

namespace Sys2Proof.Machine

/-! ## Lane-cycles and the end of a thread -/

/-- Lanes that a workgroup holds (GWIDTH, R36). -/
def gwidth (w : Workgroup) : Nat := w.hdr.width - 8 * w.released.length

/-- Lane-cycles counted up to now; none while the workgroup is saved (R341, R355). -/
def accrue (now : Nat) (w : Workgroup) : Workgroup :=
  if w.saved then w else
  let n := (now - w.laneAt) * gwidth w
  { w with laneCycles := w.laneCycles + n, lanesRun := w.lanesRun + n, residency := w.residency + (now - w.laneAt), laneAt := now }

/-- Slice k of a workgroup released: its registers return, GWIDTH falls, and the FIFOs of its lanes are discarded (R132, R194). -/
def releaseSlice (now : Nat) (w : Workgroup) (k : Nat) : Workgroup :=
  let w := accrue now w
  { w with
    released := w.released ++ [k]
    fifos := w.fifos.filter fun f => (f.1 / 8 - w.base) / 8 ≠ k || f.1 / 8 < w.base }

/-- Slices in which no thread is live any more are released (R132). -/
def releaseSlices (s : State) (wg : Nat) : State :=
  match wgAt s wg with
  | none => s
  | some w =>
    let busy : List Nat := (s.threads.filter fun p => wgOf p.1 = wg).map fun p => (p.2.lane - w.base) / 8
    (List.range (w.hdr.width / 8)).foldl (fun s k =>
      if busy.contains k || w.released.contains k then s else modWg s wg fun x => releaseSlice s.now x k) s

/-- The end of a thread: it is no longer live, its slot is vacant, and a slice without live threads is released (R131, R132). -/
def endThread (s : State) (t : Nat) : State :=
  let s := { s with threads := del s.threads t }
  let s := modWg s (wgOf t) fun w => { w with vacant := put w.vacant (idxOf t) s.now }
  releaseSlices s (wgOf t)

/-! ## Exceptions: abort and recovery -/

/-- Held stores and the read set of a thread discarded; loads still outstanding take no read-set entry any more (R160, R167). -/
def dropSets (s : State) (t : Nat) : State :=
  let s := modTh s t fun th => { th with region := { th.region with stores := [], reads := [] } }
  { s with ops := s.ops.map fun (k, o) =>
      (k, if isLoad o && o.parts.any (fun m => m.th = t) then { o with parts := o.parts.map fun m => { m with tx := false } } else o) }

/-- The region cleared: untainted, with an empty buffer and an empty read set (R160, R161). -/
def cleared (r : Region) : Region := { r with taint := false, first := 0, list := [], full := false, stores := [], reads := [] }

/-- Recover(t, tok) (R161): the held stores are discarded; TOKREG receives the token's bits as clean data; the region is cleared and
becomes plain, with BEGIN the recovery target; and the thread continues at (TARGET, 0). A thread without a target ends as EXIT does, and the
token goes to its launch's completion status (R39, R166). -/
def recover (s : State) (t : Nat) (tok : Word) : State :=
  match thOf s t with
  | none => s
  | some th =>
    let s := dropSets s t
    match th.region.target with
    | none =>
      let s := match wgAt s (wgOf t) with
        | some w => modLaunch s w.launch fun l => mergeFirst { l with uncaught := min (l.uncaught + 1) (2 ^ 32 - 1) } tok
        | none => s
      endThread s t
    | some target =>
      modTh s t fun th =>
        let th := setReg th th.region.tokReg (.clean tok)
        { th with
          span := target
          off := 0
          cond := .ready s.now 0
          relSince := none
          unacked := none
          recovTok := some (tokIndex tok, (tokGen tok).toNat)
          region := { cleared th.region with start := target, mode := .plain } }

/-- The abort of a region with a token: the token taints it, and the tainted plain commit enters recovery at once with FIRST (R156). -/
def abortRegion (s : State) (t : Nat) (tok : Word) : State :=
  let s := taint s t tok
  match thOf s t with
  | some th => recover s t th.region.first
  | none => s

/-- MakeToken for a thread's word. -/
def threadToken (s : State) (issue t : Nat) (f : Why) : State × Word :=
  match thOf s t with
  | some th => makeToken s (orgOf s issue t th) f
  | none => (s, 0)

/-- The abort of a thread's region with a token that its word makes (R79, R80, R125, R168). -/
def abortWith (s : State) (issue t : Nat) (f : Why) : State :=
  let k := threadToken s issue t f
  abortRegion k.1 t k.2

/-- A word that executes as ABORT with a cause: the token's address is the word's own (R79, R80). -/
def abortWord (c : Cause) (window : Bool) (issue : Nat) (s : State) (t : Nat) : State :=
  match thOf s t with
  | some th => abortWith s issue t ⟨c, some (wordAddr th), window, false⟩
  | none => s

/-! ## Replay (R160, R162, R163) -/

/-- Whether every record of the region's list allows a replay (R162). -/
def replayAllowed (s : State) (t : Nat) (th : Thread) : Bool :=
  match wgAt s (wgOf t) with
  | none => false
  | some w =>
    !th.region.full && th.region.list.all fun (i, g) =>
      let r := recAt s w.core i
      i ≠ 0 && r.status ≠ stFree && r.gen.toNat = g && r.wgslot = BitVec.ofNat 8 w.slot
        && (match codeClass r.cause with
          | some .immediate => true
          | some .serviceable => r.status = stPending || r.status = stServiced
          | _ => false)

def recStatusIn (s : State) (core : Nat) (l : List (Nat × Nat)) (st : Byte) : Bool :=
  l.any fun (i, g) => (recAt s core i).gen.toNat = g && (recAt s core i).status = st

/-- The restart of a region after a replay park: cleared, at (BEGIN, 0); late taints met meanwhile taint it now (R155, R163). -/
def restart (s : State) (t : Nat) (late : List Word) : State :=
  modTh s t fun th =>
    { th with
      span := th.region.start
      off := 0
      cond := .ready s.now 0
      region := late.foldl taintRegion (cleared th.region) }

/-! ## Transactions (R170, R171) -/

/-- The locations of a read set and of a write set. -/
def readLocs (r : Region) : List (Loc × Nat) := r.reads.map fun e => (e.loc, e.vals.length)
def writeLocs (r : Region) : List (Loc × Nat) := r.stores.map fun h => (h.loc, h.bytes.length)

def setsMeet (x y : List (Loc × Nat)) : Bool := x.any fun a => y.any fun b => locsMeet a.1 a.2 b.1 b.2

/-- Whether a thread loses against one that has not lost: its read or write set meets the other's write set, or its write set meets the
other's read set (R170). -/
def losesTo (x y : Region) : Bool :=
  setsMeet (readLocs x ++ writeLocs x) (writeLocs y) || setsMeet (writeLocs x) (readLocs y)

/-- Whether a thread takes part in a transactional commit: tx mode, untainted. -/
def txClean (s : State) (t : Nat) : Bool :=
  match thOf s t with
  | some th => th.region.mode = .tx && !th.region.taint
  | none => false

/-- Local resolution (R170): the threads in order, with the winners so far; a loser is tainted with TX-LOCAL. -/
def resolve (s : State) (issue : Nat) : List Nat → List Nat → State
  | [], _ => s
  | t :: ts, won =>
    match thOf s t with
    | none => resolve s issue ts won
    | some th =>
      let lost := won.any fun u => match thOf s u with
        | some y => losesTo th.region y.region
        | none => false
      if lost then
        let k := threadToken s issue t ⟨.txLocal, none, false, false⟩
        resolve (taint k.1 t k.2) issue ts won
      else resolve s issue ts (won ++ [t])

/-- The place of a location in the order of a step's visits: the core's own home first, then ascending slice number, within a home by
ascending address (R171). Within the own home scratchpad offsets and the addresses of its granules are one order, and another core's granule
stands among the slices (log 114). -/
def visitKey (s : State) (core : Nat) (l : Loc) : Nat × Nat :=
  if coreHome s l = some core then (0, locAddr l) else (1 + sliceOf s (locAddr l), locAddr l)

def keyLt (a b : Nat × Nat) : Bool := decide (a.1 < b.1) || (a.1 = b.1 && decide (a.2 < b.2))

/-- The least entry in the order of visits; of entries at one place the first. -/
def firstVisited (s : State) (core : Nat) : List (Loc × DWord) → Option DWord
  | [] => none
  | (l, va) :: xs =>
    match xs.find? fun y => keyLt (visitKey s core y.1) (visitKey s core l) with
    | none => some va
    | some _ => firstVisited s core xs

/-- Whether a read-set entry's recorded bytes still stand (R167, R171). -/
def entryChanged (s : State) (e : ReadEntry) : Bool :=
  let bs := (readLoc s e.loc e.vals.length).1
  (e.vals.zip bs).any fun (v, b) => match v with
    | some x => x ≠ b
    | none => false

/-- The loads of a transaction that have not been performed are performed within its step (R167, R171, R175). -/
def performTxLoads (s : State) (t : Nat) (th : Thread) : State :=
  (s.ops.filter fun (_, o) => isLoad o && ownedBy o t th.serial && o.parts.any (·.tx)).foldl (fun s (k, o) =>
    match o.kind with
    | .load form => performLoad s k o form
    | _ => s) s

/-- A held store's bytes written at once: the directory's row for the write is taken with its acknowledgements, and the writer's own copies are
current (R171, R289, R294). -/
def writeNow (s : State) (core : Nat) (h : HeldStore) : State :=
  let s := writeLoc s false h.loc h.bytes
  let s := { s with perfCtr := s.perfCtr + 1 }
  match h.loc with
  | .spad _ _ => s
  | .phys pa _ _ _ =>
    if isPkgMem (homeOf s pa)
    then useCopies (refillCopies (dirWriteNow s pa core) core h.loc h.bytes.length) core pa h.bytes.length h.pol else s

/-- TxCommit's atomic step (R171). -/
def txCommit (s : State) (issue t : Nat) : State :=
  match thOf s t, wgAt s (wgOf t) with
  | some th, some w =>
    let s := performTxLoads s t th
    match thOf s t with
    | none => s
    | some th =>
      let changed := th.region.reads.filter (entryChanged s)
      match firstVisited s w.core (changed.map fun e => (e.loc, e.va)) with
      | some va =>
        let k := threadToken s issue t ⟨.txConflict, some va, false, false⟩
        taint k.1 t k.2
      | none =>
        let frozen := th.region.stores.filter fun h => locFrozen s h.loc h.bytes.length
        match firstVisited s w.core (frozen.map fun h => (h.loc, h.va)) with
        | some va =>
          let k := threadToken s issue t ⟨.writeFrozen, some va, false, true⟩
          taint k.1 t k.2
        | none =>
          let s := th.region.stores.foldl (fun s h => writeNow s w.core h) s
          dropSets s t
  | _, _ => s

/-! ## Commit -/

/-- A held store released: it becomes an outstanding access and raises STC (R28, R160). -/
def releaseStore (t : Nat) (th : Thread) (w : Workgroup) (s : State) (h : HeldStore) : State :=
  let k := freshId s
  let o : Op :=
    { kind := .store h.bytes, core := w.core, wg := wgOf t, launch := w.launch, issue := h.issue, span := h.span, off := h.off,
      loc := h.loc, n := h.bytes.length, pol := h.pol, parts := [⟨t, th.serial, [], h.va, 0, 0, [], false⟩], acq := none, rel := false,
      blocking := false, phase := .waiting, eng := none, entered := k.2.now, sent := false, reply := none }
  modTh { k.2 with ops := put k.2.ops k.1 o } t fun th => { th with stc := th.stc + 1 }

/-- An untainted commit's end: the held stores are released in program order and a plain region opens (R160). -/
def openRegion (s : State) (t : Nat) (start : DWord) : State :=
  match thOf s t, wgAt s (wgOf t) with
  | some th, some w =>
    let s := th.region.stores.foldl (releaseStore t th w) s
    let s := dropSets s t
    modTh s t fun th => { th with recovTok := none, region := { cleared th.region with start := start, mode := .plain } }
  | _, _ => s

/-- One thread's commit once transactions are resolved (R160): release, replay park, or recovery. -/
def commitOne (replay : Bool) (start : Thread → DWord) (s : State) (t : Nat) : State :=
  match thOf s t with
  | none => s
  | some th =>
    if !th.region.taint then openRegion s t (start th)
    else
      let s := modTh s t fun th => { th with recovTok := none }
      if replay && replayAllowed s t th then modTh (dropSets s t) t fun th => { th with cond := .replay [] }
      else recover s t th.region.first

/-- A commit of several threads of one issue (R160): local resolution over the transactions, their atomic steps in order, then each
thread's outcome. -/
def commitAll (s : State) (issue : Nat) (ts : List Nat) (replay : Bool) (start : Thread → DWord) : State :=
  let s := resolve s issue (ts.filter (txClean s)) []
  let s := (ts.filter (txClean s)).foldl (fun s t => txCommit s issue t) s
  ts.foldl (commitOne replay start) s

/-- An implicit commit: BEGIN is the address of the instruction that causes it (R158, R160). -/
def commitBefore (s : State) (issue : Nat) (ts : List Nat) : State := commitAll s issue ts false wordAddr

/-! ## The issue of a word -/

def isInFlight (s : State) (t : Nat) : Bool :=
  match thOf s t with
  | some th => th.cond = .inFlight
  | none => false

/-- The group's members that are still in flight, and the group gone when none is left (R185). -/
def trimGroup (s : State) (g : Nat) : State :=
  match grpOf s g with
  | none => s
  | some G =>
    let ms := G.members.filter (isInFlight s)
    if ms.isEmpty then { s with groups := del s.groups g } else setGrp s g { G with members := ms }

/-- The members of a word that has issued move to the next word, or the group dissolves at a span end (R123, R185). -/
def moveOn (s : State) (g : Nat) (G : Group) (spanEnd : Bool) : State :=
  if spanEnd then { s with groups := del s.groups g }
  else trimGroup ((G.members.filter (isInFlight s)).foldl (fun s t => modTh s t fun th => { th with off := th.off + 1, acted := false }) s) g

/-- The word has issued: its members move on, and the port's opportunity ends (R123, R183, R185). -/
def finishWord (s : State) (g : Nat) (G : Group) (issue : Nat) (spanEnd : Bool) : State :=
  endOpportunity (moveOn (endIssue s issue) g G spanEnd) G.core G.port (some G.members)

/-- Whether a word finds too few entries in its engine's queue: for all its threads, or, where they need more than the queue has, for the first
of them (R230, R254). -/
def entriesLack (i : Instr) (s : State) (core : Nat) (ts : List Nat) : Bool :=
  if exceedsQueue i s ts then (fittingPrefix i s (entriesFree i s core) ts).isEmpty else decide (entriesFree i s core < entriesNeeded i s ts)

/-- The first reason for which the word does not issue for its members: waiting before parking (R185). -/
def stallAmong (i : Instr) (s : State) (core : Nat) (ts : List Nat) : Option Stall :=
  if ts.any fun t => stallOf i s t = some .wait then some .wait
  else match ts.findSome? (stallOf i s) with
    | some x => some x
    | none => if entriesLack i s core ts then some .wait else none

def phaseStallHere (i : Instr) (s : State) (t : Nat) : Option Stall :=
  match thOf s t, wgAt s (wgOf t) with
  | some th, some w => phaseStall i th w
  | _, _ => none

/-- A group that stays in flight and waits. -/
def waitGroup (s : State) (g : Nat) : State := modGrp s g fun G => { G with waiting := true }

/-- A group that parks as a unit (R185). -/
def parkGroup (s : State) (g : Nat) (p : Park) (i : Instr) : State := modGrp s g fun G => { G with park := some (p, i) }

/-- A word that does not issue: its group waits or parks, and the port's opportunity selects again among the others (R183, R185; log 43). -/
def heldBack (i : Instr) (s : State) (g : Nat) (G : Group) (x : Stall) : State :=
  let s := match x with
    | .wait => waitGroup s g
    | .park p => parkGroup s g p i
  selectWord s G.core G.port

/-- Releases that have performed their implicit commit and wait note the cycle (R319). -/
def noteRelease (i : Instr) (s : State) (ts : List Nat) : State :=
  if isRelease i then
    ts.foldl (fun s t => modTh s t fun th => { th with relSince := some (th.relSince.getD s.now) }) s
  else s

/-- A source field's registers, or the words that it pops, with a token where an error has struck them. -/
def tellSource (tok : Word) (us : List RegUse) (t : Nat) (s : State) (u : RegUse) : State :=
  match thOf s t, wgAt s (wgOf t) with
  | some th, some w =>
    if isPort w u.reg then
      let q := fifoAt w th.lane u.reg
      let n := popsOf us u.reg
      setWg s (wgOf t) (setFifo w th.lane u.reg ((q.take n).map (RegVal.told tok) ++ q.drop n))
    else setTh s t ((List.range' u.reg u.n).foldl (fun th r => setReg th r ((readReg th r).told tok)) th)
  | _, _ => s

/-- Whether some source of a thread's word meets an error that nothing has read yet (R379). -/
def meetsErrorHere (i : Instr) (s : State) (t : Nat) : Bool :=
  match thOf s t, wgAt s (wgOf t) with
  | some th, some w => ((usesOf i).filter isSrc).any (meetsError th w (usesOf i))
  | _, _ => false

/-- The first reads of values that uncorrectable errors have struck: they yield poison with a token of cause ECC and address 0 (R379). -/
def meetErrors (i : Instr) (issue : Nat) (s : State) (ts : List Nat) : State :=
  ts.foldl (fun s t =>
    if meetsErrorHere i s t then
      let k := threadToken s issue t ⟨.ecc, some 0, false, false⟩
      ((usesOf i).filter isSrc).foldl (tellSource k.2 (usesOf i) t) k.1
    else s) s

/-- The accesses to scratchpad and to the L1 that a word makes for each of its threads (R349; log 110). -/
def accessCounts : Instr → Nat × Nat
  | .lds .. | .sts .. | .atoms .. | .barinit .. | .arrive .. | .waitph .. | .testph .. => (1, 0)
  | .ldrec _ _ _ _ spad _ => if spad then (1, 0) else (0, 1)
  | .ld .. | .ldRec .. | .st .. | .stRec .. => (0, 1)
  | _ => (0, 0)

/-- A word's issue counted for the workgroups of its threads (R349). -/
def countWork (i : Instr) (ts : List Nat) (s : State) : State :=
  { s with activity := ((ts.map wgOf).eraseDups).foldl (fun m w =>
      let n := (ts.filter fun t => wgOf t = w).length
      noted m w ⟨1, n, 0, 0, n * (accessCounts i).1, n * (accessCounts i).2⟩) s.activity }

/-- A word whose implicit commit is done: it still waits for what a release, a fence or a barrier operation waits for (R158, R186, R315), or its
own effect `body` acts for the members that are still in flight, and the issue ends. -/
def wordActs (i : Instr) (body : Nat → List Nat → State → State) (g : Nat) (G : Group) (issue : Nat) (s : State) (run : List Nat) : State :=
  let run := run.filter (isInFlight s)
  let s := noteRelease i s run
  if !run.all (settled i s) then
    heldBack i (trimGroup (endIssue s issue) g) g G (if isFence i then .wait else .park (if isRelease i then .release else .order))
  else match run.findSome? (phaseStallHere i s) with
    | some x => heldBack i (trimGroup (endIssue s issue) g) g G x
    | none => finishWord (countWork i run (body issue run (meetErrors i issue s run))) g G issue (isSpanEnd i)

/-- A member whose operation of the group's word has entered its queue already (R230). -/
def hasActed (s : State) (t : Nat) : Bool :=
  match thOf s t with
  | some th => th.acted
  | none => false

/-- A word whose threads need more entries than the queue has acts for the first of them that find one; the group waits with the rest (R230,
R254). -/
def wordActsSome (i : Instr) (body : Nat → List Nat → State → State) (g : Nat) (G : Group) (issue : Nat) (s : State) (run : List Nat) : State :=
  let ts := fittingPrefix i s (entriesFree i s G.core) run
  let s := ts.foldl (fun s t => modTh s t fun th => { th with acted := true }) (countWork i ts (body issue ts (meetErrors i issue s ts)))
  endOpportunity (waitGroup (trimGroup (endIssue s issue) g) g) G.core G.port (some G.members)

/-- The issue of word i for the group in focus. Members for which the word is no instruction, or is forbidden in their transaction, abort
with cause ILLEGAL (R79, R168). For the others the word issues in the same cycle or for none (R185): the group waits or parks; an implicit
commit goes first (R158), and a member that recovers leaves the group; then the word's own effect `body` acts for the rest. -/
def wordStep (i : Instr) (body : Nat → List Nat → State → State) (s : State) : State :=
  match s.focus with
  | none => s
  | some g =>
    let s := { s with focus := none }
    match grpOf s g with
    | none => s
    | some G =>
      let run := G.members.filter fun t => legalHere i s t && !txStops i s t && !hasActed s t
      match stallAmong i s G.core run with
      | some x => heldBack i s g G x
      | none =>
        let issue := s.nextIssue
        let s := { s with nextIssue := issue + 1 }
        let stop := G.members.filter fun t => !(legalHere i s t && !txStops i s t)
        let s := stop.foldl (abortWord .illegal false issue) s
        if exceedsQueue i s run then wordActsSome i body g G issue s run
        else wordActs i body g G issue (commitBefore s issue (run.filter (preCommit i s))) run

/-- A word whose effect is the same operation for each thread, in ascending logical index. -/
def eachThread (f : Nat → State → Nat → State) (issue : Nat) (ts : List Nat) (s : State) : State := ts.foldl (f issue) s

/-- The outcome of a word's issue. -/
def runWord (i : Instr) (body : Nat → List Nat → State → State) (s : State) : Host.Outcome State Fault Refusal :=
  .next (wordStep i body s)

/-- A thread's part of the operation suppressed: its region is tainted, and each destination receives the token (R153). -/
def suppress (s : State) (t : Nat) (tok : Word) (dsts : List (Nat × Nat)) : State :=
  let s := taint s t tok
  dsts.foldl (fun s d => writeN s t d.1 d.2 (badVal tok)) s

/-- The same with a token that the check makes. -/
def suppressWith (s : State) (issue t : Nat) (f : AddrFault) (dsts : List (Nat × Nat)) : State :=
  match f with
  | .tok k => suppress s t k dsts
  | .make w =>
    let k := threadToken s issue t w
    suppress k.1 t k.2 dsts

/-- A release that acts: its wait and its bound are over (R319). -/
def releaseActs (s : State) (t : Nat) : State := modTh s t fun th => { th with relSince := none, unacked := none }

/-- The outcome of a release for a thread whose bound has passed with the fabric write to this address unacknowledged: its operation is
suppressed with REMOTE-UNACKED; otherwise the continuation performs it (R319). -/
def unlessUnacked (x : Option DWord) (s : State) (issue t : Nat) (dsts : List (Nat × Nat)) (k : State → State) : State :=
  match x with
  | some a => suppressWith s issue t (.make ⟨.remoteUnacked, some a, false, true⟩) dsts
  | none => k s

/-- A release acts for a thread, or is suppressed (R315, R319). -/
def orUnacked (s : State) (issue t : Nat) (dsts : List (Nat × Nat)) (k : State → State) : State :=
  match thOf s t with
  | none => s
  | some th => unlessUnacked th.unacked (releaseActs s t) issue t dsts k

end Sys2Proof.Machine
end

