-- ==== Sys2Proof/Machine/Arith.lean ====
section
/-! DEFINITION. Integer operations of w bits (R44, R99 to R107), and the shape of an arithmetic word (R94, R95). -/

namespace Sys2Proof.Machine

/-- The high half of the exact product (R99). -/
def imulhi {w : Nat} (nat : Bool) (a b : BitVec w) : BitVec w :=
  if nat then BitVec.ofNat w (a.toNat * b.toNat / 2 ^ w) else BitVec.ofInt w (a.toInt * b.toInt / 2 ^ w)

def imin {w : Nat} (nat : Bool) (a b : BitVec w) : BitVec w := if (if nat then b.ult a else b.slt a) then b else a
def imax {w : Nat} (nat : Bool) (a b : BitVec w) : BitVec w := if (if nat then a.ult b else a.slt b) then b else a
def iabs {w : Nat} (a : BitVec w) : BitVec w := if a.msb then -a else a

/-- Shifts by an unmasked count (R44, R100). -/
def shl {w : Nat} (a : BitVec w) (n : Nat) : BitVec w := if w ≤ n then 0 else a <<< n
def shr {w : Nat} (a : BitVec w) (n : Nat) : BitVec w := if w ≤ n then 0 else a >>> n
def shra {w : Nat} (a : BitVec w) (n : Nat) : BitVec w := a.sshiftRight (min n w)
def rotl {w : Nat} (a : BitVec w) (n : Nat) : BitVec w := a.rotateLeft (n % w)

/-- Funnel shift (R101). -/
def shf {w : Nat} (right : Bool) (a b : BitVec w) (c : Nat) : BitVec w :=
  let s := min c w
  let x : BitVec (w + w) := a ++ b
  if right then (x >>> s).setWidth w else ((x <<< s) >>> w).setWidth w

/-- Position and length of a bit field (R103). -/
def bfPos (b : Word) : Nat := (b.extractLsb' 0 8).toNat
def bfLen (w : Nat) (b : Word) : Nat := min (b.extractLsb' 8 8).toNat w

/-- Bit field extract (R103). -/
def bfx {w : Nat} (nat : Bool) (a : BitVec w) (b : Word) : BitVec w :=
  let len := bfLen w b
  let f := (a >>> bfPos b).toNat % 2 ^ len
  if len = 0 then 0
  else if nat || !f.testBit (len - 1) then BitVec.ofNat w f
  else BitVec.ofInt w ((f : Int) - 2 ^ len)

/-- Bit field insert (R103). -/
def bfi {w : Nat} (a : BitVec w) (b : Word) (c : BitVec w) : BitVec w :=
  let m : BitVec w := BitVec.ofNat w (2 ^ bfLen w b - 1) <<< bfPos b
  (c &&& ~~~m) ||| ((a <<< bfPos b) &&& m)

/-- Leading zeros, ones, and the reversed bits (R103). -/
def clz {w : Nat} (a : BitVec w) : Nat := if a = 0 then w else w - 1 - a.toNat.log2
def popc {w : Nat} (a : BitVec w) : Nat := ((List.range w).filter fun k => a.getLsbD k).length
def brev {w : Nat} (a : BitVec w) : BitVec w := a.reverse

/-- One nibble of a selector. -/
def nibble (c : Word) (k : Nat) : Nat := c.toNat / 2 ^ (4 * k) % 16

/-- PRMT of 32 bits (R104): bits [2:0] of a nibble choose a byte of B:A, bit 3 copies its sign. -/
def prmt (a b c : Word) : Word :=
  let byte (k : Nat) : Byte :=
    let n := nibble c k
    let x := (b ++ a).extractLsb' (8 * (n % 8)) 8
    if n < 8 then x else if x.msb then 0xFF#8 else 0
  byte 3 ++ byte 2 ++ byte 1 ++ byte 0

/-- The wide PRMT (R104): a nibble is a byte index. -/
def prmtW (a b : DWord) (c : Word) : DWord :=
  let byte (k : Nat) : Byte := (b ++ a).extractLsb' (8 * nibble c k) 8
  byte 7 ++ byte 6 ++ byte 5 ++ byte 4 ++ byte 3 ++ byte 2 ++ byte 1 ++ byte 0

/-- Address arithmetic (R107). -/
def lea (a b : Word) (s : BitVec 3) : Word := a + (b <<< s.toNat)
def leaW (a : DWord) (b : Word) (s : BitVec 3) (nat : Bool) : DWord :=
  a + ((if nat then b.setWidth 64 else b.signExtend 64) <<< s.toNat)

def lo (x : DWord) : Word := x.setWidth 32
def up (x : Word) : DWord := x.setWidth 64

/-- The value k sources give: the first token, or the function of their data (R95). -/
def arithVal (f : DWord → DWord → DWord → DWord) (vs : List Val) : Val :=
  match firstPoison vs with
  | some t => badVal t
  | none =>
    let d (k : Nat) : DWord := ((vs[k]?).map (·.data)).getD 0
    cleanVal (f (d 0) (d 1) (d 2))

/-- A thread's part of a word: its sources read, or popped, in field order, and the result of `g` written, or pushed, to its destination
(R94, R97). -/
def arithThread (us : List RegUse) (g : List Val → Val) (s : State) (t : Nat) : State :=
  let r := readSrcs s t (us.filter isSrc)
  (us.filter isDst).foldl (fun s u => writeDst s t u (g r.1)) r.2

/-- A word that computes its result from its sources with poison passing through (R94, R95). -/
def aluWord (i : Instr) (f : DWord → DWord → DWord → DWord) (s : State) : Host.Outcome State Fault Refusal :=
  runWord i (fun _ ts s => ts.foldl (arithThread (usesOf i) (arithVal f)) s) s

/-- The function of a 32-bit word. -/
def on32 (f : Word → Word → Word → Word) : DWord → DWord → DWord → DWord := fun a b c => up (f (lo a) (lo b) (lo c))

end Sys2Proof.Machine
end

