-- ==== Sys2Proof/Machine/Access.lean ====
section
/-! DEFINITION. Memory instructions at issue: LD, ST, LDS, STS, LDREC, ATOM, ATOMS, PREF and WAITCNT (R152, R205 to R226). The accesses
themselves are performed by the steps of the memory system. -/

namespace Sys2Proof.Machine

/-- A transaction's access to a home outside the package (R168). -/
def txRemote (s : State) (th : Thread) (p : Place) : Bool := th.region.mode = .tx && isRemote (locHome s p.loc)

/-- An acquire's drop of self-invalidating copies (R316). -/
def acquireNow (s : State) (core : Nat) (acq : Option Scope) : State :=
  match acq with
  | some sc => dropSelfInv s core sc
  | none => s

/-! ## Loads (R167, R217, R219) -/

/-- The read-set entry of a load in a transaction: none where the held stores supply every byte or an entry of the same range stands, and a
33rd is one too many (R167). -/
def readEntry (th : Thread) (p : Place) (held : List (Option Byte)) : Option (List ReadEntry) :=
  if th.region.mode ≠ .tx || held.all (·.isSome) || th.region.reads.any (fun e => e.loc = p.loc && e.vals.length = p.n)
  then some th.region.reads
  else if 32 ≤ th.region.reads.length then none
  else some (th.region.reads ++ [⟨p.loc, p.va, List.replicate p.n none⟩])

/-- A load on its way: an outstanding access, its destinations awaiting the result, LDC raised (R28, R96). -/
def pushLoad (s : State) (issue t : Nat) (th : Thread) (w : Workgroup) (p : Place) (form : LoadForm) (dst : List Nat)
    (held : List (Option Byte)) (reads : List ReadEntry) (acq : Option Scope) : State :=
  let k := freshId s
  let m : Member :=
    { th := t, serial := th.serial, dst := dst, va := p.va, d := 0, e := 0, held := held, tx := decide (th.region.mode = .tx) }
  let o : Op :=
    { kind := .load form, core := w.core, wg := wgOf t, launch := w.launch, issue := issue, span := th.span, off := th.off, loc := p.loc,
      n := p.n, pol := p.pol, parts := [m], acq := acq, rel := false, blocking := acq.isSome, phase := .waiting, eng := none,
      entered := k.2.now, sent := false, reply := none }
  let s := { k.2 with ops := put k.2.ops k.1 o }
  let s := modTh s t fun th =>
    { th with
      ldc := th.ldc + 1, pending := th.pending ++ dst.filter (· ≠ 0), region := { th.region with reads := reads } }
  if allHeld o then s else wantFill s w.core p.loc p.pol

/-- A load of one thread (R217): a failed address gives its token without taint; zero-fill gives zero; otherwise the access is made. -/
def loadThread (issue : Nat) (d : Reg) (n : Nat) (acq : Option Scope) (form : Place → LoadForm) (f : Formed × State) (t : Nat) (th : Thread)
    (w : Workgroup) : State :=
  let s := f.2
  let dst := List.range' d.toNat n
  match f.1 with
  | .fault (.tok k) => acquireNow (writeN s t d.toNat n (badVal k)) w.core acq
  | .fault (.make y) =>
    let k := threadToken s issue t y
    acquireNow (writeN k.1 t d.toNat n (badVal k.2)) w.core acq
  | .dropped => acquireNow (writeN s t d.toNat n (cleanVal 0)) w.core acq
  | .at p =>
    if txRemote s th p then abortWord .illegal false issue s t
    else
      let held := heldBytes th p.loc p.n
      match readEntry th p held with
      | none =>
        let k := threadToken s issue t (why .txCapacity p.va)
        acquireNow (suppress k.1 t k.2 [(d.toNat, n)]) w.core acq
      | some reads => pushLoad s issue t th w p (form p) dst held reads acq

/-- A word that acts for each of its threads with the thread and its workgroup at hand. -/
def threadWord (i : Instr) (f : Nat → State → Nat → Thread → Workgroup → State) (s : State) : Host.Outcome State Fault Refusal :=
  runWord i (fun issue ts s => ts.foldl (fun s t =>
    match thOf s t, wgAt s (wgOf t) with
    | some th, some w => f issue s t th w
    | _, _ => s) s) s

/-- LD (R217). -/
def execLd (d a : Reg) (off : BitVec 16) (sz : Size) (cp : CPol) (sx : Bool) (mo : MemOrder) (s : State) :
    Host.Outcome State Fault Refusal :=
  threadWord (.ld d a off sz cp sx mo) (fun issue s t th w =>
    loadThread issue d sz.regs (acqScope mo) (fun _ => .flat sx) (formFlat s th w a.toNat off sz.bytes .read cp) t th w) s

/-- LD through a buffer record (R213, R217). -/
def execLdRec (d a b : Reg) (off : BitVec 16) (sz : Size) (cp : CPol) (two : Bool) (mo : MemOrder) (s : State) :
    Host.Outcome State Fault Refusal :=
  threadWord (.ldRec d a b off sz cp two mo) (fun issue s t th w =>
    loadThread issue d sz.regs (acqScope mo) (fun p => .element (p.fmt.getD .x32) sz.regs)
      (formRec s th w a.toNat b.toNat two off .load (fun f => sizeOk f sz) .read cp) t th w) s

/-- LDS (R205, R217). -/
def execLds (d a : Reg) (off : BitVec 16) (sz : Size) (sx : Bool) (mo : MemOrder) (s : State) : Host.Outcome State Fault Refusal :=
  threadWord (.lds d a off sz sx mo) (fun issue s t th w =>
    loadThread issue d sz.regs (acqScope mo) (fun _ => .flat sx) (formSpad th w (wgOf t) a.toNat off sz.bytes, s) t th w) s

/-- LDREC (R219). -/
def execLdrec (d a : Reg) (off : BitVec 16) (cp : CPol) (spad : Bool) (mo : MemOrder) (s : State) :
    Host.Outcome State Fault Refusal :=
  threadWord (.ldrec d a off cp spad mo) (fun issue s t th w =>
    loadThread issue d 8 (acqScope mo) (fun _ => .octet)
      (if spad then (formSpad th w (wgOf t) a.toNat off 32, s) else formFlat s th w a.toNat off 32 .read cp) t th w) s

/-! ## Stores (R152, R218) -/

/-- A store held in the region's buffer (R152). -/
def holdStore (s : State) (issue t : Nat) (p : Place) (bs : List Byte) : State :=
  modTh s t fun th =>
    { th with
      region := { th.region with stores := th.region.stores ++ [⟨p.loc, p.va, bs, p.pol, issue, th.span, th.off⟩] } }

/-- A release store on its way: performed at issue, never held (R159). -/
def pushStore (s : State) (issue t : Nat) (th : Thread) (w : Workgroup) (p : Place) (bs : List Byte) : State :=
  let k := freshId s
  let o : Op :=
    { kind := .store bs, core := w.core, wg := wgOf t, launch := w.launch, issue := issue, span := th.span, off := th.off, loc := p.loc,
      n := bs.length, pol := p.pol, parts := [⟨t, th.serial, [], p.va, 0, 0, [], false⟩], acq := none, rel := true, blocking := false,
      phase := .waiting, eng := none, entered := k.2.now, sent := false, reply := none }
  modTh { k.2 with ops := put k.2.ops k.1 o } t fun th => { th with stc := th.stc + 1 }

/-- A store of one thread whose address and data passed: held, or performed as a release; a full buffer commits first, and in a
transaction taints with TX-CAPACITY (R152, R218). -/
def storeAt (s : State) (issue t : Nat) (th : Thread) (w : Workgroup) (p : Place) (bs : List Byte) (rel : Bool) : State :=
  if txRemote s th p then abortWord .illegal false issue s t
  else if rel then pushStore s issue t th w p bs
  else if th.region.stores.length < 32 then holdStore s issue t p bs
  else if th.region.mode = .tx then suppressWith s issue t (.make (why .txCapacity p.va)) []
  else
    let s := commitBefore s issue [t]
    if isInFlight s t then holdStore s issue t p bs else s

/-- A store of one thread (R218): its address is formed first, and a failure suppresses it; then poison of its data does (R153). -/
def storeThread (issue : Nat) (rel : Bool) (data : List RegVal) (form : State → Formed × State) (bytes : Place → List Byte) (s : State)
    (t : Nat) (w : Workgroup) : State :=
  let act (s : State) : State :=
    let f := form s
    match f.1, firstTok data with
    | .fault y, _ => suppressWith f.2 issue t y []
    | _, some k => suppress f.2 t k []
    | .at p, none => match thOf f.2 t with
      | some th => storeAt f.2 issue t th w p (bytes p) rel
      | none => f.2
    | .dropped, none => f.2
  if rel then orUnacked s issue t [] act else act s

/-- ST (R218). -/
def execSt (d a : Reg) (off : BitVec 16) (sz : Size) (cp : CPol) (mo : MemOrder) (s : State) : Host.Outcome State Fault Refusal :=
  threadWord (.st d a off sz cp mo) (fun issue s t th w =>
    let data := readRegs th d.toNat sz.regs
    storeThread issue (isRel mo) data (fun s => formFlat s th w a.toNat off sz.bytes .write cp)
      (fun _ => storeBytes data sz.bytes) s t w) s

/-- ST through a buffer record (R213, R218). -/
def execStRec (d a b : Reg) (off : BitVec 16) (sz : Size) (cp : CPol) (two : Bool) (mo : MemOrder) (s : State) :
    Host.Outcome State Fault Refusal :=
  threadWord (.stRec d a b off sz cp two mo) (fun issue s t th w =>
    let data := readRegs th d.toNat sz.regs
    storeThread issue (isRel mo) data
      (fun s => formRec s th w a.toNat b.toNat two off .store (fun f => sizeOk f sz) .write cp)
      (fun p => elementStore (p.fmt.getD .x32) sz data) s t w) s

/-- STS (R205, R218). -/
def execSts (d a : Reg) (off : BitVec 16) (sz : Size) (mo : MemOrder) (s : State) : Host.Outcome State Fault Refusal :=
  threadWord (.sts d a off sz mo) (fun issue s t th w =>
    let data := readRegs th d.toNat sz.regs
    storeThread issue (isRel mo) data (fun s => (formSpad th w (wgOf t) a.toNat off sz.bytes, s))
      (fun _ => storeBytes data sz.bytes) s t w) s

/-! ## Atomics (R220 to R224) -/

/-- The destination registers of an atomic: D = v0 names none, the pair v0:v1 included (R223; log 104). -/
def atomDsts (d : Reg) (sz : Size) : List (Nat × Nat) := if d = 0 then [] else [(d.toNat, sz.regs)]

/-- A thread's atomic after its checks (R223, R224): suppressed or dropped, or a member of an aggregate at a place. An acquire that fails keeps its
effect (R216). D = v0 names no pair, whether the atomic is performed or not (log 104). -/
def atomThread (issue : Nat) (d : Reg) (sz : Size) (mo : MemOrder) (form : State → Thread → Workgroup → Formed × State)
    (data : Thread → DWord × DWord × List RegVal) (s : State) (t : Nat) : State × Option (Place × Member) :=
  match thOf s t, wgAt s (wgOf t) with
  | some th, some w =>
    let dsts := atomDsts d sz
    let failed (s : State) : State × Option (Place × Member) := (acquireNow s w.core (acqScope mo), none)
    let s := if isRel mo then releaseActs s t else s
    match (if isRel mo then th.unacked else none) with
    | some a => failed (suppressWith s issue t (.make ⟨.remoteUnacked, some a, false, true⟩) dsts)
    | none =>
      let x := data th
      let f := form s th w
      match f.1, firstTok x.2.2 with
        | .fault y, _ => failed (suppressWith f.2 issue t y dsts)
        | _, some k => failed (suppress f.2 t k dsts)
        | .dropped, none => failed (dsts.foldl (fun s d => writeN s t d.1 d.2 (cleanVal 0)) f.2)
        | .at p, none =>
          let s := if heldMeets th p.loc p.n then commitBefore f.2 issue [t] else f.2
          if isInFlight s t then
            (s, some (p, { th := t, serial := th.serial, dst := if d = 0 then [] else List.range' d.toNat sz.regs, va := p.va, d := x.1,
                           e := x.2.1, held := [], tx := false }))
          else (s, none)
  | _, _ => (s, none)

/-- Whether two locations are the same bytes, whatever the modes of their accesses. -/
def sameBytes (x y : Loc) : Bool :=
  match x, y with
  | .spad w a, .spad v b => w = v && a = b
  | .phys a _ _ _, .phys b _ _ _ => a = b
  | _, _ => false

/-- The aggregates of an issue: members that address the same bytes, in order (R223). -/
def addMember (p : Place) (m : Member) : List (Place × List Member) → List (Place × List Member)
  | [] => [(p, [m])]
  | (q, ms) :: r => if sameBytes q.loc p.loc then (q, ms ++ [m]) :: r else (q, ms) :: addMember p m r

/-- The counter that an atomic raises, and its destinations awaiting the result (R28, R223). -/
def countAtom (s : State) (m : Member) : State :=
  modTh s m.th fun th =>
    if m.dst = [] then { th with stc := th.stc + 1 }
    else { th with ldc := th.ldc + 1, pending := th.pending ++ m.dst.filter (· ≠ 0) }

/-- An aggregate on its way to its home. -/
def pushAtom (issue : Nat) (op : AtomOp) (mo : MemOrder) (s : State) (a : Place × List Member) : State :=
  match a.2 with
  | [] => s
  | m :: _ =>
    match thOf s m.th, wgAt s (wgOf m.th) with
    | some th, some w =>
      let k := freshId s
      let o : Op :=
        { kind := .atomic op (decide (a.1.n = 8)), core := w.core, wg := wgOf m.th, launch := w.launch, issue := issue, span := th.span,
          off := th.off, loc := a.1.loc, n := a.1.n, pol := a.1.pol, parts := a.2, acq := acqScope mo, rel := isRel mo,
          blocking := isAcq mo, phase := .waiting, eng := none, entered := k.2.now, sent := false, reply := none }
      a.2.foldl countAtom { k.2 with ops := put k.2.ops k.1 o }
    | _, _ => s

/-- An atomic word: each thread's checks in order, then the aggregates on their way (R223). -/
def atomWord (i : Instr) (d : Reg) (sz : Size) (op : AtomOp) (mo : MemOrder)
    (form : State → Nat → Thread → Workgroup → Formed × State) (data : Thread → DWord × DWord × List RegVal) (s : State) :
    Host.Outcome State Fault Refusal :=
  runWord i (fun issue ts s =>
    let r := ts.foldl (fun (x : State × List (Place × List Member)) t =>
      let y := atomThread issue d sz mo (fun s => form s t) data x.1 t
      match y.2 with
      | some (p, m) => (y.1, addMember p m x.2)
      | none => (y.1, x.2)) (s, [])
    r.2.foldl (pushAtom issue op mo) r.1) s

/-- ATOM (R220 to R224). -/
def execAtom (d a b : Reg) (off : BitVec 16) (sz : Size) (cp : CPol) (op : AtomOp) (mo : MemOrder) (s : State) :
    Host.Outcome State Fault Refusal :=
  atomWord (.atom d a b off sz cp op mo) d sz op mo
    (fun s _ th w => formFlat s th w a.toNat off sz.bytes .atomic cp) (fun th => atomData th b.toNat sz op false) s

/-- ATOM through a buffer record (R220 to R224). -/
def execAtomRec (d a b : Reg) (off : BitVec 16) (sz : Size) (cp : CPol) (op : AtomOp) (mo : MemOrder) (s : State) :
    Host.Outcome State Fault Refusal :=
  atomWord (.atomRec d a b off sz cp op mo) d sz op mo
    (fun s _ th w => formRec s th w a.toNat b.toNat false off .atomic (fun f => atomFmtOk f sz op) .atomic cp)
    (fun th => atomData th b.toNat sz op true) s

/-- ATOMS (R205, R220 to R224). -/
def execAtoms (d a b : Reg) (off : BitVec 16) (sz : Size) (op : AtomOp) (mo : MemOrder) (s : State) :
    Host.Outcome State Fault Refusal :=
  atomWord (.atoms d a b off sz op mo) d sz op mo
    (fun s t th w => (formSpad th w (wgOf t) a.toNat off sz.bytes, s)) (fun th => atomData th b.toNat sz op false) s

/-! ## Prefetch (R225) and WAITCNT (R226) -/

/-- The line of an address brought towards a core, where the access is not one that PREF drops. -/
def prefLine (s : State) (core : Nat) (p : Place) : State :=
  match p.loc with
  | .phys pa mode key part =>
    if !isPkgMem (homeOf s pa) || mode = .uncached || (poisonAt s p.loc 1).isSome then s
    else
      [128 * (pa / 128), 128 * (pa / 128) + 64].foldl (fun s a =>
        let l := Loc.phys a mode key part
        if mode = .selfInv then
          (if polCluster p.pol then (readSelfInv s core l p.pol).2.2 else s)
        else wantFill s core l p.pol) s
  | _ => s

def prefThread (core : Nat) (f : Formed × State) : State :=
  match f.1 with
  | .at p => prefLine f.2 core p
  | _ => f.2

/-- PREF (R225). -/
def execPref (a : Reg) (off : BitVec 16) (cp : CPol) (s : State) : Host.Outcome State Fault Refusal :=
  threadWord (.pref a off cp) (fun _ s _ th w => prefThread w.core (formFlat s th w a.toNat off 1 .read cp)) s

/-- PREF through a buffer record (R225). -/
def execPrefRec (a b : Reg) (off : BitVec 16) (cp : CPol) (two : Bool) (s : State) : Host.Outcome State Fault Refusal :=
  threadWord (.prefRec a b off cp two) (fun _ s _ th w =>
    prefThread w.core (formRec s th w a.toNat b.toNat two off .pref (fun _ => true) .read cp)) s

/-- WAITCNT: once it issues, every named counter is at or below its limit (R226). -/
def execWaitcnt (l st c m : BitVec 8) (s : State) : Host.Outcome State Fault Refusal := runWord (.waitcnt l st c m) (fun _ _ s => s) s

end Sys2Proof.Machine
end

