-- ==== Sys2Proof/Machine/Alu.lean ====
section
/-! DEFINITION. Integer arithmetic, logic, shifts, bit fields, compares and moves of immediates (R99 to R107, R120). -/

namespace Sys2Proof.Machine


/-! ## Integer arithmetic (R99) -/

/-- D := A + B (R99). -/
def execIadd (d a b : Reg) (s : State) : Host.Outcome State Fault Refusal :=
  aluWord (.iadd d a b) (on32 fun x y _ => x + y) s

/-- D := A + B (R99), immediate. -/
def execIaddImm (d a : Reg) (imm : Word) (s : State) : Host.Outcome State Fault Refusal :=
  aluWord (.iaddImm d a imm) (on32 fun x _ _ => x + imm) s

/-- D := A + B (R99), wide. -/
def execIaddW (d a b : Reg) (s : State) : Host.Outcome State Fault Refusal :=
  aluWord (.iaddW d a b) (fun x y _ => x + y) s

/-- D := A + B (R99), wide immediate. -/
def execIaddWImm (d a : Reg) (imm : Word) (s : State) : Host.Outcome State Fault Refusal :=
  aluWord (.iaddWImm d a imm) (fun x _ _ => x + imm.signExtend 64) s

/-- D := A − B (R99). -/
def execIsub (d a b : Reg) (s : State) : Host.Outcome State Fault Refusal :=
  aluWord (.isub d a b) (on32 fun x y _ => x - y) s

/-- D := A − B (R99), wide. -/
def execIsubW (d a b : Reg) (s : State) : Host.Outcome State Fault Refusal :=
  aluWord (.isubW d a b) (fun x y _ => x - y) s

/-- D := low bits of A × B (R99). -/
def execImul (d a b : Reg) (s : State) : Host.Outcome State Fault Refusal :=
  aluWord (.imul d a b) (on32 fun x y _ => x * y) s

/-- D := low bits of A × B (R99), immediate. -/
def execImulImm (d a : Reg) (imm : Word) (s : State) : Host.Outcome State Fault Refusal :=
  aluWord (.imulImm d a imm) (on32 fun x _ _ => x * imm) s

/-- D := low bits of A × B (R99), wide. -/
def execImulW (d a b : Reg) (s : State) : Host.Outcome State Fault Refusal :=
  aluWord (.imulW d a b) (fun x y _ => x * y) s

/-- D := low bits of A × B (R99), wide immediate. -/
def execImulWImm (d a : Reg) (imm : Word) (s : State) : Host.Outcome State Fault Refusal :=
  aluWord (.imulWImm d a imm) (fun x _ _ => x * imm.signExtend 64) s

/-- D := high bits of the exact product (R99). -/
def execImulhi (d a b : Reg) (nat : Bool) (s : State) : Host.Outcome State Fault Refusal :=
  aluWord (.imulhi d a b nat) (on32 fun x y _ => imulhi nat x y) s

/-- D := high bits of the exact product (R99), wide. -/
def execImulhiW (d a b : Reg) (nat : Bool) (s : State) : Host.Outcome State Fault Refusal :=
  aluWord (.imulhiW d a b nat) (fun x y _ => imulhi nat x y) s

/-- D := low bits of A × B + C (R99). -/
def execImad (d a b c : Reg) (s : State) : Host.Outcome State Fault Refusal :=
  aluWord (.imad d a b c) (on32 fun x y z => x * y + z) s

/-- D := low bits of A × B + C (R99), wide. -/
def execImadW (d a b c : Reg) (s : State) : Host.Outcome State Fault Refusal :=
  aluWord (.imadW d a b c) (fun x y z => x * y + z) s

/-- D := the lesser of A and B (R99, R69). -/
def execImin (d a b : Reg) (nat : Bool) (s : State) : Host.Outcome State Fault Refusal :=
  aluWord (.imin d a b nat) (on32 fun x y _ => imin nat x y) s

/-- D := the lesser of A and B (R99, R69), immediate. -/
def execIminImm (d a : Reg) (imm : Word) (nat : Bool) (s : State) : Host.Outcome State Fault Refusal :=
  aluWord (.iminImm d a imm nat) (on32 fun x _ _ => imin nat x imm) s

/-- D := the lesser of A and B (R99, R69), wide. -/
def execIminW (d a b : Reg) (nat : Bool) (s : State) : Host.Outcome State Fault Refusal :=
  aluWord (.iminW d a b nat) (fun x y _ => imin nat x y) s

/-- D := the lesser of A and B (R99, R69), wide immediate. -/
def execIminWImm (d a : Reg) (imm : Word) (nat : Bool) (s : State) : Host.Outcome State Fault Refusal :=
  aluWord (.iminWImm d a imm nat) (fun x _ _ => imin nat x (imm.signExtend 64)) s

/-- D := the greater of A and B (R99, R69). -/
def execImax (d a b : Reg) (nat : Bool) (s : State) : Host.Outcome State Fault Refusal :=
  aluWord (.imax d a b nat) (on32 fun x y _ => imax nat x y) s

/-- D := the greater of A and B (R99, R69), immediate. -/
def execImaxImm (d a : Reg) (imm : Word) (nat : Bool) (s : State) : Host.Outcome State Fault Refusal :=
  aluWord (.imaxImm d a imm nat) (on32 fun x _ _ => imax nat x imm) s

/-- D := the greater of A and B (R99, R69), wide. -/
def execImaxW (d a b : Reg) (nat : Bool) (s : State) : Host.Outcome State Fault Refusal :=
  aluWord (.imaxW d a b nat) (fun x y _ => imax nat x y) s

/-- D := the greater of A and B (R99, R69), wide immediate. -/
def execImaxWImm (d a : Reg) (imm : Word) (nat : Bool) (s : State) : Host.Outcome State Fault Refusal :=
  aluWord (.imaxWImm d a imm nat) (fun x _ _ => imax nat x (imm.signExtend 64)) s

/-- D := −A if A is negative, else A (R99). -/
def execIabs (d a : Reg) (s : State) : Host.Outcome State Fault Refusal :=
  aluWord (.iabs d a) (on32 fun x _ _ => iabs x) s

/-- D := −A if A is negative, else A (R99), wide. -/
def execIabsW (d a : Reg) (s : State) : Host.Outcome State Fault Refusal :=
  aluWord (.iabsW d a) (fun x _ _ => iabs x) s


/-! ## Logic and shifts (R100, R101) -/

/-- D := A and B (R100). -/
def execAnd (d a b : Reg) (s : State) : Host.Outcome State Fault Refusal :=
  aluWord (.and d a b) (on32 fun x y _ => x &&& y) s

/-- D := A and B (R100), immediate. -/
def execAndImm (d a : Reg) (imm : Word) (s : State) : Host.Outcome State Fault Refusal :=
  aluWord (.andImm d a imm) (on32 fun x _ _ => x &&& imm) s

/-- D := A and B (R100), wide. -/
def execAndW (d a b : Reg) (s : State) : Host.Outcome State Fault Refusal :=
  aluWord (.andW d a b) (fun x y _ => x &&& y) s

/-- D := A and B (R100), wide immediate. -/
def execAndWImm (d a : Reg) (imm : Word) (s : State) : Host.Outcome State Fault Refusal :=
  aluWord (.andWImm d a imm) (fun x _ _ => x &&& imm.signExtend 64) s

/-- D := A or B (R100). -/
def execOr (d a b : Reg) (s : State) : Host.Outcome State Fault Refusal :=
  aluWord (.or d a b) (on32 fun x y _ => x ||| y) s

/-- D := A or B (R100), immediate. -/
def execOrImm (d a : Reg) (imm : Word) (s : State) : Host.Outcome State Fault Refusal :=
  aluWord (.orImm d a imm) (on32 fun x _ _ => x ||| imm) s

/-- D := A or B (R100), wide. -/
def execOrW (d a b : Reg) (s : State) : Host.Outcome State Fault Refusal :=
  aluWord (.orW d a b) (fun x y _ => x ||| y) s

/-- D := A or B (R100), wide immediate. -/
def execOrWImm (d a : Reg) (imm : Word) (s : State) : Host.Outcome State Fault Refusal :=
  aluWord (.orWImm d a imm) (fun x _ _ => x ||| imm.signExtend 64) s

/-- D := A xor B (R100). -/
def execXor (d a b : Reg) (s : State) : Host.Outcome State Fault Refusal :=
  aluWord (.xor d a b) (on32 fun x y _ => x ^^^ y) s

/-- D := A xor B (R100), immediate. -/
def execXorImm (d a : Reg) (imm : Word) (s : State) : Host.Outcome State Fault Refusal :=
  aluWord (.xorImm d a imm) (on32 fun x _ _ => x ^^^ imm) s

/-- D := A xor B (R100), wide. -/
def execXorW (d a b : Reg) (s : State) : Host.Outcome State Fault Refusal :=
  aluWord (.xorW d a b) (fun x y _ => x ^^^ y) s

/-- D := A xor B (R100), wide immediate. -/
def execXorWImm (d a : Reg) (imm : Word) (s : State) : Host.Outcome State Fault Refusal :=
  aluWord (.xorWImm d a imm) (fun x _ _ => x ^^^ imm.signExtend 64) s

/-- D := A and not B (R100). -/
def execAndn (d a b : Reg) (s : State) : Host.Outcome State Fault Refusal :=
  aluWord (.andn d a b) (on32 fun x y _ => x &&& ~~~y) s

/-- D := A and not B (R100), wide. -/
def execAndnW (d a b : Reg) (s : State) : Host.Outcome State Fault Refusal :=
  aluWord (.andnW d a b) (fun x y _ => x &&& ~~~y) s

/-- D := A shifted left, zero fill (R100). -/
def execShl (d a b : Reg) (s : State) : Host.Outcome State Fault Refusal :=
  aluWord (.shl d a b) (on32 fun x y _ => shl x y.toNat) s

/-- D := A shifted left, zero fill (R100), immediate count. -/
def execShlImm (d a : Reg) (imm : Word) (s : State) : Host.Outcome State Fault Refusal :=
  aluWord (.shlImm d a imm) (on32 fun x _ _ => shl x imm.toNat) s

/-- D := A shifted left, zero fill (R100), wide. -/
def execShlW (d a b : Reg) (s : State) : Host.Outcome State Fault Refusal :=
  aluWord (.shlW d a b) (fun x y _ => shl x y.toNat) s

/-- D := A shifted left, zero fill (R100), wide, immediate count. -/
def execShlWImm (d a : Reg) (imm : Word) (s : State) : Host.Outcome State Fault Refusal :=
  aluWord (.shlWImm d a imm) (fun x _ _ => shl x imm.toNat) s

/-- D := A shifted right, zero fill (R100). -/
def execShr (d a b : Reg) (s : State) : Host.Outcome State Fault Refusal :=
  aluWord (.shr d a b) (on32 fun x y _ => shr x y.toNat) s

/-- D := A shifted right, zero fill (R100), immediate count. -/
def execShrImm (d a : Reg) (imm : Word) (s : State) : Host.Outcome State Fault Refusal :=
  aluWord (.shrImm d a imm) (on32 fun x _ _ => shr x imm.toNat) s

/-- D := A shifted right, zero fill (R100), wide. -/
def execShrW (d a b : Reg) (s : State) : Host.Outcome State Fault Refusal :=
  aluWord (.shrW d a b) (fun x y _ => shr x y.toNat) s

/-- D := A shifted right, zero fill (R100), wide, immediate count. -/
def execShrWImm (d a : Reg) (imm : Word) (s : State) : Host.Outcome State Fault Refusal :=
  aluWord (.shrWImm d a imm) (fun x _ _ => shr x imm.toNat) s

/-- D := A shifted right, sign fill (R100). -/
def execShra (d a b : Reg) (s : State) : Host.Outcome State Fault Refusal :=
  aluWord (.shra d a b) (on32 fun x y _ => shra x y.toNat) s

/-- D := A shifted right, sign fill (R100), immediate count. -/
def execShraImm (d a : Reg) (imm : Word) (s : State) : Host.Outcome State Fault Refusal :=
  aluWord (.shraImm d a imm) (on32 fun x _ _ => shra x imm.toNat) s

/-- D := A shifted right, sign fill (R100), wide. -/
def execShraW (d a b : Reg) (s : State) : Host.Outcome State Fault Refusal :=
  aluWord (.shraW d a b) (fun x y _ => shra x y.toNat) s

/-- D := A shifted right, sign fill (R100), wide, immediate count. -/
def execShraWImm (d a : Reg) (imm : Word) (s : State) : Host.Outcome State Fault Refusal :=
  aluWord (.shraWImm d a imm) (fun x _ _ => shra x imm.toNat) s

/-- D := A rotated left (R100). -/
def execRotl (d a b : Reg) (s : State) : Host.Outcome State Fault Refusal :=
  aluWord (.rotl d a b) (on32 fun x y _ => rotl x y.toNat) s

/-- D := A rotated left (R100), immediate count. -/
def execRotlImm (d a : Reg) (imm : Word) (s : State) : Host.Outcome State Fault Refusal :=
  aluWord (.rotlImm d a imm) (on32 fun x _ _ => rotl x imm.toNat) s

/-- D := A rotated left (R100), wide. -/
def execRotlW (d a b : Reg) (s : State) : Host.Outcome State Fault Refusal :=
  aluWord (.rotlW d a b) (fun x y _ => rotl x y.toNat) s

/-- D := A rotated left (R100), wide, immediate count. -/
def execRotlWImm (d a : Reg) (imm : Word) (s : State) : Host.Outcome State Fault Refusal :=
  aluWord (.rotlWImm d a imm) (fun x _ _ => rotl x imm.toNat) s

/-- Funnel shift (R101). -/
def execShf (d a b c : Reg) (right : Bool) (s : State) : Host.Outcome State Fault Refusal :=
  aluWord (.shf d a b c right) (on32 fun x y z => shf right x y z.toNat) s

/-- Funnel shift (R101), wide. -/
def execShfW (d a b c : Reg) (right : Bool) (s : State) : Host.Outcome State Fault Refusal :=
  aluWord (.shfW d a b c right) (fun x y z => shf right x y z.toNat) s


/-! ## Bit fields and bytes (R103, R104) -/

/-- Bit field extract (R103). -/
def execBfx (d a b : Reg) (nat : Bool) (s : State) : Host.Outcome State Fault Refusal :=
  aluWord (.bfx d a b nat) (on32 fun x y _ => bfx nat x y) s

/-- Bit field extract (R103), wide. -/
def execBfxW (d a b : Reg) (nat : Bool) (s : State) : Host.Outcome State Fault Refusal :=
  aluWord (.bfxW d a b nat) (fun x y _ => bfx nat x (lo y)) s

/-- Bit field insert (R103). -/
def execBfi (d a b c : Reg) (s : State) : Host.Outcome State Fault Refusal :=
  aluWord (.bfi d a b c) (on32 fun x y z => bfi x y z) s

/-- Bit field insert (R103), wide. -/
def execBfiW (d a b c : Reg) (s : State) : Host.Outcome State Fault Refusal :=
  aluWord (.bfiW d a b c) (fun x y z => bfi x (lo y) z) s

/-- Leading zeros (R103). -/
def execClz (d a : Reg) (s : State) : Host.Outcome State Fault Refusal :=
  aluWord (.clz d a) (on32 fun x _ _ => BitVec.ofNat 32 (clz x)) s

/-- Leading zeros of a pair (R103). -/
def execClzW (d a : Reg) (s : State) : Host.Outcome State Fault Refusal :=
  aluWord (.clzW d a) (fun x _ _ => BitVec.ofNat 64 (clz x)) s

/-- Ones (R103). -/
def execPopc (d a : Reg) (s : State) : Host.Outcome State Fault Refusal :=
  aluWord (.popc d a) (on32 fun x _ _ => BitVec.ofNat 32 (popc x)) s

/-- Ones of a pair (R103). -/
def execPopcW (d a : Reg) (s : State) : Host.Outcome State Fault Refusal :=
  aluWord (.popcW d a) (fun x _ _ => BitVec.ofNat 64 (popc x)) s

/-- Bits reversed (R103). -/
def execBrev (d a : Reg) (s : State) : Host.Outcome State Fault Refusal :=
  aluWord (.brev d a) (on32 fun x _ _ => brev x) s

/-- Bits reversed (R103), wide. -/
def execBrevW (d a : Reg) (s : State) : Host.Outcome State Fault Refusal :=
  aluWord (.brevW d a) (fun x _ _ => brev x) s

/-- Bytes permuted (R104). -/
def execPrmt (d a b c : Reg) (s : State) : Host.Outcome State Fault Refusal :=
  aluWord (.prmt d a b c) (on32 prmt) s

/-- Bytes permuted (R104), wide. -/
def execPrmtW (d a b c : Reg) (s : State) : Host.Outcome State Fault Refusal :=
  aluWord (.prmtW d a b c) (fun x y z => prmtW x y (lo z)) s


/-! ## Compare, address arithmetic, immediates (R105, R107, R120) -/

/-- D := 1 if the condition holds, else 0 (R105). -/
def execIcmp (d a b : Reg) (cc : ICond) (s : State) : Host.Outcome State Fault Refusal :=
  aluWord (.icmp d a b cc) (fun x y _ => predBit (icond cc (lo x) (lo y))) s

/-- D := 1 if the condition holds, else 0 (R105), immediate. -/
def execIcmpImm (d a : Reg) (imm : Word) (cc : ICond) (s : State) : Host.Outcome State Fault Refusal :=
  aluWord (.icmpImm d a imm cc) (fun x _ _ => predBit (icond cc (lo x) imm)) s

/-- D := 1 if the condition holds, else 0 (R105), wide. -/
def execIcmpW (d a b : Reg) (cc : ICond) (s : State) : Host.Outcome State Fault Refusal :=
  aluWord (.icmpW d a b cc) (fun x y _ => predBit (icond cc x y)) s

/-- D := 1 if the condition holds, else 0 (R105), wide immediate. -/
def execIcmpWImm (d a : Reg) (imm : Word) (cc : ICond) (s : State) : Host.Outcome State Fault Refusal :=
  aluWord (.icmpWImm d a imm cc) (fun x _ _ => predBit (icond cc x (imm.signExtend 64))) s

/-- D := A + (B << s) (R107). -/
def execLea (d a b : Reg) (sh : BitVec 3) (s : State) : Host.Outcome State Fault Refusal :=
  aluWord (.lea d a b sh) (on32 fun x y _ => lea x y sh) s

/-- D := A + (Ext(B) << s) (R107). -/
def execLeaW (d a b : Reg) (sh : BitVec 3) (nat : Bool) (s : State) : Host.Outcome State Fault Refusal :=
  aluWord (.leaW d a b sh nat) (fun x y _ => leaW x (lo y) sh nat) s

/-- D := IMM32 (R120). -/
def execMovi (d : Reg) (imm : Word) (s : State) : Host.Outcome State Fault Refusal :=
  aluWord (.movi d imm) (fun _ _ _ => up imm) s

/-- D pair := IMM32 sign-extended (R120). -/
def execMoviW (d : Reg) (imm : Word) (s : State) : Host.Outcome State Fault Refusal :=
  aluWord (.moviW d imm) (fun _ _ _ => imm.signExtend 64) s

end Sys2Proof.Machine
end

