-- ==== Sys2Proof/Machine/Barriers.lean ====
section
/-! DEFINITION. Barrier objects: the object's layout, arrivals, and BARINIT, ARRIVE, WAITPH and TESTPH (R195 to R197, R203). -/

namespace Sys2Proof.Machine

/-- The fields of a barrier object (R195). -/
structure BarObj where
  phase : Bool
  tcount : Nat
  acount : Nat
  tbytes : Nat
  abytes : Nat
  deriving DecidableEq, Repr

def objAt (w : Workgroup) (a : Nat) : BarObj :=
  { phase := phaseBit w a, tcount := leNat (memGetN w.spad (a + 4) 2), acount := leNat (memGetN w.spad (a + 6) 2),
    tbytes := leNat (memGetN w.spad (a + 8) 4), abytes := leNat (memGetN w.spad (a + 12) 4) }

def objBytes (o : BarObj) : List Byte :=
  leBytes 4 (if o.phase then 1 else 0) ++ leBytes 2 o.tcount ++ leBytes 2 o.acount ++ leBytes 4 o.tbytes ++ leBytes 4 o.abytes

/-- An arrival of a count and a byte count (R196). -/
def BarObj.arrive (o : BarObj) (c y : Nat) : BarObj :=
  let ac := min (o.acount + c) 0xFFFF
  let ab := min (o.abytes + y) 0xFFFFFFFF
  if o.tcount ≤ ac && o.tbytes ≤ ab then { o with phase := !o.phase, acount := 0, abytes := 0 }
  else { o with acount := ac, abytes := ab }

/-- An object written. -/
def setObj (s : State) (wg a : Nat) (o : BarObj) : State := writeLoc s false (.spad wg a) (objBytes o)

/-- The scopes of an object's phases after an arrival, which may perform an engine acquire at a scope and may complete the phase (R267, R273). -/
def phaseScopes (x : List Scope × List Scope) (sc : Option Scope) (done : Bool) : List Scope × List Scope :=
  let now := x.1 ++ sc.toList
  if done then ([], now) else (now, x.2)

def noteScopes (w : Workgroup) (a : Nat) (x : List Scope × List Scope) : Workgroup :=
  if x = lookD w.arrScopes a ([], []) then w else { w with arrScopes := put w.arrScopes a x }

/-- An arrival at an object that is not refused (R196), with the scope of the engine acquire that it performs for those who acquire its phase
(R273). -/
def arriveWith (sc : Option Scope) (s : State) (wg a c y : Nat) : State :=
  match wgAt s wg with
  | some w =>
    let o := (objAt w a).arrive c y
    modWg (setObj s wg a o) wg fun x => noteScopes x a (phaseScopes (lookD w.arrScopes a ([], [])) sc (o.phase != (objAt w a).phase))
  | none => s

def arriveAt (s : State) (wg a c y : Nat) : State := arriveWith none s wg a c y

/-- The acquire of a phase's completion: at the word's scope, and at the scope of every arrival of ARRIVEX counted in the phase (R203, R267). -/
def acquirePhase (s : State) (w : Workgroup) (a : Nat) : Option Scope → State
  | none => s
  | some sc => (lookD w.arrScopes a ([], [])).2.foldl (fun s c => dropSelfInv s w.core c) (acquireNow s w.core (some sc))

/-- A thread's operation on the object that an address names: the checks of R197, then the token of a refused object (R195), else the
operation. -/
def barrierThread (issue : Nat) (a : Reg) (operands : List Reg) (dsts : List (Nat × Nat)) (checkObj : Bool)
    (f : State → Nat → Thread → Workgroup → Nat → State) (s : State) (t : Nat) : State :=
  match thOf s t, wgAt s (wgOf t) with
  | some th, some w =>
    match firstTok ((a :: operands).map fun r => readReg th r.toNat) with
    | some k => suppress s t k dsts
    | none =>
      match spadForm th w a.toNat 0 16 with
      | .error e => suppressWith s issue t e dsts
      | .ok x =>
        match (if checkObj then objectRefused w x else none) with
        | some c =>
          let k := threadToken s issue t (why c (BitVec.ofNat 64 x))
          dsts.foldl (fun s d => writeN s t d.1 d.2 (badVal k.2)) k.1
        | none => f s t th w x
  | _, _ => s

/-- BARINIT: the whole object is written (R203). -/
def execBarinit (a b c : Reg) (s : State) : Host.Outcome State Fault Refusal :=
  runWord (.barinit a b c) (fun issue ts s => ts.foldl (barrierThread issue a [b, c] [] false fun s t th _ x =>
    setObj (modWg s (wgOf t) fun w => noteScopes w x ([], [])) (wgOf t) x
      { phase := false, tcount := min (readReg th b.toNat).data.toNat 0xFFFF, acount := 0, tbytes := (readReg th c.toNat).data.toNat,
        abytes := 0 }) s) s

/-- ARRIVE's count (R203). -/
def arriveCount (th : Thread) (b : Reg) : Nat := if b = 0 then 1 else (readReg th b.toNat).data.toNat

/-- ARRIVE: the phase at the arrival, then the arrival (R203). -/
def execArrive (d a b : Reg) (mo : MemOrder) (s : State) : Host.Outcome State Fault Refusal :=
  runWord (.arrive d a b mo) (fun issue ts s => ts.foldl (fun s t =>
    let act (s : State) : State := barrierThread issue a [b] [(d.toNat, 1)] true (fun s t th w x =>
      arriveAt (writeD s t d 1 (cleanVal (predBit (phaseBit w x)))) (wgOf t) x (arriveCount th b) 0) s t
    if isRel mo then orUnacked s issue t [(d.toNat, 1)] act else act s) s) s

/-- WAITPH: the phase that the thread observed, and the acquire (R203). -/
def execWaitph (d a b : Reg) (mo : MemOrder) (s : State) : Host.Outcome State Fault Refusal :=
  runWord (.waitph d a b mo) (fun issue ts s => ts.foldl (barrierThread issue a [b] [(d.toNat, 1)] true fun s t _ w x =>
    acquirePhase (writeD s t d 1 (cleanVal (predBit (phaseBit w x)))) w x (acqScope mo)) s) s

/-- TESTPH: whether the phase differs from the parity; an acquire when it does (R203). -/
def execTestph (d a b : Reg) (mo : MemOrder) (s : State) : Host.Outcome State Fault Refusal :=
  runWord (.testph d a b mo) (fun issue ts s => ts.foldl (barrierThread issue a [b] [(d.toNat, 1)] true fun s t th w x =>
    let p := phaseBit w x != (readReg th b.toNat).data.getLsbD 0
    let s := writeD s t d 1 (cleanVal (predBit p))
    if p then acquirePhase s w x (acqScope mo) else s) s) s

/-! ## Arrivals of engines (R195, R196) -/

/-- A thread's place for a record that an engine makes for it: its lane and index, or lane 0 when it has ended. -/
def engineOrg (s : State) (issue core wg th : Nat) (span : DWord) (off : Nat) : Org :=
  { issue := issue, core := core, wg := wg, span := span, off := off,
    lane := match thOf s th with
      | some x => x.lane
      | none => match wgAt s wg with
        | some w => laneOf w.base w.hdr.width w.hdr.swizzle (idxOf th)
        | none => 0,
    idx := idxOf th }

/-- An arrival of ARRIVEX, which no thread's destination can report: at a refused object it is lost, with an event (R195, R273). -/
def engineArrive (s : State) (o : Org) (launch : Nat) (sc : Option Scope) (a c : Nat) : State :=
  match wgAt s o.wg with
  | none => s
  | some w =>
    match objectRefused w a with
    | some cause =>
      let k := makeToken s o (why cause (BitVec.ofNat 64 a))
      recordEvent k.1 o.wg launch none k.2
    | none => arriveWith sc s o.wg a c 0

end Sys2Proof.Machine
end

