-- ==== Sys2Proof/Machine/Atomics.lean ====
section
/-! DEFINITION. What an atomic computes at its home (R48, R220, R223). -/

namespace Sys2Proof.Machine

/-- The new value of an integer operation on w bits (R220). -/
def atomInt {w : Nat} (op : AtomOp) (m d e : BitVec w) : BitVec w :=
  match op with
  | .add => m + d
  | .min => imin false m d
  | .max => imax false m d
  | .minn => imin true m d
  | .maxn => imax true m d
  | .and => m &&& d
  | .or => m ||| d
  | .xor => m ^^^ d
  | .exch => d
  | .cas => if m = d then e else m
  | .inc => if d.ule m then 0 else m + 1
  | .fadd | .fmin | .fmax => m

/-- The new value that one step of an atomic writes (R220). -/
def atomNew (op : AtomOp) (wide : Bool) (m d e : DWord) : DWord :=
  if wide then atomInt op m d e
  else match op with
    | .fadd => up (fadd .rne (lo m) (lo d))
    | .fmin => up (fmin (lo m) (lo d))
    | .fmax => up (fmax (lo m) (lo d))
    | _ => up (atomInt op (lo m) (lo d) (lo e))

/-- The steps of an aggregate one after another: the value that each step saw, and the last value written (R223). -/
def atomSteps (op : AtomOp) (wide : Bool) (m : DWord) : List (DWord × DWord) → List DWord × DWord
  | [] => ([], m)
  | (d, e) :: r =>
    let x := atomSteps op wide (atomNew op wide m d e) r
    (m :: x.1, x.2)

/-- The chain of partial sums of an fp32 aggregate (R223). -/
def addChain (acc : Word) : List Word → List Word
  | [] => []
  | d :: r =>
    let x := fadd .rne acc d
    x :: addChain x r

/-- The sums S0 to S_last of an fp32 aggregate (R223). -/
def chainSums : List Word → List Word
  | [] => []
  | d :: r => d :: addChain d r

/-- An aggregate on a location: the value that each thread receives, and the value written (R223). -/
def aggregate (op : AtomOp) (wide : Bool) (m : DWord) (ds : List (DWord × DWord)) : List DWord × DWord :=
  match op with
  | .fadd =>
    let sums := chainSums (ds.map fun x => lo x.1)
    ((lo m :: (sums.dropLast.map fun x => fadd .rne (lo m) x)).map up, up (fadd .rne (lo m) (sums.getLastD 0)))
  | _ => atomSteps op wide m ds

/-- Operands of an aggregate in a packet's payload: d and e of each thread in turn. -/
def operandBytes (wide : Bool) (ds : List (DWord × DWord)) : List Byte :=
  let n := if wide then 8 else 4
  ds.flatMap fun x => leBytes n x.1.toNat ++ leBytes n x.2.toNat

/-- The operands that a payload holds, up to so many threads. -/
def operandsOf (wide : Bool) : Nat → List Byte → List (DWord × DWord)
  | 0, _ => []
  | k + 1, bs =>
    let n := if wide then 8 else 4
    if bs = [] then []
    else (BitVec.ofNat 64 (leNat (bs.take n)), BitVec.ofNat 64 (leNat ((bs.drop n).take n))) :: operandsOf wide k (bs.drop (2 * n))

/-- The old values of a reply's payload, one of n bytes for each thread. -/
def oldsOf (n : Nat) : Nat → List Byte → List DWord
  | 0, _ => []
  | k + 1, bs => BitVec.ofNat 64 (leNat (bs.take n)) :: oldsOf n k (bs.drop n)

end Sys2Proof.Machine
end

