-- ==== Sys2Proof/Machine/Late.lean ====
section
/-! DEFINITION. Results and refusals that reach a thread after its word (R28, R96, R155, R166, R223, R224). -/

namespace Sys2Proof.Machine

/-- The end of one thread's part of a store or an atomic: its counter falls, and its destination, if it has one, receives a value (R28). A
thread that has ended receives nothing (R131). -/
def finishMember (s : State) (m : Member) (vs : List RegVal) : State :=
  match liveTh s m.th m.serial with
  | none => s
  | some _ => modTh s m.th fun th => if m.dst = [] then { th with stc := th.stc - 1 } else landLoad th m.dst vs

/-- The lane of a thread, or the lane that its index had in its workgroup. -/
def laneFor (s : State) (wg t : Nat) : Nat :=
  match thOf s t with
  | some x => x.lane
  | none => match wgAt s wg with
    | some w => laneOf w.base w.hdr.width w.hdr.swizzle (idxOf t)
    | none => 0

/-- A late taint's token on its thread: the current region, or the one that restarts from a replay park; for a thread that has exited an event
of its workgroup (R155). -/
def taintLate (s : State) (t serial wg launch : Nat) (tok : Word) : State :=
  match liveTh s t serial with
  | none => recordEvent s wg launch none tok
  | some th =>
    match th.cond with
    | .replay late => setTh s t { th with cond := .replay (late ++ [tok]) }
    | _ => taint s t tok

/-- A refusal reaches its thread: the token is made, the thread is tainted late, and the access is at an end, with poison in a destination that
still waits (R155). The address is the access's. -/
def applyLate (s : State) (x : LateFault) (window : Bool) : State × Word :=
  let o : Org :=
    { issue := x.issue, core := x.core, wg := x.wg, span := x.span, off := x.off, lane := laneFor s x.wg x.th, idx := idxOf x.th }
  let k := makeToken s o ⟨x.cause, some x.va, window, true⟩
  let s := taintLate k.1 x.th x.serial x.wg x.launch k.2
  let m : Member := { th := x.th, serial := x.serial, dst := x.dst, va := x.va, d := 0, e := 0, held := [], tx := false }
  (finishMember s m (List.replicate x.dst.length (.bad k.2)), k.2)

/-- The refusal of a member of an access, in the name of its own workgroup (R146). -/
def lateOf (o : Op) (m : Member) (c : Cause) : LateFault :=
  { th := m.th, serial := m.serial, core := o.core, wg := wgOf m.th, launch := o.launch, issue := o.issue, span := o.span, off := o.off,
    cause := c, va := m.va, dst := m.dst }

/-- A refusal on its way to each thread of an access, which is at an end at its home (R155); an acquire keeps its effect (R216). -/
def refuseOp (s : State) (k : Nat) (o : Op) (c : Cause) : State :=
  let s := match o.acq with
    | some sc => dropSelfInv s o.core sc
    | none => s
  let s := { s with ops := del s.ops k }
  o.parts.foldl (fun s m =>
    let n := freshId s
    { n.2 with late := put n.2.late n.1 (lateOf o m c) }) s

/-- The registers of an atomic's result. -/
def oldRegs (m : Member) (x : DWord) : List RegVal := splitRegs m.dst.length x.toNat

/-- The old values of an atomic delivered to its threads, lowest index first (R223). -/
def deliverOlds (s : State) : List Member → List DWord → State
  | m :: ms, x :: xs => deliverOlds (if m.dst = [] then s else finishMember s m (oldRegs m x)) ms xs
  | _, _ => s

/-- LATE_TAINT: a refusal reaches the core (R155). -/
def execLateTaint (k : Nat) (s : State) : Host.Outcome State Fault Refusal :=
  .next (match look s.late k with
    | none => s
    | some x =>
      let r := applyLate { s with late := del s.late k } x false
      endIssue r.1 x.issue)

end Sys2Proof.Machine
end

