-- ==== Sys2Proof/Machine/Directory.lean ====
section
/-! DEFINITION. The directories of clusters, dies and the package (R277, R291 to R297), the fills that they record, and the replicas of
frozen ranges (R300). Clusters are numbered over the package; an entry of a die names them by their place in the die. -/

namespace Sys2Proof.Machine

/-! ## Sector states (R291): 0 I, 1 S, 2 E, 3 M -/

def shareAll (ss : List Nat) : List Nat := ss.map fun x => if 2 ≤ x then 1 else x

/-- A cluster added to an entry (R294). -/
def DirEntry.add (e : DirEntry) (k : Nat) : DirEntry :=
  if e.coarse then { e with ptrs := if e.ptrs.contains (k / 2) then e.ptrs else e.ptrs ++ [k / 2] }
  else if e.ptrs.contains k then e
  else if e.ptrs.length < 4 then { e with ptrs := e.ptrs ++ [k] }
  else { e with coarse := true, ptrs := (List.range 4).filter fun p => (e.ptrs ++ [k]).any fun j => j / 2 = p }

/-- The entry after a read of a sector by cluster k of the die: an only holder at the home die has it E, otherwise it is S (R291, R294). -/
def DirEntry.read (e : DirEntry) (k sec : Nat) (home : Bool) : DirEntry :=
  if home && !e.coarse && !e.remote && e.ptrs = [k] then
    { e with sstate := e.sstate.set sec (max 2 (e.sstate.getD sec 0)) }
  else
    let e := e.add k
    { e with sstate := (shareAll e.sstate).set sec 1 }

/-- A downgrade sent to the owner of a line, if it is another cluster (R294). -/
def downgradeOwner (s : State) (die line : Nat) (e : DirEntry) (k : Option Nat) : State :=
  match e.owner with
  | some j => if some j = k then s else sendMsg s (.downgrade die (8 * die + j) line)
  | none => s

/-! ## Fills (R208, R277, R300) -/

/-- A tracked copy of a sector installed in the cluster cache, unless it holds one, and, where the policy keeps it, in the core's L1, which the
core vector then names and to which the copy's poison goes (R276, R277). -/
def installTracked (s : State) (f : Fill) : State :=
  let cl := cluOf f.core
  let s :=
    if (look (clusterAt s cl) f.sector).any isTracked then s
    else putCluster (evictSector s cl f.sector) cl f.sector f.pol (filled (.tracked []) [] none)
  let s := if (look (coreAt s f.core).l1 f.sector).any isTracked then s else dropL1 s f.core f.sector
  match look (clusterAt s cl) f.sector with
  | some c => copyUp s f.core f.sector f.pol c
  | none => s

/-- The sectors that a fill brings: its own, and the other of the 128-byte line unless the cluster cache holds that one (R420). -/
def fillSectors (s : State) (f : Fill) : List Nat :=
  if (look (clusterAt s (cluOf f.core)) (otherSector f.sector)).isSome then [f.sector] else [otherSector f.sector, f.sector]

/-- A fill of a tracked page installed: the other sector of its line in the cluster cache alone (R277, R420). -/
def installFill (s : State) (f : Fill) : State :=
  let cl := cluOf f.core
  let o := otherSector f.sector
  installTracked
    (if (look (clusterAt s cl) o).isSome then s else putCluster s cl o f.pol (filled (.tracked []) [] none)) f

/-- A fill of a frozen line installed, as replicas (R300, R420). -/
def installFrozen (s : State) (f : Fill) : State :=
  installReplica (if polCluster f.pol then installReplica s f.core (otherSector f.sector) .skipl1 else s) f.core f.sector f.pol

/-- The fills of a cluster that one read event serves: those of its cores for sectors of the line of 128 bytes that is missing (R420, R422). -/
def oneEvent (s : State) (cl : Nat) (f : Fill) : List Fill := s.fills.filter fun g => cluOf g.core = cl && g.sector / 2 = f.sector / 2

/-- The fills of one read event installed: the first brings the sectors, and the others find them in the cluster cache. -/
def installEvent (s : State) (first : State → Fill → State) : List Fill → State
  | [] => s
  | f :: fs => fs.foldl (fun s g => if (look (clusterAt s (cluOf g.core)) g.sector).any isTracked then installTracked s g else first s g) (first s f)

/-- Whether the set of a line in a directory of so many sets of 16 ways is full without it (R292, R293). -/
def setFull (ks : List Nat) (set : Nat → Nat) (sets line : Nat) : Bool :=
  decide (16 ≤ ks.length) && !ks.contains line && decide (16 ≤ (ks.filter fun k => set k % sets = set line % sets).length)

/-- Whether a die directory, and the package directory, has no way left for a line: 524,288 and 1,048,576 entries in 16 ways (R292, R293). A read
waits until a recall frees one. -/
def dirFull (s : State) (die line : Nat) : Bool := setFull ((lookD s.dirs die []).map (·.1)) Config.dirSet 32768 line
def pkgFull (s : State) (line : Nat) : Bool := setFull (s.pkgDir.map (·.1)) Config.pkgSet 65536 line

def fillsOf (s : State) (cl line : Nat) : List Fill := s.fills.filter fun f => cluOf f.core = cl && f.sector / 4 = line

/-- An entry after a cluster's read of sectors of its line (R294, R420). -/
def DirEntry.reads (e : DirEntry) (k : Nat) (secs : List Nat) (home : Bool) : DirEntry := secs.foldl (fun e x => e.read k (x % 4) home) e

/-- A read of the home die's directory by a cluster of the die (R294). -/
def dirReadHome (s : State) (die line k : Nat) (secs : List Nat) : State :=
  match dirAt s die line with
  | none => setDir s die line ((newEntry k 0 0).reads k secs true)
  | some e => setDir (downgradeOwner s die line e (some k)) die line (e.reads k secs true)

/-- A read of another die's directory by a cluster of it (R294). -/
def dirReadAway (s : State) (die line k : Nat) (secs : List Nat) : State :=
  setDir s die line (((dirAt s die line).getD (newEntry k 0 0)).reads k secs false)

def noticeInFlight (s : State) (cl line : Nat) : Bool :=
  s.msgs.any fun p => match p.2 with
    | .notice _ c l => c = cl && l = line
    | _ => false

def pkgReadInFlight (s : State) (die line : Nat) : Bool :=
  s.msgs.any fun p => match p.2 with
    | .pkgRead d _ l => d = die && l = line
    | _ => false

/-- DIR_READ: a cluster's fill reaches its die directory with every sector that it misses of the 128-byte line (R294, R420); a line of a frozen range
is granted as a replica (R300). A read waits for a write, a recall, or an earlier message of its cluster about the line (R296, R297). -/
def execDirRead (cl line : Nat) (s : State) : Host.Outcome State Fault Refusal :=
  .next (match fillsOf s cl line with
    | [] => s
    | f :: _ =>
      let die := cl / 8
      let home := homeDie s (256 * line)
      let fs := oneEvent s cl f
      let done := { s with fills := s.fills.filter fun g => !fs.contains g }
      let secs := fillSectors s f
      if (look (clusterAt s cl) f.sector).any isTracked then installTracked { s with fills := s.fills.erase f } f
      else if lineBusy s die line || noticeInFlight s cl line || pkgReadInFlight s die line || dirFull s die line then s
      else if frozenNow s (64 * f.sector) then installEvent (recordDie done (64 * f.sector) die) installFrozen fs
        else if die = home then installEvent (dirReadHome done die line (cl % 8) secs) installFill fs
        else if (dirAt s die line).isSome then installEvent (dirReadAway done die line (cl % 8) secs) installFill fs
        else sendMsg (dirReadAway s die line (cl % 8) secs) (.pkgRead die cl line))

/-! ## Clusters (R277, R297) -/

/-- CLUSTER_EVICTION: a full set of a cluster cache gives up its line of the lowest priority, of those the least recently used (R276, R277; log
107). -/
def execClusterEviction (cl line : Nat) (s : State) : Host.Outcome State Fault Refusal :=
  .next (if evictable s cl line then evictLine s cl line else s)

/-- CLUSTER_INVALIDATION: the cluster drops its copies of the line and acknowledges, whether it held any or not (R277, R296). -/
def execClusterInvalidation (m : Nat) (s : State) : Host.Outcome State Fault Refusal :=
  .next (match takeMsg s m with
    | some (.inval die cl line forOp keep, s) =>
      sendMsg ((List.range' (4 * line) 4).foldl (fun s sec => dropTracked s cl sec keep) s) (.ack die line forOp)
    | _ => s)

/-- CLUSTER_DOWNGRADE: the owner's copy is shared from now on, which it acknowledges; the data at the home is current (R291, R294, R297). -/
def execClusterDowngrade (m : Nat) (s : State) : Host.Outcome State Fault Refusal :=
  .next (match takeMsg s m with
    | some (.downgrade die _ line, s) => sendMsg s (.downAck die line)
    | _ => s)

/-! ## Die directories (R294) -/

/-- DIR_NOTICE (R294, R297). -/
def execDirNotice (m : Nat) (s : State) : Host.Outcome State Fault Refusal :=
  .next (match takeMsg s m with
    | some (.notice die cl line, s) =>
      match dirAt s die line with
      | none => s
      | some e =>
        if e.coarse || !e.ptrs.contains (cl % 8) || entryBusy (some e) then s
        else
          let e := { e with ptrs := e.ptrs.filter (· ≠ cl % 8) }
          if e.ptrs ≠ [] then setDir s die line e
          else if die = homeDie s (256 * line) then (if e.remote then setDir s die line { e with sstate := shareAll e.sstate } else freeDir s die line)
          else sendMsg (freeDir s die line) (.pkgNotice die line)
    | _ => s)

/-- Invalidations of a line sent to clusters of a die, for an access or for the die's own recall (R294). -/
def invalidateClusters (s : State) (die line : Nat) (ks : List Nat) (forOp keep : Option Nat) : State :=
  ks.foldl (fun s k => sendMsg s (.inval die (8 * die + k) line forOp keep)) s

/-- DIR_PKG_INVALIDATION: an invalidation from the package directory; acknowledged when every named cluster has acknowledged (R294). It
waits for a recall of the line. -/
def execDirPkgInvalidation (m : Nat) (s : State) : Host.Outcome State Fault Refusal :=
  .next (match look s.msgs m with
    | some (.dieInval die line) =>
      if !inOrder s m (.dieInval die line) || entryBusy (dirAt s die line) then s
      else
        let t := { s with msgs := del s.msgs m }
        match dirAt t die line with
        | none => sendMsg t (.dieAck die line)
        | some e =>
          if e.named = [] then sendMsg (freeDir t die line) (.dieAck die line)
          else setDir (invalidateClusters t die line e.named none none) die line { e with waiting := e.named.length }
    | _ => s)

/-- DIR_RECALL: a capacity eviction of a directory entry; a fill of the line on its way is installed first (R294, R297). -/
def execDirRecall (die line : Nat) (s : State) : Host.Outcome State Fault Refusal :=
  .next (match dirAt s die line with
    | none => s
    | some e =>
      if lineCounting s line || entryBusy (some e) || pkgReadInFlight s die line then s
      else
        let t := invalidateClusters s die line e.named none none
        let t := if die = homeDie s (256 * line) then t else sendMsg t (.pkgNotice die line)
        let t := if e.remote then sendMsg t (.pkgInval line none die) else t
        let n := e.named.length + if e.remote then 1 else 0
        if n = 0 then freeDir t die line else setDir t die line { e with waiting := n, recalling := true })

/-! ## The package directory (R295) -/

/-- REMOTE cleared at the home die, whose entry is freed if it names no cluster (R294, R295). -/
def clearRemote (s : State) (line : Nat) : State :=
  let d := homeDie s (256 * line)
  match dirAt s d line with
  | some e => if e.named = [] && !entryBusy (some e) then freeDir s d line else setDir s d line { e with remote := false }
  | none => s

/-- The home die's directory on a read from another die (R294). -/
def homeRemoteRead (s : State) (line : Nat) (secs : List Nat) : State :=
  let d := homeDie s (256 * line)
  let mark (ss : List Nat) : List Nat := secs.foldl (fun ss k => ss.set k 1) (shareAll ss)
  match dirAt s d line with
  | none => setDir s d line { newEntry 0 0 0 with ptrs := [], sstate := mark [0, 0, 0, 0], remote := true }
  | some e => setDir (downgradeOwner s d line e none) d line { e with sstate := mark e.sstate, remote := true }

/-- PKG_DIR_READ: a die's read of a line homed on another die; the fill of its cluster is made, and the die's entry names the cluster (R292, R294,
R295). -/
def execPkgDirRead (m : Nat) (s : State) : Host.Outcome State Fault Refusal :=
  .next (match look s.msgs m with
    | some (.pkgRead die cl line) =>
      if !inOrder s m (.pkgRead die cl line) || lineBusy s (homeDie s (256 * line)) line || pkgFull s line
          || dirFull s (homeDie s (256 * line)) line || dirFull s die line then s
      else
        let fs := (fillsOf s cl line).take 1 |>.flatMap (oneEvent s cl)
        let secs := ((fs.take 1).flatMap (fillSectors s)).map (· % 4)
        let t := { s with msgs := del s.msgs m, fills := s.fills.filter fun f => !fs.contains f }
        let e : PkgEntry := (look t.pkgDir line).getD ⟨[0, 0, 0, 0], [], 0, none, false⟩
        let e := { e with
          sstate := secs.foldl (fun ss k => ss.set k 1) e.sstate, dvec := if e.dvec.contains die then e.dvec else e.dvec ++ [die] }
        let t := homeRemoteRead { t with pkgDir := put t.pkgDir line e } line secs
        installEvent (if fs = [] then t else dirReadAway t die line (cl % 8) secs) installFill fs
    | _ => s)

/-- The home's count or recall receives the package directory's one acknowledgement, and the entry is gone (R295). -/
def pkgFinish (s : State) (line : Nat) (e : PkgEntry) : State :=
  let t := clearRemote { s with pkgDir := del s.pkgDir line } line
  if e.recalling then t else sendMsg t (.ack (homeDie s (256 * line)) line e.forOp)

/-- PKG_DIR_INVALIDATION: the home's one invalidation, forwarded to every die of DVEC (R295). -/
def execPkgDirInvalidation (m : Nat) (s : State) : Host.Outcome State Fault Refusal :=
  .next (match look s.msgs m with
    | some (.pkgInval line forOp die) =>
      if !inOrder s m (.pkgInval line forOp die) || pkgBusy s line then s
      else
        let t := { s with msgs := del s.msgs m }
        let e : PkgEntry := (look t.pkgDir line).getD ⟨[0, 0, 0, 0], [], 0, none, false⟩
        let e := { e with forOp := forOp }
        if e.dvec = [] then pkgFinish t line e
        else
          let t := e.dvec.foldl (fun s d => sendMsg s (.dieInval d line)) t
          { t with pkgDir := put t.pkgDir line { e with waiting := e.dvec.length } }
    | _ => s)

/-- PKG_DIR_NOTICE (R295). -/
def execPkgDirNotice (m : Nat) (s : State) : Host.Outcome State Fault Refusal :=
  .next (match takeMsg s m with
    | some (.pkgNotice die line, s) =>
      match look s.pkgDir line with
      | none => s
      | some e =>
        if !e.dvec.contains die then s
        else
          let e := { e with dvec := e.dvec.filter (· ≠ die) }
          if e.dvec = [] && e.waiting = 0 then clearRemote { s with pkgDir := del s.pkgDir line } line
          else { s with pkgDir := put s.pkgDir line e }
    | _ => s)

/-- PKG_DIR_RECALL: a capacity eviction of the package directory (R295). -/
def execPkgDirRecall (line : Nat) (s : State) : Host.Outcome State Fault Refusal :=
  .next (match look s.pkgDir line with
    | none => s
    | some e =>
      if lineCounting s line || pkgBusy s line then s
      else
        let t := e.dvec.foldl (fun s d => sendMsg s (.dieInval d line)) s
        { t with pkgDir := put t.pkgDir line { e with waiting := e.dvec.length, recalling := true, forOp := none } })

/-! ## A write at the home (R294, R296) -/

/-- The invalidations that a write sends from the home die's directory, and the entry rewritten: their number, and the state (R294, R420). The
entry of a line that a cluster of another die writes is freed with the last acknowledgement. -/
def dirWrite (s : State) (pa core k : Nat) : Nat × State :=
  let line := pa / 256
  let sec := pa / 64 % 4
  let d := homeDie s pa
  let cl := cluOf core
  match dirAt s d line with
  | none => (0, s)
  | some e =>
    let own := cl % 8
    if cl / 8 = d && ownsSector e own sec then (0, setDir s d line { e with sstate := e.sstate.set sec 3 })
    else
      let targets := e.named.filter fun j => !(cl / 8 = d && j = own)
      let t := invalidateClusters s d line targets (some k) (some core)
      let t := if e.remote then sendMsg t (.pkgInval line (some k) d) else t
      let n := targets.length + if e.remote then 1 else 0
      if cl / 8 ≠ d then (n, t)
      else
        let t := dropOthers t cl line (pa / 64)
        (n, if (look (clusterAt s cl) (pa / 64)).any isTracked then setDir t d line (newEntry own sec 3) else freeDir t d line)

end Sys2Proof.Machine
end

