-- ==== Sys2Proof/Machine/Forks.lean ====
section
/-! DEFINITION. How FORK's increment, JOIN's read and the decrement of a retiring task end (R281, R344, R346, R347). -/

namespace Sys2Proof.Machine

/-- Whether an access is a FORK of a core whose increment is under way, or performed and not yet acknowledged: its task has a place kept for it
(R281, R346). -/
def forkUnderWay (core : Nat) (o : Op) : Bool :=
  o.core = core && match o.kind with
    | .fork _ => o.sent || o.phase ≠ .waiting
    | .forked .. => true
    | _ => false

/-- Whether a core's deque has room for one task more (R281). -/
def dequeRoom (s : State) (core : Nat) : Bool :=
  decide ((coreAt s core).deque.length + (s.ops.filter fun p => forkUnderWay core p.2).length
    + (s.acks.filter fun p => forkUnderWay core p.2).length < 64)

/-- Whether an operation on a deque may still come in this cycle: the owner's comes first, then the steals in ascending order of their cores in the
die; 0 stands for the owner, 1 + c for core c (R283). -/
def takeDue (s : State) (deque who : Nat) : Bool :=
  match (coreAt s deque).lastTake with
  | some (c, x) => !(c = s.now && decide (who < x))
  | none => true

/-- A task pushed at the head of a core's deque: an operation of its owner (R281, R283). -/
def pushTask (s : State) (core : Nat) (t : Task) : State :=
  modCore s core fun c => { c with deque := t :: c.deque, lastTake := some (s.now, 0) }

/-- FORK's status in the destination of a thread that is still there. -/
def forkStatus (s : State) (m : Member) (v : Val) : State :=
  match liveTh s m.th m.serial with
  | some th => setTh s m.th (setEach th m.dst (resultRegs m.dst.length v))
  | none => s

/-- Whether a launch still takes tasks: it has not been aborted (R352). -/
def launchLive (s : State) (l : Nat) : Bool :=
  match look s.launches l with
  | some x => !x.aborted
  | none => true

/-- The increment is performed: the task is pushed, status 0 (R346). -/
def forkDone (s : State) (o : Op) (task : Task) : State :=
  o.parts.foldl (fun s m => forkStatus s m (cleanVal 0)) (if launchLive s task.launch then pushTask s o.core task else s)

/-- The deque is full: nothing is pushed, status 1 (R346). -/
def forkFull (s : State) (o : Op) : State := o.parts.foldl (fun s m => forkStatus s m (cleanVal 1)) s

/-- The increment is refused or meets poison: a late taint, the token in D, nothing pushed (R346). -/
def forkRefused (s : State) (o : Op) (c : Cause) : State :=
  o.parts.foldl (fun s m =>
    let org : Org :=
      { issue := o.issue, core := o.core, wg := o.wg, span := o.span, off := o.off, lane := laneFor s o.wg m.th, idx := idxOf m.th }
    let k := makeToken s org ⟨c, some m.va, false, true⟩
    forkStatus (taintLate k.1 m.th m.serial o.wg o.launch k.2) m (badVal k.2)) s

/-- JOIN's counter reads zero: an acquire at .die, and status 0 (R347). -/
def joinZero (s : State) (o : Op) : State := dropSelfInv (o.parts.foldl (fun s m => forkStatus s m (cleanVal 0)) s) o.core .die

/-- JOIN's read fails: the wait is suppressed, the region tainted, and the token in D (R347). -/
def joinFailed (s : State) (o : Op) (c : Cause) : State :=
  o.parts.foldl (fun s m =>
    let org : Org :=
      { issue := o.issue, core := o.core, wg := o.wg, span := o.span, off := o.off, lane := laneFor s o.wg m.th, idx := idxOf m.th }
    let k := makeToken s org ⟨c, some m.va, false, false⟩
    forkStatus (taintLate k.1 m.th m.serial o.wg o.launch k.2) m (badVal k.2)) s

/-- The decrement of a retired task is refused or meets poison: a LAUNCH event of its launch (R344). -/
def joinRefused (s : State) (o : Op) (va : DWord) (c : Cause) : State :=
  let org : Org := { issue := o.issue, core := o.core, wg := o.wg, span := o.span, off := o.off, lane := 0, idx := 0 }
  let k := makeToken s org ⟨c, some va, false, true⟩
  recordEvent k.1 o.wg o.launch (some 52) k.2

end Sys2Proof.Machine
end

