-- ==== Sys2Proof/Machine/Fabric.lean ====
section
/-! DEFINITION. The source side of the fabric: flows, requests and their retries, and what a reply or its want does to an access (R319, R392
to R402, R407). -/

namespace Sys2Proof.Machine

/-- Core cycles in so many microseconds (R3). -/
def us (n : Nat) : Nat := 3000 * n

/-! ## Ports and switches -/

/-- A port is down when it runs fewer than 4 lanes (R387). -/
def planeUp (s : State) (p : Nat) : Bool := decide (4 ≤ lookD s.ports p 0)

/-- Whether some plane that leads to a destination is up (R396). Scale-out ports are taken as up (log 17). -/
def destUp (s : State) : Dest → Bool
  | .dev _ => (List.range 16).any (planeUp s)
  | .switch p _ => planeUp s p
  | .peer _ => true

def swKey (plane sw : Nat) : Nat := 64 * plane + sw
def switchAt (s : State) (k : Nat) : Switch := lookD s.switches k Switch.reset
def modSwitch (s : State) (k : Nat) (f : Switch → Switch) : State := { s with switches := put s.switches k (f (switchAt s k)) }

/-- Whether n bytes of a bank lie in an allocation of a tenant (R405). -/
def inAlloc (a : SwAlloc) (ftid addr n : Nat) : Bool :=
  a.ftid = ftid && decide (a.first ≤ addr / 65536) && decide ((addr + n - 1) / 65536 < a.first + a.count)

/-- The allocation of a tenant that holds n bytes of a bank for those who name the switch itself, or the primary in whose place it stands: an
allocation's address names its primary (R405, R406). -/
def allocOf (x : Switch) (named : Option Nat) (ftid addr n : Nat) : Option SwAlloc :=
  x.allocs.find? fun a => a.mirrorOf = named && inAlloc a ftid addr n

/-- The switch that serves n bytes of switch memory named by a primary: the primary, or, where it does not hold the allocation, the mirror
that does; none when the switch is lost with its contents (R406, R407). -/
def routeSwitch (s : State) (plane sw ftid addr n : Nat) : Option Nat :=
  let k := swKey plane sw
  let p := switchAt s k
  if !p.lost && (allocOf p none ftid addr n).isSome then some k
  else match s.switches.find? fun q => !q.2.lost && (allocOf q.2 (some k) ftid addr n).isSome with
    | some q => some q.1
    | none => if p.lost then none else some k

/-- The primary that an access names, where another switch serves it. -/
def namedBy (primary k : Nat) : Option Nat := if k = primary then none else some primary

/-! ## Flows and requests (R393 to R396) -/

def flowAt (s : State) (f : FlowKey) : SrcFlow := (s.flows.find? fun x => x.key = f).getD ⟨f, 1, false, []⟩

def setFlow (s : State) (x : SrcFlow) : State := { s with flows := x :: s.flows.filter fun y => y.key ≠ x.key }

def delReq (s : State) (k : Nat) : State := { s with reqs := del s.reqs k }

/-- Requests of a flow that have been sent and have no reply (R395). -/
def unreplied (s : State) (f : FlowKey) : Nat := (s.reqs.filter fun p => p.2.flow = f && p.2.firstAt.isSome).length

/-- A packet put on its way, on a plane that is up. -/
def emit (s : State) (pkt : Packet) : State :=
  if destUp s pkt.dest then { s with net := s.net ++ [{ pkt with born := s.now }] } else s

/-- Whether what was sent at a cycle has an AGE past 50 µs, at which a switch discards it (R388; log 56). -/
def tooOld (s : State) (born : Nat) : Bool := decide (born + us 50 < s.now)

/-- Whether the loss notice of a device has arrived, after which nothing is sent to it (R400). -/
def deadDest (s : State) : Dest → Bool
  | .dev n => s.noticed.contains (.dev n)
  | _ => false

/-- The packet as it leaves now: to the switch that serves its allocation (R407). -/
def routed (s : State) (pkt : Packet) : Packet :=
  match pkt.dest with
  | .switch p sw => match routeSwitch s p sw pkt.ftid pkt.addr (max 1 pkt.len) with
    | some k => { pkt with dest := .switch (k / 64) (k % 64), named := namedBy (swKey p sw) k }
    | none => pkt
  | _ => pkt

/-- The key of a partition and a peer (R375). -/
def fabKeyOf (s : State) (part : Nat) (peer : Dest) : Nat := ((s.fabKeys.find? fun x => x.1 = (part, peer)).map (·.2)).getD 0

/-- A request sent for the first time: it takes the next SEQ of its flow (R395). -/
def sendFirst (s : State) (k : Nat) (r : SrcReq) : State :=
  let f := flowAt s r.flow
  let pkt := { r.pkt with seq := f.next }
  let s := setFlow s { f with next := f.next + 1 }
  let s := { s with reqs := put s.reqs k { r with seq := f.next, pkt := pkt, firstAt := some s.now, lastAt := s.now, attempts := 1 } }
  emit s (routed s pkt)

/-- A request sent again (R396). -/
def resend (s : State) (k : Nat) (r : SrcReq) (attempts : Nat) (first : Option Nat) : State :=
  let r := { r with firstAt := first, lastAt := s.now, attempts := attempts, busy := false, queued := false }
  emit { s with reqs := put s.reqs k r } (routed s r.pkt)

/-- The requests of a flow that wait unsent leave in order, while the flow is not frozen and fewer than 64 have no reply (R395). -/
def pump (s : State) (f : FlowKey) : State :=
  (s.reqs.filter fun p => p.2.flow = f && p.2.firstAt.isNone).foldl (fun s (k, r) =>
    if (flowAt s f).frozen || deadDest s f.dest || 64 ≤ unreplied s f then s else sendFirst s k r) s

/-- A request given to its flow. -/
def queueReq (s : State) (f : FlowKey) (owner : ReqOwner) (pkt : Packet) : State :=
  let k := freshId s
  let r : SrcReq := { flow := f, seq := 0, owner := owner, pkt := pkt, firstAt := none, lastAt := 0, attempts := 0, busy := false, queued := false }
  pump { k.2 with reqs := put k.2.reqs k.1 r } f

/-! ## What becomes of an access -/

def opAt (s : State) (k : Nat) : Option Op :=
  match look s.ops k with
  | some o => some o
  | none => look s.acks k

def delOp (s : State) (k : Nat) : State := { s with ops := del s.ops k, acks := del s.acks k }

/-- A record of cause REMOTE-FAULT that a flow made, for its resolution (R402). -/
def noteFlowRec (s : State) (f : Option FlowKey) (core : Nat) (tok : Word) : State :=
  match f with
  | none => s
  | some f =>
    let x := flowAt s f
    let r := (core, tokIndex tok, (tokGen tok).toNat)
    if x.recs.contains r then s else setFlow s { x with recs := x.recs ++ [r] }

/-- The token of a refused load of a live thread, made when the reply arrives (R401). -/
def faultLoad (s : State) (o : Op) (form : LoadForm) (f : Option FlowKey) (c : Cause) (m : Member) : State :=
  let s := match liveTh s m.th m.serial with
    | some th =>
      let k := makeToken s (orgOp o m.th th) (why c m.va)
      if c = .remoteFault then noteFlowRec k.1 f o.core k.2 else k.1
    | none => s
  deliverLoad s o form m [] (some c)

/-- A late taint of a refused store or atomic (R401). -/
def faultWrite (s : State) (o : Op) (f : Option FlowKey) (c : Cause) (m : Member) : State :=
  let k := applyLate s (lateOf o m c) false
  if c = .remoteFault then noteFlowRec k.1 f o.core k.2 else k.1

/-- The event of an operation that has one of a row, after another of a row: that of the lower row, or else the earlier one (R242). -/
def firstRow (x : Option (Nat × Word)) (row : Nat) (tok : Word) : Nat × Word :=
  match x with
  | some y => if row < y.1 then (row, tok) else y
  | none => (row, tok)

/-- The first poison of an engine operation's writes is the event that it records (R166, R242, R268). -/
def engineEvent (s : State) (core : Nat) (e : Engine × Nat) (row : Nat) (tok : Word) : State :=
  match e.1 with
  | .matrix => modCore s core fun c => { c with mxq := alter c.mxq e.2 fun x => { x with event := some (firstRow x.event row tok) } }
  | .copy => modCore s core fun c => { c with cpq := alter c.cpq e.2 fun x => { x with events := x.events ++ [(none, tok)] } }
  | _ => s

/-- The thread whose operation an engine entry is. -/
def engineThread (s : State) (core : Nat) (e : Engine × Nat) : Nat :=
  match e.1 with
  | .matrix => ((look (coreAt s core).mxq e.2).map (·.th)).getD 0
  | _ => ((look (coreAt s core).cpq e.2).map (·.th)).getD 0

/-- A token of an engine's access, made for its operation (R146). -/
def engineToken (s : State) (o : Op) (va : DWord) (c : Cause) (write : Bool) : State × Word :=
  let t := match o.eng with
    | some e => engineThread s o.core e
    | none => 0
  makeToken s { issue := o.issue, core := o.core, wg := o.wg, span := o.span, off := o.off, lane := laneFor s o.wg t, idx := idxOf t }
    ⟨c, some va, false, write⟩

/-- The row of a DRAIN that an access writes. -/
def rowOf (o : Op) : Nat :=
  match o.kind with
  | .engineWrite _ _ _ row => row
  | _ => 0

/-- Whether an access writes a part of the row of a DRAIN that another writes a part of (R242). -/
def sameRow (o p : Op) : Bool :=
  p.core = o.core && p.eng = o.eng && rowOf p = rowOf o && match o.kind, o.eng, p.kind with
    | .engineWrite .., some (.matrix, _), .engineWrite .. => true
    | _, _, _ => false

/-- The parts of a row of which a part is refused that are not written yet and stay unwritten (R242; log 81). -/
def dropRow (s : State) (o : Op) : State :=
  (s.ops.filter fun p => sameRow o p.2 && p.2.phase = .waiting && (!p.2.sent || !remoteOp s p.2)).foldl (fun s (j, p) =>
    endIssue (delOp s j) p.issue) s

/-- A write of an engine refused: the event of its operation, if it is the first (R242, R268). -/
def engineRefused (s : State) (o : Op) (f : Option FlowKey) (va : DWord) (c : Cause) : State :=
  let k := engineToken s o va c true
  let s := if c = .remoteFault then noteFlowRec k.1 f o.core k.2 else k.1
  match o.eng with
  | some e => engineEvent s o.core e (rowOf o) k.2
  | none => s

/-- What the matrix engine has fetched of a sector at a fabric address. -/
def engineGot (s : State) (o : Op) (va : DWord) (bs : List Byte) (c : Option (Cause × Option FlowKey)) : State :=
  match o.eng with
  | some (.matrix, j) =>
    modCore s o.core fun x => { x with mxq := alter x.mxq j fun e => { e with fetched := put e.fetched (va.toNat / 64) (bs, c) } }
  | _ => s

/-- A fetch of the matrix engine refused: the token is made when an element of the sector is read, with the element's address (R240). -/
def engineMissed (s : State) (o : Op) (f : Option FlowKey) (va : DWord) (c : Cause) : State :=
  engineGot s o va (List.replicate o.n 0#8) (some (c, f))

/-- A member whose old value has been delivered stays only for its acknowledgement; one without a destination lowers STC (R28). -/
def ackMember (s : State) (m : Member) : State := if m.dst = [] then finishMember s m [] else s

/-- The acquire of an access that is performed. -/
def opAcquire (s : State) (o : Op) : State :=
  match o.acq with
  | some sc => dropSelfInv s o.core sc
  | none => s

/-- The old values that the threads of an aggregate receive from a remote home (R223): for .fadd the home answers with its one old value. -/
def remoteOlds (op : AtomOp) (wide : Bool) (o : Op) (bs : List Byte) : List DWord :=
  let ds := o.parts.map fun m => (m.d, m.e)
  match op with
  | .fadd => (aggregate .fadd wide (BitVec.ofNat 64 (leNat (bs.take 4))) ds).1
  | _ => oldsOf (if wide then 8 else 4) ds.length bs

/-- The cause that a reply to a counter's atomic reports, if it was refused or met poison. -/
def replyCause : RemoteReply → Option Cause
  | .data _ p _ => p
  | .done => none
  | .fault c => some c

/-- JOIN's read to be made again: it enters its flow anew (R347, R421). -/
def readAgain (s : State) (k : Nat) : State := modOp s k fun o => { o with entered := s.now, sent := false }

/-- A fabric access at its end: its reply acts on its threads, and it is no longer outstanding (R395, R399, R401). -/
def finishRemote (s : State) (k : Nat) (o : Op) (f : Option FlowKey) (r : RemoteReply) : State :=
  match o.kind, replyCause r with
  | .fork task, none =>
    if takeDue s o.core 0 then endIssue (delOp (forkDone s o task) k) o.issue
    else { delOp s k with acks := put s.acks k { o with kind := .forked task [], phase := .performed s.perfCtr } }
  | .fork _, some c => endIssue (delOp (forkRefused s o c) k) o.issue
  | .joinDec va, some c => endIssue (delOp (joinRefused s o va c) k) o.issue
  | .joinRead, some c => endIssue (delOp (joinFailed s o c) k) o.issue
  | .joinRead, none =>
    match r with
    | .data bs _ _ =>
      if leNat bs = 0 then endIssue (delOp (joinZero s o) k) o.issue else readAgain s k
    | _ => readAgain s k
  | .engineRead va, _ =>
    endIssue (match r with
      | .data bs p _ => engineGot (delOp s k) o va bs (p.map fun c => (c, none))
      | .done => engineGot (delOp s k) o va (List.replicate o.n 0#8) none
      | .fault c => engineMissed (delOp s k) o f va c) o.issue
  | .engineWrite va .., some c => endIssue (dropRow (engineRefused (delOp s k) o f va c) o) o.issue
  | _, _ =>
  let s := match o.kind, r with
    | .load form, .data bs p _ => opAcquire (o.parts.foldl (fun s m => deliverLoad s o form m bs p) s) o
    | .load form, .fault c => opAcquire (o.parts.foldl (faultLoad · o form f c) s) o
    | .load form, .done => opAcquire (o.parts.foldl (fun s m => deliverLoad s o form m (List.replicate o.n 0#8) none) s) o
    | .atomic op wide, .data bs none _ =>
      opAcquire (o.parts.foldl ackMember (deliverOlds s o.parts (remoteOlds op wide o bs))) o
    | .atomic _ _, .data _ (some c) _ => opAcquire (o.parts.foldl (faultWrite · o f c) s) o
    | .atomic _ _, .fault c => opAcquire (o.parts.foldl (faultWrite · o f c) s) o
    | _, .fault c => o.parts.foldl (faultWrite · o f c) s
    | _, _ => o.parts.foldl ackMember s
  endIssue (delOp s k) o.issue

/-- A request left unanswered (R396): a load receives poison; a store stays unacknowledged; an atomic does so too, and taints late. -/
def unansweredOp (s : State) (k : Nat) (o : Op) : State :=
  match o.kind with
  | .load form =>
    let s := opAcquire (o.parts.foldl (faultLoad · o form none .remoteUnacked) s) o
    endIssue (delOp s k) o.issue
  | .atomic .. =>
    let s := o.parts.foldl (fun s m =>
      if m.dst = [] then
        let org : Org :=
          { issue := o.issue, core := o.core, wg := o.wg, span := o.span, off := o.off, lane := laneFor s o.wg m.th, idx := idxOf m.th }
        let t := makeToken s org ⟨.remoteUnacked, some m.va, false, true⟩
        taintLate t.1 m.th m.serial o.wg o.launch t.2
      else faultWrite s o none .remoteUnacked m) s
    let s := opAcquire s o
    { s with ops := del s.ops k, acks := put s.acks k { o with kind := .store [], blocking := false } }
  | .fork _ => endIssue (delOp (forkRefused s o .remoteUnacked) k) o.issue
  | .joinDec va => endIssue (delOp (joinRefused s o va .remoteUnacked) k) o.issue
  | .joinRead => endIssue (delOp (joinFailed s o .remoteUnacked) k) o.issue
  | .engineRead va => endIssue (engineMissed (delOp s k) o none va .remoteUnacked) o.issue
  | .engineWrite va .. => endIssue (engineRefused (delOp s k) o none va .remoteUnacked) o.issue
  | _ => { s with ops := del s.ops k, acks := put s.acks k o }

/-! ## Sending an access (R392 to R394, R399) -/

/-- The packet of an access. -/
def packetOf (s : State) (o : Op) (ftid part : Nat) (d : Dest) (addr : Nat) : Packet :=
  let base : Packet :=
    { ftid := ftid, sdev := s.pkg, score := o.core, dest := d, stream := (slotPart s o.wg).1 % 16, seq := 0, ord := false, op := .load,
      addr := addr, endpoint := none, len := o.n, bytes := [], poison := [], cause := .ecc, key := fabKeyOf s part d, fromPeer := none,
      named := none, born := 0 }
  match o.kind with
  | .load _ => base
  | .store bs => { base with op := .store, bytes := bs }
  | .engineWrite _ bs p _ =>
    { base with op := .store, bytes := bs, poison := if p.isSome then [true] else [], cause := p.getD .ecc }
  | .atomic op wide =>
    let ds := o.parts.map fun m => (m.d, m.e)
    let ds := if op = .fadd then [(up ((chainSums (ds.map fun x => lo x.1)).getLastD 0), 0)] else ds
    { base with op := .atomic op wide (ds.headD (0, 0)).1 (ds.headD (0, 0)).2, bytes := operandBytes wide ds }
  | .fork _ => { base with op := .atomic .add true 1 0, bytes := operandBytes true [(1, 0)] }
  | .joinDec _ => { base with op := .atomic .add true (-1) 0, bytes := operandBytes true [(-1, 0)] }
  | .joinRead | .engineRead _ | .forked .. => base

/-- The flow of an access to the fabric (R393). -/
def opFlow (s : State) (o : Op) : Option FlowKey :=
  match locHome s o.loc with
  | .device n _ => some ⟨o.core, .dev n, (slotPart s o.wg).1 % 16⟩
  | .switch p sw _ => some ⟨o.core, .switch p sw, (slotPart s o.wg).1 % 16⟩
  | _ => none

/-- Whether an access is still to take its place in its flow. A load of a saved thread enters at the restore (R354). -/
def toEnter (s : State) (o : Op) : Bool :=
  !o.sent && o.reply.isNone && match o.kind with
    | .load _ => !allHeld o && !(wgAt s o.wg).any (·.saved)
    | .joinRead | .engineRead _ => !(wgAt s o.wg).any (·.saved)
    | _ => true

/-- The thread whose request an access is: that of its lowest member, or of its engine's operation. -/
def leadOf (s : State) (o : Op) : Nat :=
  match o.parts.head?, o.eng with
  | some m, _ => m.th
  | none, some e => engineThread s o.core e
  | none, none => 2048 * o.wg

/-- Whether of two requests, each given by its cycle, its thread and its number, the first enters a flow before the second: those of one cycle enter in
ascending logical index, those of a thread in program order (R421). -/
def entersBefore (s : State) (x y : Nat × Nat × Nat) : Bool :=
  decide (x.1 < y.1)
    || x.1 = y.1 && (before s x.2.1 y.2.1 || !before s y.2.1 x.2.1 && decide (x.2.2 < y.2.2))

/-- The destination of a transfer's flow (R393), and the flow. -/
def xferDest (d : XferDesc) : Dest := if d.dkind = 2 then .peer d.ddev else .dev d.ddev
def xferFlow (x : Xfer) : FlowKey := ⟨x.core, xferDest x.desc, x.desc.stream⟩

/-- Packets of a transfer: it is cut at 256-byte boundaries of its destination address (R412). -/
def packetCount (d : XferDesc) : Nat := (d.daddr + d.bytes - 1) / 256 - d.daddr / 256 + 1

/-- Whether it is a request's turn in its flow: the cycle in which it entered is over, and none that entered before it, of an access or of a running
transfer, is still to be sent (R421). -/
def flowTurn (s : State) (f : FlowKey) (x : Nat × Nat × Nat) : Bool :=
  decide (x.1 < s.now)
    && !(s.ops.any fun (j, p) => toEnter s p && opFlow s p = some f && entersBefore s (p.entered, leadOf s p, j) x)
    && !(s.xfers.any fun (_, y) =>
      y.running && xferFlow y = f && decide (y.sent < packetCount y.desc) && entersBefore s (y.entered, y.th, y.entry) x)

/-- A fabric access leaves its core, in its flow's order of entry (R421): refused at once for a partition without a tenant identifier (R392), unanswered at once for a lost device
(R400), refused with SWM-LOST for a lost switch (R407), else a request of its flow. -/
def sendRemote (s : State) (k : Nat) (o : Op) : State :=
  match o.loc with
  | .spad _ _ => s
  | .phys pa _ _ part =>
    let ftid := (partAt s part).pftid
    let go (d : Dest) (addr : Nat) : State :=
      let f : FlowKey := ⟨o.core, d, (slotPart s o.wg).1 % 16⟩
      if flowTurn s f (o.entered, leadOf s o, k) then queueReq (modOp s k fun o => { o with sent := true }) f (.op k) (packetOf s o ftid part d addr) else s
    if ftid = 0 then finishRemote s k o none (.fault .remoteFault)
    else match homeOf s pa with
      | .device n off => if s.noticed.contains (.dev n) then unansweredOp s k o else go (.dev n) off
      | .switch p sw off =>
        if s.noticed.contains (.switch p sw) && (routeSwitch s p sw ftid off o.n).isNone then finishRemote s k o none (.fault .swmLost)
        else go (.switch p sw) off
      | _ => s

/-! ## Replies, retries and the flow's state (R395, R396, R401, R402) -/

/-- The end of a transfer's packet: its number is done, and the first fault is the transfer's event (R413). -/
def packetDone (s : State) (x packet : Nat) (f : Option FlowKey) (c : Option Cause) : State :=
  match look s.xfers x with
  | none => s
  | some t =>
    let r : State × Option Word := match c with
      | none => (s, none)
      | some c =>
        let first := t.desc.daddr
        let a := if packet = 0 then first else first / 256 * 256 + 256 * packet
        let o : Org :=
          { issue := t.issue, core := t.core, wg := t.wg, span := t.span, off := t.off, lane := laneFor s t.wg t.th, idx := idxOf t.th }
        let k := makeToken s o (why c (BitVec.ofNat 64 a))
        (if c = .remoteFault then noteFlowRec k.1 f t.core k.2 else k.1, some k.2)
    { r.1 with xfers := put r.1.xfers x { t with
        done := if t.done.contains packet then t.done else t.done ++ [packet],
        event := match t.event with
          | some e => some e
          | none => r.2 } }

/-- The fault queue entry of a status write that faulted (R337). -/
def statusFault (s : State) (part : Nat) (va : DWord) (y : Why) : State :=
  let r : PoisonRec :=
    { PoisonRec.zero with faddr := va, part := BitVec.ofNat 4 part, status := stFinal, cause := causeCode y.cause }
  modPart s part fun p => { p with faultWait := p.faultWait ++ [faultEntry r 0xFF 0 y.window true] }

/-- A request at its end with a reply. -/
def replied (s : State) (k : Nat) (r : SrcReq) (x : RemoteReply) : State :=
  let s := delReq s k
  let s := match r.owner with
    | .op j => match opAt s j with
      | some o => finishRemote s j o (some r.flow) x
      | none => s
    | .xfer j n => packetDone s j n (some r.flow) (match x with
      | .fault c => some c
      | _ => none)
    | .dropped => s
    | .status part va => (match x with
      | .fault c => statusFault s part va ⟨c, some va, false, true⟩
      | _ => s)
  pump s r.flow

/-- A request left unanswered (R396): an access's write stays with its request, which a later answer may still end. -/
def unanswered (s : State) (k : Nat) (r : SrcReq) : State :=
  match r.owner with
  | .op j => match look s.ops j with
    | some o =>
      let s := unansweredOp s j o
      if (opAt s j).isNone then pump (delReq s k) r.flow else s
    | none => s
  | .dropped => pump (delReq s k) r.flow
  | .status part va => pump (statusFault (delReq s k) part va ⟨.remoteUnacked, some va, false, true⟩) r.flow
  | .xfer j n => pump (packetDone (delReq s k) j n none (some .remoteUnacked)) r.flow

/-- Whether a release of a thread of an access waits since later than a request's first attempt, so that its write is sent again (R319). -/
def releaseWaits (s : State) (r : SrcReq) : Bool :=
  match r.owner with
  | .op j => match look s.acks j with
    | some o => o.parts.any fun m => match liveTh s m.th m.serial with
      | some th => match th.relSince, r.firstAt with
        | some c, some f => decide (f < c)
        | _, _ => false
      | none => false
    | none => false
  | .xfer .. | .dropped | .status .. => false

/-- Whether a request waits for the restore of its threads: a saved atomic, or FORK's increment, whose result is still to come (R354). -/
def reqSaved (s : State) (r : SrcReq) : Bool :=
  match r.owner with
  | .op j => match look s.ops j with
    | some o => (match wgAt s o.wg with
        | some w => w.saved
        | none => false)
      && (match o.kind with
        | .atomic .. => o.parts.any fun m => m.dst ≠ []
        | .fork _ => true
        | _ => false)
    | none => false
  | _ => false

/-- FABRIC_RETRY: a request without a reply for 50 µs is sent again, up to four attempts, and is then unanswered; while its flow is frozen no attempt
is counted (R319, R396). -/
def execFabricRetry (k : Nat) (s : State) : Host.Outcome State Fault Refusal :=
  .next (match look s.reqs k with
    | none => s
    | some r =>
      if r.firstAt.isNone || r.busy || r.queued || reqSaved s r || s.now < r.lastAt + us 50 then s
      else if (flowAt s r.flow).frozen then resend s k r r.attempts r.firstAt
      else if r.attempts < 4 then resend s k r (r.attempts + 1) r.firstAt
      else if releaseWaits s r then resend s k r 1 (some s.now)
      else unanswered s k r)

/-- XFER_BUSY_RETRY: a packet answered BUSY is sent again every 10 µs (R413). -/
def execXferBusyRetry (k : Nat) (s : State) : Host.Outcome State Fault Refusal :=
  .next (match look s.reqs k with
    | none => s
    | some r => if r.busy && decide (r.lastAt + us 10 ≤ s.now) then resend s k r 1 (some s.now) else s)

/-- A reply to a request acts (R395, R396, R401). -/
def replyActs (s : State) (k : Nat) (r : SrcReq) : ReplyBody → State
  | .done bs p grant => match r.pkt.op with
    | .load | .atomic .. => replied s k r (.data bs p grant)
    | _ => replied s k r .done
  | .fault c link freezes =>
    if link && c = .ecc then (if r.attempts < 4 then resend s k r (r.attempts + 1) r.firstAt else unanswered s k r)
    else
      let s := if freezes then setFlow s { flowAt s r.flow with frozen := true } else s
      replied s k r (.fault c)
  | .frozen =>
    let s := setFlow s { flowAt s r.flow with frozen := true }
    { s with reqs := put s.reqs k { r with queued := true } }
  | .busy => { s with reqs := put s.reqs k { r with busy := true, lastAt := s.now } }

/-- Whether a reply is the FAULT of cause ECC that a link makes: it comes from no destination and is sealed under no key (R396). -/
def fromLink : ReplyBody → Bool
  | .fault .ecc true _ => true
  | _ => false

def isSwitchDest : Dest → Bool
  | .switch .. => true
  | _ => false

/-- FABRIC_REPLY: a reply reaches its source (R395). A switch's reply is one that the switch has sent, but for a link's FAULT. One whose tag fails,
because it is sealed under another key, is dropped (R375), and so is one that is too old (R388). -/
def execFabricReply (r : Reply) (s : State) : Host.Outcome State Fault Refusal :=
  .next (
    let sent := s.netReplies.contains r
    if tooOld s r.born || (isSwitchDest r.flow.dest && !sent && !fromLink r.body) then s
    else
      let t := { s with netReplies := s.netReplies.erase r }
      match t.reqs.find? fun p => p.2.flow = r.flow && p.2.seq = r.seq && p.2.firstAt.isSome with
      | some (k, q) => if reqSaved t q || (r.key ≠ q.pkt.key && !fromLink r.body) then t else replyActs t k q r.body
      | none => t)

/-- The records that a flow made take a status, where they are still PENDING (R402). -/
def resolveRecs (s : State) (rs : List (Nat × Nat × Nat)) (st : Byte) : State :=
  rs.foldl (fun s (c, i, g) =>
    let r := recAt s c i
    if r.gen.toNat = g && r.status = stPending then setRec s c i { r with status := st } else s) s

/-- FLOW_RESUME_MESSAGE: the flow's records are SERVICED, and its queued requests leave in order (R402). -/
def execFlowResumeMessage (f : FlowKey) (s : State) : Host.Outcome State Fault Refusal :=
  .next (
    let x := flowAt s f
    if !x.frozen then s
    else
      let t := setFlow (resolveRecs s x.recs stServiced) { x with frozen := false, recs := [] }
      let t := (t.reqs.filter fun p => p.2.flow = f && p.2.queued).foldl (fun s (k, r) => resend s k r 1 (some s.now)) t
      pump t f)

/-- FLOW_ABORT_MESSAGE: the flow's records are REFUSED, and its queued requests complete as if refused with REMOTE-FAULT (R402). -/
def execFlowAbortMessage (f : FlowKey) (s : State) : Host.Outcome State Fault Refusal :=
  .next (
    let x := flowAt s f
    if !x.frozen then s
    else
      let t := setFlow (resolveRecs s x.recs stRefused) { x with frozen := true, recs := [] }
      let t := (t.reqs.filter fun p => p.2.flow = f && (p.2.queued || p.2.firstAt.isNone)).foldl (fun s (k, r) =>
        replied s k r (.fault .remoteFault)) t
      setFlow t { flowAt t f with frozen := false, recs := [] })

/-- The first write of a thread to the fabric that is not acknowledged (R319). -/
def firstUnacked (s : State) (t : Nat) (th : Thread) : Option DWord :=
  let find (m : NMap Op) : Option (Nat × DWord) :=
    m.findSome? fun (k, o) => if ownedBy o t th.serial && !isLoad o && remoteOp s o then (o.parts.head?).map fun m => (k, m.va) else none
  match find s.acks, find s.ops with
  | some a, some b => some (if a.1 < b.1 then a.2 else b.2)
  | some a, none => some a.2
  | none, b => b.map (·.2)

/-- REMOTE_UNACKED_BOUND: 200 µs after a waiting release first issued, a fabric write is still unacknowledged (R319). -/
def execRemoteUnackedBound (th : Nat) (s : State) : Host.Outcome State Fault Refusal :=
  .next (match thOf s th with
    | none => s
    | some x =>
      match x.relSince with
      | some c =>
        if c + us 200 ≤ s.now then
          match firstUnacked s th x with
          | some a => setTh s th { x with unacked := some a }
          | none => s
        else s
      | none => s)

/-! ## Losses (R387, R388, R400, R407) -/

/-- A packet on its way vanishes, or, where it is not on its way, the reply to it. -/
def losePacket (s : State) (pkt : Packet) : State :=
  if s.net.contains pkt then { s with net := s.net.erase pkt }
  else
    match s.netReplies.find? fun r => r.flow.core = pkt.score && r.flow.stream = pkt.stream && r.seq = pkt.seq with
    | some r => { s with netReplies := s.netReplies.erase r }
    | none => s

/-- PACKET_AGE_DISCARD: a packet whose AGE passes 50 µs is discarded; one that is past it is delivered no more (R388). -/
def execPacketAgeDiscard (pkt : Packet) (s : State) : Host.Outcome State Fault Refusal :=
  .next (if s.net.contains pkt && tooOld s pkt.born then { s with net := s.net.erase pkt } else s)

/-- FRAME_FEC_DROP: a frame that fails FEC is dropped whole, no link replays it, and the error counts as the link's (R381, R387). -/
def execFrameFecDrop (pkt : Packet) (s : State) : Host.Outcome State Fault Refusal := .next (countUncorrected (losePacket s pkt) structLinks)

/-- DEVICE_LOST: a device's ports have been down in all planes for 100 µs (R400). -/
def execDeviceLost (n : Nat) (s : State) : Host.Outcome State Fault Refusal :=
  .next (if n ≤ 1025 && n ≠ s.pkg && !s.lostDevs.contains n then { s with lostDevs := s.lostDevs ++ [n] } else s)

/-- SWITCH_LOST: a switch has answered on none of its links for 100 µs; its memory never returns (R407). -/
def execSwitchLost (plane sw : Nat) (s : State) : Host.Outcome State Fault Refusal :=
  .next (if plane < 16 && sw ≤ 56 then
    modSwitch s (swKey plane sw) fun x => { x with lost := true, mem := [], poison := [], allocs := [], flows := [] } else s)

/-- The key under which the reply to a request of this device is sealed: the request's (R375). -/
def replyKey (s : State) (f : FlowKey) (seq : Nat) : Nat :=
  ((s.reqs.find? fun p => p.2.flow = f && p.2.seq = seq && p.2.firstAt.isSome).map (·.2.pkt.key)).getD 0

/-- A destination's reply: to this device it is on its way, to another device or a peer it leaves the model. -/
def sendReply (s : State) (own : Bool) (f : FlowKey) (seq : Nat) (b : ReplyBody) : State :=
  if own then { s with netReplies := s.netReplies ++ [⟨f, seq, b, replyKey s f seq, s.now⟩] } else s

/-- The state of a flow refreshed at a reply to it: its source has the reply 50 µs later at the latest (R388, R397). -/
def refreshed (now : Nat) (is : DstFlow → Bool) (fs : List DstFlow) : List DstFlow :=
  fs.map fun x => if is x then { x with lastAck := now + us 50 } else x

/-- Updates to a lost mirror count as acknowledged, and its primaries go on unmirrored (R407). -/
def lostMirror (s : State) (k : Nat) : State :=
  let s := (s.mirrorUpds.filter fun p => p.2.mirror = k).foldl (fun s (i, u) =>
    sendReply { s with mirrorUpds := del s.mirrorUpds i } (u.sdev = s.pkg) ⟨u.score, .switch (u.primary / 64) (u.primary % 64), u.stream⟩ u.seq u.reply) s
  { s with switches := s.switches.map fun (j, x) =>
      (j, { x with allocs := x.allocs.map fun a => match a.mirror with
        | some m => if swKey m.1 m.2 = k then { a with mirror := none } else a
        | none => a }) }

/-- LINK_LANE_FAILURE: a port that is up retrains to 4 lanes, or is down (R387); a device with no link up is not joined (R386). -/
def execLinkLaneFailure (plane lanes : Nat) (s : State) : Host.Outcome State Fault Refusal :=
  .next (if plane < 16 && planeUp s plane then
    let t := { s with ports := put s.ports plane (if 4 ≤ lanes then 4 else 0) }
    { t with joined := s.joined && (List.range 16).any (planeUp t) } else s)

/-- The device number of a write whose source has left the fabric. -/
def noDevice : Nat := 2047

/-- A device that joins starts every flow afresh (R386, R400): the destinations' state of its flows is gone, and so are its packets and replies on
their way; a request without a reply is unanswered; one not sent yet leaves under the new number (log 116). -/
def startAfresh (s : State) (n : Nat) : State :=
  let t := { s with
    joined := true, pkg := n, flows := [], dstFlows := [], net := [], netReplies := [],
    reqs := s.reqs.map fun p => (p.1, { p.2 with pkt := { p.2.pkt with sdev := n } })
    switches := s.switches.map fun p => (p.1, { p.2 with flows := p.2.flows.filter fun x => x.sdev ≠ n })
    mirrorUpds := s.mirrorUpds.map fun p => (p.1, if p.2.sdev = n || p.2.sdev = s.pkg then { p.2 with sdev := noDevice } else p.2) }
  let t := (s.reqs.filter (·.2.firstAt.isSome)).foldl (fun s (k, r) => delReq (unanswered s k r) k) t
  t.reqs.foldl (fun s p => pump s p.2.flow) t

/-- A lost device that trains again: it is lost no more, and every flow from it and to it starts afresh; a request to it without a reply is unanswered
(R400; log 116). -/
def peerAfresh (s : State) (n : Nat) : State :=
  let t := { s with
    lostDevs := s.lostDevs.filter (· ≠ n), noticed := s.noticed.filter fun d => d ≠ .dev n
    dstFlows := s.dstFlows.filter fun x => x.home ≠ 0 || x.sdev ≠ n
    flows := s.flows.filter fun x => x.key.dest ≠ .dev n
    net := s.net.filter fun p => p.dest ≠ .dev n
    switches := s.switches.map fun p => (p.1, { p.2 with flows := p.2.flows.filter fun x => x.sdev ≠ n })
    mirrorUpds := s.mirrorUpds.map fun p => (p.1, if p.2.sdev = n then { p.2 with sdev := noDevice } else p.2) }
  let t := (s.reqs.filter fun p => p.2.flow.dest = .dev n && p.2.firstAt.isSome).foldl (fun s (k, r) => delReq (unanswered s k r) k) t
  t.reqs.foldl (fun s p => if p.2.flow.dest = .dev n then pump s p.2.flow else s) t

/-- LINK_TRAINED: a port of this device runs its 8 lanes, and a device that was not joined receives its number and starts every flow afresh; of another
number, a device that was lost has trained again (R386, R387, R400). -/
def execLinkTrained (plane n : Nat) (s : State) : Host.Outcome State Fault Refusal :=
  .next (if plane < 16 && n ≤ 1025 && s.power = .on then
    let t := { s with ports := put s.ports plane 8 }
    if !s.joined then startAfresh t n
    else if n = s.pkg then t
    else if s.lostDevs.contains n then peerAfresh s n else s else s)

/-- SWITCH_REJOIN: a lost switch serves allocations made from now on (R407). -/
def execSwitchRejoin (plane sw : Nat) (s : State) : Host.Outcome State Fault Refusal :=
  .next (if (switchAt s (swKey plane sw)).lost then
    { modSwitch s (swKey plane sw) (fun x => { x with lost := false }) with noticed := s.noticed.filter fun d => d ≠ .switch plane sw } else s)

end Sys2Proof.Machine
end

