-- ==== Sys2Proof/Machine/Interrupts.lean ====
section
/-! DEFINITION. What the hub does for a partition: its writes to memory, its interrupts (R373), and the delivery of fault and service queue
entries to their rings (R366, R368, R371). -/

namespace Sys2Proof.Machine

/-! ## The hub's accesses -/

/-- Translation of an address by the hub, in a partition's address space (R328, R335). -/
def hubTranslate (s : State) (part : Nat) (va : DWord) (acc : AccKind) : Except Why Loc × State :=
  if !canonical va then (.error (why .noncanon va), s)
  else
    let p := partAt s part
    let r := walk s part p.proot va.toNat
    match r.1 with
    | .error f => (.error ⟨f.cause, some va, f.window, acc = .write⟩, r.2)
    | .ok (e, level) =>
      if permits e acc then
        let pa := pteAddr e true + va.toNat % leafSize level
        (.ok (.phys pa (accessMode s e pa 0) (keyOf p pa) part), r.2)
      else (.error ⟨.perm, some va, false, acc = .write⟩, r.2)

/-- Bytes that the hub writes: whole sectors are cleaned (R150), and tracked copies are gone with the write (R294). -/
def hubWrite (s : State) (l : Loc) (bs : List Byte) : State :=
  let s := writeLoc s true l bs
  let s := { s with perfCtr := s.perfCtr + 1 }
  match l with
  | .phys pa _ _ _ => invalidateLines s pa bs.length
  | .spad _ _ => s

/-! ## Interrupts (R373) -/

/-- Sources of PIRQ. -/
def irqFault : Nat := 0
def irqService : Nat := 1
def irqLaunch : Nat := 2
def irqSaved : Nat := 3
def irqFloor : Nat := 4
def irqMcheck : Nat := 5

/-- A PIRQ bit set: the write of PINTDATA to PINTADDR when the bit rises with its enable set (R373). -/
def raiseIrq (s : State) (part k : Nat) : State :=
  let p := partAt s part
  if p.pirq.getLsbD k then s
  else
    let t := modPart s part fun p => { p with pirq := p.pirq ||| BitVec.ofNat 6 (2 ^ k) }
    if p.pirqen.getLsbD k then { t with intWrites := t.intWrites ++ [(p.pintaddr, p.pintdata)] } else t

/-! ## Rings (R364, R366, R368, R371) -/

/-- Entries of a ring, and the address of the ring, from FQBASE or SQBASE (R364). -/
def ringEntries (base : DWord) : Nat := 2 ^ ((base.extractLsb' 0 4).toNat + 6)
def ringAddr (base : DWord) : Nat := 4096 * (base.extractLsb' 12 40).toNat

/-- Whether the hub writes at a location of this package: its memory, or a granule of scratchpad that is carved (R356, R367). -/
def hubReaches (s : State) (l : Loc) : Bool :=
  match locHome s l with
  | .pinned c g => (coreAt s c).carve.getLsbD g
  | h => isPkgMem h

/-- Where the next entry of a ring goes: nowhere while the ring is full or unusable (R364, R366), while its place cannot be written (log 19), or
while a write to its lines still counts acknowledgements (R296). -/
def ringSlot (s : State) (p : Partition) (part : Nat) (base : DWord) (head tail size : Nat) : Option Loc :=
  let n := ringEntries base
  let a := ringAddr base + size * (tail % n)
  let l := Loc.phys a .uncached (keyOf p a) part
  if (tail + 2 ^ 32 - head) % 2 ^ 32 = n || !inWindows p (ringAddr base) (size * n) || !hubReaches s l || locFrozen s l size || linesBusy s a size then none
  else some l

/-- FAULT_QUEUE_DELIVER: the oldest waiting entry of a partition enters its fault queue ring (R368). -/
def execFaultQueueDeliver (part : Nat) (s : State) : Host.Outcome State Fault Refusal :=
  .next (
    let p := partAt s part
    match p.faultWait with
    | [] => s
    | e :: r =>
      match ringSlot s p part p.fqbase p.fqhead p.fqtail 64 with
      | none => s
      | some l =>
        let t := hubWrite s l (leBytes 64 e.toNat)
        raiseIrq (modPart t part fun p => { p with faultWait := r, fqtail := (p.fqtail + 1) % 2 ^ 32 }) part irqFault)

/-- SERVICE_QUEUE_DELIVER: the oldest waiting request enters the service queue ring (R371). -/
def execServiceQueueDeliver (part : Nat) (s : State) : Host.Outcome State Fault Refusal :=
  .next (
    let p := partAt s part
    match p.serviceWait with
    | [] => s
    | e :: r =>
      match ringSlot s p part p.sqbase p.sqhead p.sqtail 128 with
      | none => s
      | some l =>
        let t := hubWrite s l (leBytes 128 e.toNat)
        raiseIrq (modPart t part fun p => { p with serviceWait := r, sqtail := (p.sqtail + 1) % 2 ^ 32 }) part irqService)

end Sys2Proof.Machine
end

