-- ==== Sys2Proof/Machine/Switches.lean ====
section
/-! DEFINITION. Switch memory: its accesses, its mirrors, and SWALLOC and SWFREE (R386, R391, R403 to R407, R414, R415). -/

namespace Sys2Proof.Machine

/-! ## Accesses at a switch (R403, R405) -/

/-- Bytes written in a switch's banks; a poisoned sector keeps its poison (R150, R403). -/
def swWrite (s : State) (k addr : Nat) (bs : List Byte) : State :=
  modSwitch s k fun x =>
    let r := writeSectors false x.mem x.poison addr bs bs.length
    { x with mem := r.1, poison := r.2 }

/-- A request's payload of up to one sector written in a switch's banks, poisoned or clean (R150, R394, R405). -/
def swPut (s : State) (k addr : Nat) (bs : List Byte) (poison : Option Cause) : State :=
  modSwitch s k fun x =>
    let r := match poison with
      | some c => poisonRange x.mem x.poison addr bs.length c
      | none => writeSectors true x.mem x.poison addr bs bs.length
    { x with mem := r.1, poison := r.2 }

/-- Writes to a mirrored allocation go to the mirror too; this one is performed at both at once. -/
def swWriteBoth (s : State) (k : Nat) (a : SwAlloc) (addr : Nat) (bs : List Byte) : State :=
  let s := swWrite s k addr bs
  match a.mirror with
  | some m => swWrite s (swKey m.1 m.2) addr bs
  | none => s

/-- A write of the hub to switch memory, or the cause of its refusal (R337, R405, R407; log 21). -/
def swStoreNow (s : State) (plane sw ftid addr : Nat) (bs : List Byte) : Option Cause × State :=
  match routeSwitch s plane sw ftid addr bs.length with
  | none => (some .swmLost, s)
  | some k =>
    match allocOf (switchAt s k) (namedBy (swKey plane sw) k) ftid addr bs.length with
    | some a => (none, swWriteBoth s k a addr bs)
    | none => (some .remoteFault, s)

/-! ## Allocation (R404, R406, R414) -/

/-- Granules of a switch's banks. -/
def swGranules : Nat := 2 ^ 22

/-- The home switch of this device in a plane (R386). -/
def homeSwitch (n plane : Nat) : Nat := (n / 18 + 7 * plane) % 57

/-- The number of a SWITCH field in a plane (R414). -/
def switchNumber (s : State) (field plane : Nat) : Nat := if field = 63 then homeSwitch s.pkg plane else field

/-- Granules that a tenant holds on a switch. -/
def heldGranules (x : Switch) (ftid : Nat) : Nat := x.allocs.foldl (fun n a => if a.ftid = ftid then n + a.count else n) 0

/-- Whether a run of granules is free on a switch. -/
def runFree (x : Switch) (first count : Nat) : Bool :=
  decide (first + count ≤ swGranules) && x.allocs.all fun a => !rangesMeet first count a.first a.count

/-- The lowest run of free granules on every switch of a list: a lowest run begins at 0 or where an allocation ends. -/
def lowestRun (xs : List Switch) (count : Nat) : Option Nat :=
  let starts := 0 :: xs.flatMap fun x => x.allocs.map fun a => a.first + a.count
  (starts.filter fun f => xs.all fun x => runFree x f count).foldl (fun m f =>
    match m with
    | none => some f
    | some y => some (min y f)) none

/-- A run zeroed and granted on a switch (R404). -/
def grantRun (s : State) (k : Nat) (a : SwAlloc) : State :=
  let inRun (addr : Nat) : Bool := decide (65536 * a.first ≤ addr) && decide (addr < 65536 * (a.first + a.count))
  modSwitch s k fun x =>
    { x with mem := x.mem.filter fun c => !inRun c.1, poison := x.poison.filter fun p => !inRun (64 * p.1), allocs := x.allocs ++ [a] }

/-- Whether a request of SWALLOC or SWFREE reaches a switch: it is not lost, its plane's port is up, and it is not deaf (log 22). -/
def swReached (s : State) (plane sw : Nat) : Bool :=
  planeUp s plane && !(switchAt s (swKey plane sw)).lost && (switchAt s (swKey plane sw)).hearing ≠ .deaf

/-- Whether the requester has the switch's reply to it. -/
def swAnswers (s : State) (plane sw : Nat) : Bool := swReached s plane sw && (switchAt s (swKey plane sw)).hearing = .answers

/-- A switch begins or ceases to answer. -/
def setHearing (s : State) (plane sw : Nat) (h : Hearing) : State := modSwitch s (swKey plane sw) fun x => { x with hearing := h }

/-- The limits of SWALLOC's operands (R414). -/
def swallocOk (a b : Nat) : Bool :=
  decide (0 < a) && a % 65536 = 0 && decide (b < 65536) && b / 1024 % 2 = 0 && (decide (b % 64 ≤ 56) || b % 64 = 63)
    && (b / 32768 = 0 || b / 2048 % 16 ≠ b / 64 % 16)

/-- What the switches do with a request for so many granules: 0 with the first granule granted on each, else the status (R404, R406, R414). -/
def swGrant (s : State) (ftid count : Nat) (sws : List (Nat × Nat)) : Nat × Nat × State :=
  if !(sws.all fun x =>
      let y := switchAt s (swKey x.1 x.2)
      decide (heldGranules y ftid + count ≤ lookD y.quota ftid 0)) then (1, 0, s)
  else match lowestRun (sws.map fun x => switchAt s (swKey x.1 x.2)) count with
    | none => (2, 0, s)
    | some f =>
      let g : SwAlloc := { ftid := ftid, first := f, count := count, mirror := sws[1]?, mirrorOf := none }
      match sws with
      | [p] => (0, f, grantRun s (swKey p.1 p.2) g)
      | [p, m] => (0, f, grantRun (grantRun s (swKey p.1 p.2) g) (swKey m.1 m.2) { g with mirror := none, mirrorOf := some (swKey p.1 p.2) })
      | _ => (2, 0, s)

/-- Allocate(A, B) for a tenant: the status, and the address of a grant; a request that reaches no switch, or whose reply is lost, is unanswered
(R404, R406, R414). -/
def swAllocate (s : State) (part a b : Nat) : Nat × DWord × State :=
  let p := partAt s part
  if p.pftid = 0 || !swallocOk a b then (4, 0, s)
  else
    let plane := b / 64 % 16
    let sw := switchNumber s (b % 64) plane
    let mplane := b / 2048 % 16
    let sws := (plane, sw) :: (if b / 32768 % 2 = 1 then [(mplane, switchNumber s (b % 64) mplane)] else [])
    if !(sws.all fun x => swReached s x.1 x.2) then (3, 0, s)
    else
      let r := swGrant s p.pftid (a / 65536) sws
      if !(sws.all fun x => swAnswers s x.1 x.2) then (3, 0, r.2.2)
      else (r.1, if r.1 = 0 then BitVec.ofNat 64 (p.pswva + 2 ^ 46 * plane + 2 ^ 40 * sw + 65536 * r.2.1) else 0, r.2.2)

/-- SWALLOC (R414). -/
def execSwalloc (d a b c : Reg) (s : State) : Host.Outcome State Fault Refusal :=
  threadWord (.swalloc d a b c) (fun _ s t th w =>
    match firstTok [readReg th a.toNat, readReg th b.toNat] with
    | some k => suppress s t k [(d.toNat, 2), (c.toNat, 1)]
    | none =>
      let r := swAllocate s w.part (readReg th a.toNat).data.toNat (readReg th b.toNat).data.toNat
      writeD (writeD r.2.2 t d 2 (cleanVal r.2.1)) t c 1 (cleanVal (BitVec.ofNat 64 r.1))) s

/-! ## SWFREE (R415) -/

/-- An allocation taken away from a switch; the granules are zeroed when they are granted again. -/
def dropAlloc (s : State) (k first : Nat) (is : SwAlloc → Bool) : State :=
  modSwitch s k fun x => { x with allocs := x.allocs.filter fun a => !(a.first = first && is a) }

/-- The allocation of a tenant freed whose first byte lies at an offset of a primary, on both of its switches, or on the one on which it lives on
(R407, R415); the switch that frees it. -/
def swFreeAt (s : State) (ftid k first : Nat) : Option State :=
  let mine (a : SwAlloc) : Bool := a.first = first && a.ftid = ftid
  let mirrors (s : State) : State :=
    s.switches.foldl (fun s p => dropAlloc s p.1 first fun a => a.ftid = ftid && a.mirrorOf = some k) s
  match (switchAt s k).allocs.find? fun a => mine a && a.mirrorOf.isNone with
  | some a => some (dropAlloc (if a.mirror.isSome then mirrors s else s) k first fun a => a.ftid = ftid && a.mirrorOf.isNone)
  | none => if s.switches.any fun p => p.2.allocs.any fun a => mine a && a.mirrorOf = some k then some (mirrors s) else none

/-- The allocation freed that an offset of a primary names: the status (R415). -/
def swFree (s : State) (ftid plane sw off : Nat) : Nat × State :=
  let k := swKey plane sw
  let t := if off % 65536 = 0 then swFreeAt s ftid k (off / 65536) else none
  if (switchAt s k).lost then (2, t.getD s)
  else if !swReached s plane sw then (2, s)
  else (if !swAnswers s plane sw then 2 else if t.isSome then 0 else 1, t.getD s)

/-- SWFREE for one thread, its earlier stores acknowledged (R415). -/
def swfreeThread (d a : Reg) (s : State) (t : Nat) (th : Thread) (w : Workgroup) : State :=
  let v := reg2 th a
  let status (s : State) (n : Nat) : State := writeD s t d 1 (cleanVal (BitVec.ofNat 64 n))
  match v.tok with
  | some k => suppress s t k [(d.toNat, 1)]
  | none =>
    if !inSwitchWindow (partAt s w.part) v.data then status s 1
    else
      let r := translate s w.core w.part v.data.toNat .read 0
      match r.1 with
      | .error _ => status r.2 1
      | .ok l => match locHome r.2 l with
        | .switch p sw off =>
          let x := swFree r.2 (partAt r.2 w.part).pftid p sw off
          status x.2 x.1
        | _ => status r.2 1

/-- SWFREE (R415). -/
def execSwfree (d a : Reg) (s : State) : Host.Outcome State Fault Refusal :=
  threadWord (.swfree d a) (fun _ s t th w => swfreeThread d a s t th w) s

end Sys2Proof.Machine
end

