-- ==== Sys2Proof/Machine/FabricHome.lean ====
section
/-! DEFINITION. The destination side of the fabric: requests performed once at this device or at a switch, target faults, transfer packets, and
the mirrors of switch memory (R300, R392, R397 to R407, R412, R413). -/

namespace Sys2Proof.Machine

/-! ## Flows at a destination (R397, R398, R401) -/

def sameFlow (home : Nat) (pkt : Packet) (x : DstFlow) : Bool := x.home = home && x.sdev = pkt.sdev && x.score = pkt.score && x.stream = pkt.stream

def dstFlowOf (fs : List DstFlow) (home : Nat) (pkt : Packet) : DstFlow :=
  (fs.find? (sameFlow home pkt)).getD
    { home := home, sdev := pkt.sdev, score := pkt.score, stream := pkt.stream, performed := [], cache := [], frozenAt := none, part := 0, floor := 0, arriving := [],
      lastAck := 0 }

/-- The key of a flow by its other end: 0 for a device of the fabric, one more than its index in the peer table for a scale-out peer (R393, R408). -/
def homeKey : Dest → Nat
  | .peer k => k + 1
  | _ => 0

/-- The index of the peer that a scale-out packet comes from, by the addresses of the peer table (R408). -/
def peerOf (s : State) (addr : List Byte) : Option Nat := (s.peers.find? fun p => p.2 = addr).map (·.1)

/-- The other end of a request's flow, if it is known (R375, R408). -/
def otherEnd (s : State) (pkt : Packet) : Option Dest :=
  match pkt.fromPeer with
  | none => some (.dev pkt.sdev)
  | some a => (peerOf s a).map .peer

/-- The key of a request's flow at this device. -/
def flowHome (s : State) (pkt : Packet) : Nat := ((otherEnd s pkt).map homeKey).getD 0

/-- Whether a request is one of this device's own. -/
def ownPacket (s : State) (pkt : Packet) : Bool := pkt.fromPeer.isNone && pkt.sdev = s.pkg

def putFlow (fs : List DstFlow) (home : Nat) (pkt : Packet) (x : DstFlow) : List DstFlow := x :: fs.filter fun y => !sameFlow home pkt y

/-- What a destination does with a request of a flow. -/
inductive Verdict
  /-- Performed already: the reply of the cache, if it still holds it (R397). -/
  | again (reply : Option ReplyBody)
  /-- The flow is frozen (R401). -/
  | frozen
  /-- An ordered request waits for the requests before it (R398). -/
  | waits
  | perform
  deriving DecidableEq, Repr

def verdict (x : DstFlow) (pkt : Packet) : Verdict :=
  if x.arriving.any (fun y => y.pkt.seq = pkt.seq) then .again none
  else if x.performed.contains pkt.seq then .again ((x.cache.find? fun p => p.1 = pkt.seq).map (·.2))
  else if (match x.frozenAt with
    | some q => decide (q < pkt.seq)
    | none => false) then .frozen
  else if pkt.ord && !(List.range' (x.floor + 1) (pkt.seq - 1 - x.floor)).all x.performed.contains then .waits
  else .perform

/-- A request entered as performed with its reply; the cache keeps the last 64 (R397). -/
def DstFlow.record (x : DstFlow) (now seq : Nat) (b : ReplyBody) : DstFlow :=
  { x with performed := x.performed ++ [seq], cache := ((seq, b) :: x.cache).take 64, lastAck := now + us 50 }

/-- The packet of a request that arrives: one of this device is on its way; another device's comes from outside. One that is too old arrives no more
(R388). -/
def takePacket (s : State) (pkt : Packet) : Option State :=
  if s.power ≠ .on && !(match pkt.dest with
    | .switch .. => true
    | _ => false) then none
  else if tooOld s pkt.born then none
  else if ownPacket s pkt then (if s.net.contains pkt then some { s with net := s.net.erase pkt } else none) else some s

/-! ## At this device (R392, R399, R401) -/

/-- The partition that accepts a tenant's request: the lowest-numbered one of that tenant whose export is enabled (R392). -/
def acceptor (s : State) (ftid : Nat) : Option Nat :=
  if ftid = 0 then none else (List.range 16).find? fun p => (partAt s p).pftid = ftid && (partAt s p).pexEnable

/-- Whether the tag of a request passes: it is sealed under the key of the partition that accepts it and its source, a device or a peer of the table
(R375, R408; log 111). Of a request that no partition accepts no payload is opened. -/
def tagPasses (s : State) (pkt : Packet) : Bool :=
  match otherEnd s pkt with
  | none => false
  | some d => match acceptor s pkt.ftid with
    | none => true
    | some p => pkt.key = fabKeyOf s p d

/-- The same at a switch, under the key that the named switch has for the device and the tenant (R375; log 111). -/
def bankTagPasses (s : State) (k : Nat) (pkt : Packet) : Bool :=
  pkt.key = (((switchAt s (pkt.named.getD k)).keys.find? fun x => x.1 = (pkt.sdev, pkt.ftid)).map (·.2)).getD 0

/-- A key installed at a switch for a device and a tenant. -/
def setSwKey (s : State) (plane sw sdev ftid key : Nat) : State :=
  modSwitch s (swKey plane sw) fun x => { x with keys := ((sdev, ftid), key) :: x.keys.filter fun y => y.1 ≠ (sdev, ftid) }

def isWriteOp : FabOp → Bool
  | .load => false
  | _ => true

def accOf : FabOp → AccKind
  | .load => .read
  | .atomic .. => .atomic
  | _ => .write

/-- The fault queue entry of a target fault (R401). -/
def targetEntry (pkt : Packet) (p : Nat) (f : XFault) : BitVec 512 :=
  let flow : BitVec 23 := BitVec.ofNat 11 pkt.sdev ++ BitVec.ofNat 8 pkt.score ++ BitVec.ofNat 4 pkt.stream
  let r : PoisonRec :=
    { PoisonRec.zero with faddr := BitVec.ofNat 64 pkt.addr, origin := flow.setWidth 56, part := BitVec.ofNat 4 p, status := stPending,
                          cause := causeCode f.cause }
  faultEntry r 0xFF 0 f.window (isWriteOp pkt.op)

/-- A payload written at a location, sector by sector, poisoned sectors as such (R394, R412). -/
def writePayload (s : State) (l : Loc) (pkt : Packet) : State :=
  let a := locAddr l
  (sectorsOf a pkt.len).zipIdx.foldl (fun s (sec, j) =>
    let lo := max a (64 * sec)
    let n := min (a + pkt.len) (64 * sec + 64) - lo
    if (pkt.poison[j]?).getD false then poisonLoc s (locAdd l (lo - a)) n pkt.cause
    else writeLoc s true (locAdd l (lo - a)) ((pkt.bytes.drop (lo - a)).take n)) s

/-- A performed write from the fabric of n bytes: tracked copies of its lines are gone, and the directories' entries with them (R294). -/
def writtenAt (s : State) (l : Loc) (n : Nat) : State :=
  let s := { s with perfCtr := s.perfCtr + 1 }
  match l with
  | .phys pa _ _ _ => invalidateLines s pa n
  | .spad _ _ => s

/-- A load at its home; a line of a range that is frozen for the fabric is granted, and its reader is recorded (R300). -/
def serveLoad (s : State) (l : Loc) (pkt : Packet) : ReplyBody × State :=
  let m := readLoc s l pkt.len
  let c := poisonAt m.2 l pkt.len
  let grant : Bool :=
    match l with
    | .phys _ .uncached _ _ => false
    | .phys pa _ _ _ => m.2.freezes.any fun p => isFrozenEntry p.2 && p.2.sys && covers p.2 pa
    | .spad _ _ => false
  let t := if grant then
      { m.2 with freezes := m.2.freezes.map fun (k, f) =>
          (k, if isFrozenEntry f && covers f (locAddr l) && !f.dvec.contains pkt.sdev then { f with dvec := f.dvec ++ [pkt.sdev] } else f) }
    else m.2
  (.done m.1 c grant, t)

/-- The operands of an atomic's packet. -/
def packetOperands (op : AtomOp) (wide : Bool) (d e : DWord) (bs : List Byte) : List (DWord × DWord) :=
  match operandsOf wide 64 bs with
  | [] => [(d, e)]
  | x :: r => if op = .fadd then [x] else x :: r

/-- The old values that a home answers with. -/
def oldBytes (wide : Bool) (xs : List DWord) : List Byte := xs.flatMap fun x => leBytes (if wide then 8 else 4) x.toNat

/-- A request performed at a location of this device (R399). -/
def serveAt (s : State) (l : Loc) (pkt : Packet) : ReplyBody × State :=
  match pkt.op with
  | .load => serveLoad s l pkt
  | .store =>
    if locFrozen s l pkt.len then (.fault .writeFrozen false false, s)
    else (.done [] none false, writtenAt (writePayload s l pkt) l pkt.len)
  | .transfer =>
    if locFrozen s l pkt.len then (.fault .writeFrozen false false, s) else (.done [] none false, writtenAt (writePayload s l pkt) l pkt.len)
  | .atomic op wide d e =>
    if locFrozen s l pkt.len then (.fault .writeFrozen false false, s)
    else match poisonAt s l pkt.len with
      | some c => (.done [] (some c) false, s)
      | none =>
        let m := readLoc s l pkt.len
        let r := aggregate op wide (BitVec.ofNat 64 (leNat m.1)) (packetOperands op wide d e pkt.bytes)
        (.done (oldBytes wide r.1) none false, writtenAt (writeLoc m.2 false l (leBytes pkt.len r.2.toNat)) l pkt.len)

/-- The outcome of an access through the export space: the reply, the state, and the partition whose flow it freezes (R392, R401). -/
def serveExport (s : State) (pkt : Packet) (p : Nat) : ReplyBody × State × Option Nat :=
  let r := exportWalk s p pkt.addr (accOf pkt.op)
  match r.1 with
  | .error f => (.fault .remoteFault false true, modPart r.2 p (fun x => { x with faultWait := x.faultWait ++ [targetEntry pkt p f] }), some p)
  | .ok l =>
    let x := serveAt r.2 l pkt
    (x.1, x.2, none)

/-- A reply of this device to a request. -/
def replyTo (s : State) (pkt : Packet) (b : ReplyBody) : State := sendReply s (ownPacket s pkt) ⟨pkt.score, pkt.dest, pkt.stream⟩ pkt.seq b

/-- A request entered in its flow and answered. -/
def answered (s : State) (pkt : Packet) (x : DstFlow) (b : ReplyBody) (froze : Option Nat) : State :=
  let x := x.record s.now pkt.seq b
  let x := match froze with
    | some p => { x with frozenAt := some pkt.seq, part := p }
    | none => x
  replyTo { s with dstFlows := putFlow s.dstFlows x.home pkt x } pkt b

/-- A request performed before and answered from the reply cache (R397). -/
def answeredAgain (s : State) (pkt : Packet) (b : ReplyBody) : State :=
  replyTo { s with dstFlows := refreshed s.now (sameFlow (flowHome s pkt) pkt) s.dstFlows } pkt b

/-- A request at this device. -/
def serveDevice (s : State) (pkt : Packet) : State :=
  let x := dstFlowOf s.dstFlows (flowHome s pkt) pkt
  match verdict x pkt with
  | .again (some b) => answeredAgain s pkt b
  | .again none => s
  | .frozen => replyTo s pkt .frozen
  | .waits => s
  | .perform =>
    match acceptor s pkt.ftid with
    | none => answered s pkt x (.fault .remoteFault false false) none
    | some p =>
      let r := serveExport s pkt p
      answered r.2.1 pkt x r.1 r.2.2

/-! ## At a switch (R403 to R407) -/

/-- A request performed at a switch: the reply, and the bytes written if it wrote (R405). -/
def serveBank (s : State) (k : Nat) (pkt : Packet) : ReplyBody × Option (List Byte × Option Cause) :=
  let x := switchAt s k
  match allocOf x pkt.named pkt.ftid pkt.addr (max 1 pkt.len) with
  | none => (.fault .remoteFault false false, none)
  | some _ =>
    match pkt.op with
    | .load => (.done (memGetN x.mem pkt.addr pkt.len) (poisonIn x.poison pkt.addr pkt.len) false, none)
    | .store => (.done [] none false, some (pkt.bytes, if (pkt.poison[0]?).getD false then some pkt.cause else none))
    | .atomic op wide d e =>
      match poisonIn x.poison pkt.addr pkt.len with
      | some c => (.done [] (some c) false, none)
      | none =>
        let r := aggregate op wide (BitVec.ofNat 64 (leNat (memGetN x.mem pkt.addr pkt.len))) (packetOperands op wide d e pkt.bytes)
        (.done (oldBytes wide r.1) none false, some (leBytes pkt.len r.2.toNat, none))
    | .transfer => (.fault .remoteFault false false, none)

def bankFlow (home : Nat) (pkt : Packet) : FlowKey := ⟨pkt.score, .switch (home / 64) (home % 64), pkt.stream⟩

/-- Whether an update of a request still waits for the mirror's acknowledgement, before which the primary sends no reply (R406). -/
def updPending (s : State) (home : Nat) (pkt : Packet) : Bool :=
  s.mirrorUpds.any fun p => p.2.primary = home && p.2.sdev = pkt.sdev && p.2.score = pkt.score && p.2.stream = pkt.stream && p.2.seq = pkt.seq

/-- A reply of a switch in a flow, whose state is refreshed (R397). -/
def bankReply (s : State) (k home : Nat) (pkt : Packet) (b : ReplyBody) : State :=
  sendReply (modSwitch s k fun y => { y with flows := refreshed s.now (sameFlow home pkt) y.flows }) (ownPacket s pkt) (bankFlow home pkt) pkt.seq b

/-- A request at a switch that is not lost, in the flow of the primary that it names: performed once; a write to a mirrored allocation is answered once the mirror has it (R397, R406). -/
def serveSwitch (s : State) (k : Nat) (pkt : Packet) : State :=
  let home := pkt.named.getD k
  let x := dstFlowOf (switchAt s k).flows home pkt
  match verdict x pkt with
  | .again (some b) => if updPending s home pkt then s else bankReply s k home pkt b
  | .again none | .frozen | .waits => s
  | .perform =>
    let r := serveBank s k pkt
    let mirror := ((allocOf (switchAt s k) pkt.named pkt.ftid pkt.addr (max 1 pkt.len)).bind (·.mirror)).map fun m => swKey m.1 m.2
    let s := match r.2 with
      | some bs => swPut s k pkt.addr bs.1 bs.2
      | none => s
    let s := modSwitch s k fun y => { y with flows := putFlow y.flows home pkt (x.record s.now pkt.seq r.1) }
    match r.2, mirror with
    | some bs, some m =>
      let j := freshId s
      let u : MirrorUpd :=
        { primary := k, mirror := m, addr := pkt.addr, bytes := bs.1, poison := bs.2, sdev := pkt.sdev, score := pkt.score, stream := pkt.stream, seq := pkt.seq,
          reply := r.1 }
      { j.2 with mirrorUpds := put j.2.mirrorUpds j.1 u }
    | _, _ => bankReply s k home pkt r.1

/-- MIRROR_UPDATE: the mirror applies the oldest update of a primary, enters its reply, and acknowledges; the primary then answers (R406). An update of
a request that the mirror has performed itself, in the place of a lost primary, changes nothing (R397, R407). -/
def execMirrorUpdate (k : Nat) (s : State) : Host.Outcome State Fault Refusal :=
  .next (match look s.mirrorUpds k with
    | none => s
    | some u =>
      if (switchAt s u.mirror).lost || s.mirrorUpds.any (fun p => decide (p.1 < k) && p.2.primary = u.primary && p.2.mirror = u.mirror) then s
      else
        let pkt : Packet :=
          { ftid := 0, sdev := u.sdev, score := u.score, dest := .switch (u.primary / 64) (u.primary % 64), stream := u.stream, seq := u.seq,
            ord := false, op := .store, addr := u.addr, endpoint := none, len := u.bytes.length, bytes := u.bytes, poison := [], cause := .ecc, key := 0,
            fromPeer := none, named := some u.primary, born := s.now }
        let x := dstFlowOf (switchAt s u.mirror).flows u.primary pkt
        if x.performed.contains u.seq then { s with mirrorUpds := del s.mirrorUpds k } else
        let t := swPut { s with mirrorUpds := del s.mirrorUpds k } u.mirror u.addr u.bytes u.poison
        let t := modSwitch t u.mirror fun y =>
          { y with flows := putFlow y.flows u.primary pkt (x.record s.now u.seq u.reply) }
        if (switchAt t u.primary).lost then t else bankReply t u.primary u.primary pkt u.reply)

/-! ## Arrival of requests -/

def isTransfer : FabOp → Bool
  | .transfer => true
  | _ => false

def isPeer : Dest → Bool
  | .peer _ => true
  | _ => false

/-- Whether a request is addressed to this device. -/
def toHere (s : State) (pkt : Packet) : Bool :=
  match pkt.dest with
  | .dev n => n = s.pkg && pkt.fromPeer.isNone
  | .peer _ => pkt.fromPeer.isSome
  | .switch .. => false

/-- Whether a request that would be performed now waits at its home: for a write to its sectors that still counts acknowledgements, and a write also
for a recall or an invalidation of its line (R296, R297). -/
def requestHeld (s : State) (pkt : Packet) : Bool :=
  match verdict (dstFlowOf s.dstFlows (flowHome s pkt) pkt) pkt, acceptor s pkt.ftid with
  | .perform, some p =>
    match (exportWalk s p pkt.addr (accOf pkt.op)).1 with
    | .ok l => if isWriteOp pkt.op then lineHeld s l pkt.len else sectorsCounting s (locAddr l) pkt.len
    | .error _ => false
  | _, _ => false

/-- FABRIC_REQUEST: a load, store or atomic arrives at its destination and is performed once (R397). One whose tag fails is dropped (R375).
One of this device's that goes to another device leaves the model, whose reply comes from outside. Scale-out carries transfers only (R408). -/
def execFabricRequest (pkt : Packet) (s : State) : Host.Outcome State Fault Refusal :=
  .next (
    if isTransfer pkt.op || isPeer pkt.dest || (toHere s pkt && requestHeld s pkt) then s
    else match takePacket s pkt with
      | none => s
      | some t =>
        match pkt.dest with
        | .switch p sw => if (switchAt t (swKey p sw)).lost || !bankTagPasses t (swKey p sw) pkt then t else serveSwitch t (swKey p sw) pkt
        | _ => if toHere s pkt && tagPasses s pkt then serveDevice t pkt else t)

/-! ## Transfer packets (R412, R413) -/

/-- The workgroup, resident or saved, of an endpoint's slot. -/
def endpointWg (s : State) (e : Endpoint) (part : Nat) : Option (Nat × Workgroup) :=
  s.wgs.find? fun p => !p.2.retired && p.2.core = e.core && p.2.slot = e.slot && p.2.part = part

/-- What an endpoint lets a packet do. -/
inductive EndOutcome
  | busy
  /-- No workgroup, or no barrier object at which to arrive (R413). -/
  | refused
  /-- The workgroup, whether it may write its range, and whether its barrier object's line is absent, for which the arrival waits (R196). -/
  | ok (wg : Nat) (fits absent : Bool)
  deriving DecidableEq, Repr

def endpointCheck (s : State) (e : Endpoint) (part : Nat) (pkt : Packet) : EndOutcome :=
  match endpointWg s e part with
  | none => .refused
  | some (k, w) =>
    if w.saved || (partAt s part).pstate ≠ .running then .busy
    else
      let fits : Bool := !e.spad || decide (pkt.addr + pkt.len ≤ 128 * w.hdr.scratch)
      match e.bar with
      | none => .ok k fits false
      | some a =>
        if a % 16 ≠ 0 || 128 * w.hdr.scratch < a + 16 then .refused
        else if lineAbsent s (.spad k a) 16 then .ok k fits true
        else if (objectRefused w a).isSome then .refused
        else .ok k fits false

/-- The arrival of a packet at its endpoint's object (R412). -/
def packetArrives (s : State) (e : Endpoint) (wg len : Nat) : State :=
  match e.bar with
  | some a => arriveAt s wg a 0 len
  | none => s

/-- A packet whose write is done and whose arrival waits for its object's line: it is not performed again, and its reply waits (R196, R412). -/
def deferred (s : State) (pkt : Packet) (x : DstFlow) (y : Arriving) : State :=
  { s with dstFlows := putFlow s.dstFlows x.home pkt { x with arriving := x.arriving ++ [y] } }

/-- What a packet writes: the endpoint's scratchpad, or memory through the export walk (R412). -/
def packetWrites (s : State) (pkt : Packet) (part : Nat) : Option (Endpoint × Nat × Bool) → ReplyBody × State × Option Nat
  | some (e, wg, fits) =>
    if !fits then (.fault .remoteFault false false, s, none)
    else if e.spad then (.done [] none false, writePayload s (.spad wg pkt.addr) pkt, none)
    else serveExport s pkt part
  | none => serveExport s pkt part

/-- A packet's write, its arrival and its reply (R412): the arrival is made whatever becomes of the write. -/
def packetActs (s : State) (pkt : Packet) (x : DstFlow) (part : Nat) : State :=
  match pkt.endpoint with
  | none =>
    let r := packetWrites s pkt part none
    answered r.2.1 pkt x r.1 r.2.2
  | some e =>
    match endpointCheck s e part pkt with
    | .busy => replyTo s pkt .busy
    | .refused => answered s pkt x (.fault .remoteFault false false) none
    | .ok wg fits absent =>
      let r := packetWrites s pkt part (some (e, wg, fits))
      if absent then deferred r.2.1 pkt x ⟨pkt, wg, r.1, r.2.2⟩ else answered (packetArrives r.2.1 e wg pkt.len) pkt x r.1 r.2.2

/-- A packet's arrival that waited, made once the object's line is there; a workgroup that has gone, or an object that is refused, refuses the packet
(R195, R196, R413). -/
def lateArrival (s : State) (x : DstFlow) (y : Arriving) : State :=
  let x := { x with arriving := x.arriving.erase y }
  match y.pkt.endpoint, (wgAt s y.wg).filter (fun w => !w.retired) with
  | some e, some w =>
    match e.bar with
    | some a =>
      if (objectRefused w a).isSome then answered s y.pkt x (.fault .remoteFault false false) y.froze
      else answered (packetArrives s e y.wg y.pkt.len) y.pkt x y.body y.froze
    | none => answered s y.pkt x y.body y.froze
  | _, _ => answered s y.pkt x (.fault .remoteFault false false) y.froze

/-- Whether a waiting arrival can be made. -/
def arrivalDue (s : State) (y : Arriving) : Bool :=
  match wgAt s y.wg, y.pkt.endpoint.bind (·.bar) with
  | some w, some a => w.retired || (!w.saved && !lineAbsent s (.spad y.wg a) 16)
  | _, _ => true

/-- The arrivals that waited and whose lines are there. -/
def flushArrivals (s : State) : State :=
  (s.dstFlows.flatMap fun x => x.arriving.map fun y => (x.home, y)).foldl (fun s (h, y) =>
    if arrivalDue s y then lateArrival s (dstFlowOf s.dstFlows h y.pkt) y else s) s

/-- Whether a packet waits, as an ordered one, for those before it, or for its home. -/
def packetWaits (s : State) (pkt : Packet) : Bool :=
  match verdict (dstFlowOf s.dstFlows (flowHome s pkt) pkt) pkt with
  | .waits => true
  | .perform => match pkt.endpoint with
    | some e => !e.spad && requestHeld s pkt
    | none => requestHeld s pkt
  | _ => false

/-- A transfer packet at this device. -/
def servePacket (s : State) (pkt : Packet) : State :=
  let x := dstFlowOf s.dstFlows (flowHome s pkt) pkt
  match verdict x pkt with
  | .again (some b) => answeredAgain s pkt b
  | .again none | .waits => s
  | .frozen => replyTo s pkt .frozen
  | .perform =>
    match acceptor s pkt.ftid with
    | none => answered s pkt x (.fault .remoteFault false false) none
    | some p => packetActs s pkt x p

/-- XFER_PACKET: a packet of a transfer arrives (R412). One of this device's goes to another device and leaves the model. -/
def execXferPacket (pkt : Packet) (s : State) : Host.Outcome State Fault Refusal :=
  .next (
    if !isTransfer pkt.op || (toHere s pkt && packetWaits s pkt) then s
    else match takePacket s pkt with
      | none => s
      | some t => if toHere s pkt && tagPasses s pkt then servePacket t pkt else t)

/-! ## The end of a flow's state (R397) -/

/-- A flow's state discarded: of it stays only up to which SEQ everything was delivered, for ordered requests (R397, R398; log 120). -/
def DstFlow.expired (x : DstFlow) : DstFlow := { x with performed := [], cache := [], floor := x.performed.foldl max x.floor }

/-- FLOW_STATE_EXPIRE: a destination forgets a flow 250 µs after its last reply can have been acknowledged, when its source holds no request without a
reply. -/
def execFlowStateExpire (f : FlowKey) (sdev : Nat) (s : State) : Host.Outcome State Fault Refusal :=
  .next (
    let mine : Bool := sdev = s.pkg && s.reqs.any fun p => p.2.flow = f
    let expire (home : Nat) (fs : List DstFlow) : List DstFlow := fs.map fun x =>
      if x.home = home && x.sdev = sdev && x.score = f.core && x.stream = f.stream && x.frozenAt.isNone && x.arriving = []
        && decide (x.lastAck + us 250 ≤ s.now) then x.expired else x
    if mine then s
    else match f.dest with
      | .switch p sw => { s with switches := s.switches.map fun (k, y) => (k, { y with flows := expire (swKey p sw) y.flows }) }
      | d => { s with dstFlows := expire (homeKey d) s.dstFlows })

end Sys2Proof.Machine
end

