-- ==== Sys2Proof/Machine/Keccak.lean ====
section
/-! DEFINITION. SHAKE256 (FIPS 202), the hash of the measurement registers (R377; log 28). -/

namespace Sys2Proof.Machine

/-- The 25 lanes of a Keccak state; lane x + 5 y. -/
abbrev Lanes := List DWord

def laneAt (a : Lanes) (k : Nat) : DWord := (a[k]?).getD 0

/-- Rotation offsets of the lanes. -/
def keccakRho : List Nat := [0, 1, 62, 28, 27, 36, 44, 6, 55, 20, 3, 10, 43, 25, 39, 41, 45, 15, 21, 8, 18, 2, 61, 56, 14]

/-- Round constants. -/
def keccakRc : List DWord :=
  [0x0000000000000001, 0x0000000000008082, 0x800000000000808A, 0x8000000080008000, 0x000000000000808B, 0x0000000080000001,
   0x8000000080008081, 0x8000000000008009, 0x000000000000008A, 0x0000000000000088, 0x0000000080008009, 0x000000008000000A]
  ++ [0x000000008000808B, 0x800000000000008B, 0x8000000000008089, 0x8000000000008003, 0x8000000000008002, 0x8000000000000080,
   0x000000000000800A, 0x800000008000000A, 0x8000000080008081, 0x8000000000008080, 0x0000000080000001, 0x8000000080008008]

/-- One round. -/
def keccakRound (a : Lanes) (rc : DWord) : Lanes :=
  let c := (List.range 5).map fun x => (List.range 5).foldl (fun t y => t ^^^ laneAt a (x + 5 * y)) 0
  let d := (List.range 5).map fun x => laneAt c ((x + 4) % 5) ^^^ (laneAt c ((x + 1) % 5)).rotateLeft 1
  let a := (List.range 25).map fun k => laneAt a k ^^^ laneAt d (k % 5)
  let b := (List.range 25).map fun k =>
    let j := (3 * (k / 5) + k % 5) % 5 + 5 * (k % 5)
    (laneAt a j).rotateLeft ((keccakRho[j]?).getD 0)
  let e := (List.range 25).map fun k =>
    let y := 5 * (k / 5)
    laneAt b k ^^^ (~~~(laneAt b (y + (k + 1 - y) % 5)) &&& laneAt b (y + (k + 2 - y) % 5))
  match e with
  | x :: r => (x ^^^ rc) :: r
  | [] => []

def keccakF (a : Lanes) : Lanes := keccakRc.foldl keccakRound a

/-- A block of 136 bytes absorbed. -/
def absorbBlock (a : Lanes) (bs : List Byte) : Lanes :=
  keccakF ((List.range 25).map fun k => laneAt a k ^^^ (if k < 17 then BitVec.ofNat 64 (leNat ((bs.drop (8 * k)).take 8)) else 0))

/-- The message's blocks absorbed; the number bounds their count. -/
def absorb : Nat → Lanes → List Byte → Lanes
  | 0, a, _ => a
  | n + 1, a, bs => if bs.isEmpty then a else absorb n (absorbBlock a (bs.take 136)) (bs.drop 136)

/-- The message padded to whole blocks. -/
def shakePad (bs : List Byte) : List Byte :=
  let n := 135 - bs.length % 136
  if n = 0 then bs ++ [0x9F#8] else bs ++ 0x1F#8 :: (List.replicate (n - 1) 0#8 ++ [0x80#8])

/-- SHAKE256 with 64 bytes of output. -/
def shake256 (bs : List Byte) : List Byte :=
  let m := shakePad bs
  ((absorb m.length (List.replicate 25 0) m).take 8).flatMap fun x => leBytes 8 x.toNat

/-- The extension of a measurement register (R377). -/
def extendMeasure (m data : List Byte) : List Byte := shake256 (m ++ shake256 data)

end Sys2Proof.Machine
end

