-- ==== Sys2Proof/Machine/Collectives.lean ====
section
/-! DEFINITION. Rendezvous collectives (R62, R188 to R191, R198 to R202). A collective's word arrives and its group parks;
RENDEZVOUS_COMPLETE computes it for the workgroup. -/

namespace Sys2Proof.Machine

/-! ## Arrival (R188) -/

/-- What a thread brings: its word's address, its operand A and, where the word names one, its second operand. -/
def arrivalOf (op : CollOp) (d a b : Reg) (n : Nat) (t : Nat) (th : Thread) : Arrival :=
  let x := valOf (readRegs th a.toNat n)
  let y := reg1 th b
  { th := t, word := wordAddr th, op := op, dst := d.toNat, a := x.data, b := y.data, aTok := x.tok, bTok := y.tok }

/-- A thread's arrival recorded with its workgroup. -/
def noteArrival (op : CollOp) (d a b : Reg) (n : Nat) (s : State) (t : Nat) : State :=
  match thOf s t with
  | some th => modWg s (wgOf t) fun w => { w with arrivals := w.arrivals ++ [arrivalOf op d a b n t th] }
  | none => s

/-- The arrival of a group at a rendezvous: threads for which the word is no instruction abort; the others arrive once their operands are
there, and the group parks (R79, R188). The arrival is the word's issue, which ends the port's opportunity (log 103). -/
def arriveStep (i : Instr) (op : CollOp) (d a b : Reg) (n : Nat) (s : State) : State :=
  match s.focus with
  | none => s
  | some g =>
    let s := { s with focus := none }
    match grpOf s g with
    | none => s
    | some G =>
      let run := G.members.filter (legalHere i s)
      match stallAmong i s G.core run with
      | some x => heldBack i s g G x
      | none =>
        let issue := s.nextIssue
        let s := { s with nextIssue := issue + 1 }
        let stop := G.members.filter fun t => !legalHere i s t
        let s := endIssue (meetErrors i issue (stop.foldl (abortWord .illegal false issue) s) run) issue
        let s := run.foldl (noteArrival op d a b n) s
        endOpportunity (parkGroup (trimGroup s g) g .rendezvous i) G.core G.port (some G.members)

/-- The outcome of an arrival. -/
def arriveWord (i : Instr) (op : CollOp) (d a b : Reg) (n : Nat) (s : State) : Host.Outcome State Fault Refusal :=
  .next (arriveStep i op d a b n s)

/-- GRED (R199). -/
def execGred (d a c : Reg) (op : RedOp) (rm : Rnd) (s : State) : Host.Outcome State Fault Refusal :=
  arriveWord (.gred d a c op rm) (.gred op rm false (decide (c ≠ 0))) d a c 1 s

/-- GSCAN (R199). -/
def execGscan (d a c : Reg) (op : RedOp) (excl : Bool) (rm : Rnd) (s : State) : Host.Outcome State Fault Refusal :=
  arriveWord (.gscan d a c op excl rm) (.gscan op excl rm false (decide (c ≠ 0))) d a c 1 s

/-- GSHF (R200). -/
def execGshf (d a b : Reg) (mode : ShfMode) (s : State) : Host.Outcome State Fault Refusal :=
  arriveWord (.gshf d a b mode) (.gshf mode false) d a b 1 s

/-- GBCAST (R201). -/
def execGbcast (d a b : Reg) (s : State) : Host.Outcome State Fault Refusal :=
  arriveWord (.gbcast d a b) (.gbcast false (decide (b ≠ 0))) d a b 1 s

/-- The wide GRED (R199). -/
def execGredW (d a c : Reg) (op : RedOp) (rm : Rnd) (s : State) : Host.Outcome State Fault Refusal :=
  arriveWord (.gredW d a c op rm) (.gred op rm true (decide (c ≠ 0))) d a c 2 s

/-- The wide GSCAN (R199). -/
def execGscanW (d a c : Reg) (op : RedOp) (excl : Bool) (rm : Rnd) (s : State) : Host.Outcome State Fault Refusal :=
  arriveWord (.gscanW d a c op excl rm) (.gscan op excl rm true (decide (c ≠ 0))) d a c 2 s

/-- The wide GSHF (R200). -/
def execGshfW (d a b : Reg) (mode : ShfMode) (s : State) : Host.Outcome State Fault Refusal :=
  arriveWord (.gshfW d a b mode) (.gshf mode true) d a b 2 s

/-- The wide GBCAST (R201). -/
def execGbcastW (d a b : Reg) (s : State) : Host.Outcome State Fault Refusal :=
  arriveWord (.gbcastW d a b) (.gbcast true (decide (b ≠ 0))) d a b 2 s

/-- GVOTE (R202). -/
def execGvote (d a c : Reg) (mode : VoteMode) (s : State) : Host.Outcome State Fault Refusal :=
  arriveWord (.gvote d a c mode) (.gvote mode (decide (c ≠ 0))) d a c 1 s

/-- REGSIZE (R191). -/
def execRegsize (d a : Reg) (tryIt : Bool) (s : State) : Host.Outcome State Fault Refusal :=
  arriveWord (.regsize d a tryIt) (.regsize tryIt) d a 0 1 s

/-! ## Reduction (R62, R198, R199) -/

/-- An operator on integers of w bits; the fp32 operators have no wide form (R198). -/
def redInt {w : Nat} (op : RedOp) (a b : BitVec w) : BitVec w :=
  match op with
  | .add | .fadd => a + b
  | .min | .fmin => imin false a b
  | .max | .fmax => imax false a b
  | .minn => imin true a b
  | .maxn => imax true a b
  | .and => a &&& b
  | .or => a ||| b
  | .xor => a ^^^ b

/-- A combination of two active nodes (R62, R198). -/
def redFn (op : RedOp) (rm : Rnd) (wide : Bool) (a b : DWord) : DWord :=
  if wide then redInt op a b
  else match op with
    | .fadd => up (fadd rm (lo a) (lo b))
    | .fmin => up (fmin (lo a) (lo b))
    | .fmax => up (fmax (lo a) (lo b))
    | _ => up (redInt op (lo a) (lo b))

/-- The value of an empty reduction (R198). -/
def redIdentity (op : RedOp) (wide : Bool) : DWord :=
  match op with
  | .add | .fadd | .maxn | .or | .xor => 0
  | .min => if wide then 0x7FFFFFFFFFFFFFFF else 0x7FFFFFFF
  | .max => if wide then 0x8000000000000000 else 0x80000000
  | .minn | .and => if wide then 0xFFFFFFFFFFFFFFFF else 0xFFFFFFFF
  | .fmin => 0x7F800000
  | .fmax => 0xFF800000

/-- A node of two others: an inactive one passes the other through (R62). -/
def redNode (f : DWord → DWord → DWord) : Option DWord → Option DWord → Option DWord
  | some a, some b => some (f a b)
  | some a, none => some a
  | none, y => y

/-- One level of the tree (R62). -/
def redLevel (f : DWord → DWord → DWord) : List (Option DWord) → List (Option DWord)
  | x :: y :: r => redNode f x y :: redLevel f r
  | r => r

/-- The root of the tree over T positions, in so many levels (R62). -/
def redTree (f : DWord → DWord → DWord) : Nat → List (Option DWord) → Option DWord
  | 0, l => l.headD none
  | n + 1, l => redTree f n (redLevel f l)

/-- The result of a reduction over positions: the root, or the identity (R62). Eleven levels serve 2,048 threads. -/
def reduce (op : RedOp) (rm : Rnd) (wide : Bool) (l : List (Option DWord)) : DWord :=
  (redTree (redFn op rm wide) 11 l).getD (redIdentity op wide)

/-- The arrival of a logical index. -/
def arrivedAt (as : List Arrival) (i : Nat) : Option Arrival := as.find? fun a => idxOf a.th = i

/-- Whether a thread takes part: C is zero, its C register is not zero, or its C register is poisoned (R199). -/
def takesPart (part : Bool) (a : Arrival) : Bool := !part || a.bTok.isSome || decide (a.b ≠ 0)

/-- The token of a contributor (R199): of one whose A and C are both poisoned A's, the lower-numbered field's (log 102). -/
def contribTok (part : Bool) (a : Arrival) : Option Word :=
  match a.aTok with
  | some k => some k
  | none => if part then a.bTok else none

/-- The reduction over the taking-part threads whose index a receiving thread's range holds (R199). -/
def reduceOver (op : RedOp) (rm : Rnd) (wide part : Bool) (T : Nat) (as : List Arrival) (within : Nat → Bool) : Val :=
  let member (i : Nat) : Option Arrival :=
    if within i then (arrivedAt as i).filter (takesPart part) else none
  match (List.range T).findSome? fun i => (member i).bind (contribTok part) with
  | some k => badVal k
  | none => cleanVal (reduce op rm wide ((List.range T).map fun i => (member i).map (·.a)))

/-! ## Shuffle, broadcast, vote (R200 to R202) -/

/-- The source index of a shuffle, if it lies in range (R200). -/
def shfSource (mode : ShfMode) (T i b : Nat) : Option Nat :=
  let s := match mode with
    | .idx => some b
    | .up => if b ≤ i then some (i - b) else none
    | .down => some (i + b)
    | .xor => some (i ^^^ b)
  s.filter fun x => decide (x < T)

/-- A thread's A with its tag. -/
def ownA (a : Arrival) : Val :=
  match a.aTok with
  | some k => badVal k
  | none => cleanVal a.a

/-- GSHF's result for a thread (R200). -/
def shfVal (mode : ShfMode) (T : Nat) (as : List Arrival) (a : Arrival) : Val :=
  match a.bTok with
  | some k => badVal k
  | none =>
    match (shfSource mode T (idxOf a.th) a.b.toNat).bind (arrivedAt as) with
    | some x => ownA x
    | none => ownA a

/-- GBCAST's result (R201). -/
def bcastVal (sel : Bool) (T : Nat) (as : List Arrival) : Val :=
  let source := (List.range T).findSome? fun i =>
    (arrivedAt as i).filter fun a => !sel || a.bTok.isSome || decide (a.b ≠ 0)
  match source with
  | none => cleanVal 0
  | some a => match (if sel then a.bTok else none) with
    | some k => badVal k
    | none => ownA a

/-- The members of a vote in order (R199, R202). -/
def voters (part : Bool) (T : Nat) (as : List Arrival) : List Arrival :=
  (List.range T).filterMap fun i => (arrivedAt as i).filter (takesPart part)

/-- GVOTE's result for a receiving thread (R202). -/
def voteVal (mode : VoteMode) (part : Bool) (T : Nat) (as : List Arrival) (i : Nat) : Val :=
  let p := voters part T as
  match p.findSome? (contribTok part) with
  | some k => badVal k
  | none =>
    cleanVal (match mode with
      | .any => predBit (p.any fun a => decide (a.a ≠ 0))
      | .all => predBit (p.all fun a => decide (a.a ≠ 0))
      | .count => BitVec.ofNat 64 (p.filter fun a => decide (a.a ≠ 0)).length
      | .ballot =>
        p.foldl (fun m a =>
          if idxOf a.th / 32 = i / 32 && decide (a.a ≠ 0) then orBit m (idxOf a.th % 32) else m) 0
      | .uni => predBit (match p with
        | [] => true
        | x :: r => r.all fun a => a.a = x.a))

/-- The registers of a collective's result. -/
def collRegs : CollOp → Nat
  | .gred _ _ wide _ | .gscan _ _ _ wide _ | .gshf _ wide | .gbcast wide _ => if wide then 2 else 1
  | .gvote _ _ | .regsize _ => 1

/-- The result of a collective for an arrived thread (R199 to R202); REGSIZE's is its status (R191). -/
def collVal (op : CollOp) (T : Nat) (as : List Arrival) (a : Arrival) : Val :=
  match op with
  | .gred o rm wide part => reduceOver o rm wide part T as fun _ => true
  | .gscan o excl rm wide part =>
    reduceOver o rm wide part T as fun i => if excl then decide (i < idxOf a.th) else decide (i ≤ idxOf a.th)
  | .gshf mode _ => shfVal mode T as a
  | .gbcast _ sel => bcastVal sel T as
  | .gvote mode part => voteVal mode part T as (idxOf a.th)
  | .regsize _ => cleanVal 0

/-! ## REGSIZE (R191) -/

/-- Registers in use on a lane of a core: N × d of every resident workgroup whose slice holds the lane (R20, R132). -/
def laneRegs (s : State) (core lane : Nat) : Nat :=
  s.wgs.foldl (fun n (_, w) =>
    if w.core = core && !w.saved && !w.retired && decide (w.base ≤ lane) && decide (lane < w.base + w.hdr.width)
        && !w.released.contains ((lane - w.base) / 8)
    then n + w.regsN * w.hdr.depth else n) 0

/-- The lanes of the slices that a workgroup still holds. -/
def heldLanes (w : Workgroup) : List Nat :=
  (List.range' w.base w.hdr.width).filter fun l => !w.released.contains ((l - w.base) / 8)

/-- Whether a growth to N' registers fits (R191). -/
def growthFits (s : State) (w : Workgroup) (n : Nat) : Bool :=
  (heldLanes w).all fun l => decide (laneRegs s w.core l + (n - w.regsN) * w.hdr.depth ≤ 2048)

/-- A request's clean arrivals. -/
def cleanArrivals (w : Workgroup) : List Arrival := w.arrivals.filter fun a => a.aTok.isNone

/-- The number of registers requested, if the request is valid (R191). -/
def regsizeRequest (w : Workgroup) : Option Nat :=
  match cleanArrivals w with
  | [] => none
  | x :: r =>
    let n := x.a.toNat
    if r.all (fun a => a.a = x.a) && n % 8 = 0 && decide (8 ≤ n) && decide (n ≤ 256) && (w.hdr.queues = 0 || decide (n ≤ 248))
    then some n else none

/-- The end of a REGSIZE: each poisoned thread is suppressed and tainted, the others receive the status, and the rendezvous is over. -/
def regsizeEnd (s : State) (wg : Nat) (status : Word) : State :=
  match wgAt s wg with
  | none => s
  | some w =>
    let s := w.arrivals.foldl (fun s a =>
      match a.aTok with
      | some k => suppress s a.th k [(a.dst, 1)]
      | none => writeN s a.th a.dst 1 (cleanWord status)) s
    modWg s wg fun w => { w with arrivals := [], wantRegs := none }

/-- A register list cut or extended with clean zeros to n registers (R191). -/
def resizeRegs (n : Nat) (rs : List RegVal) : List RegVal := rs.take n ++ List.replicate (n - rs.length) (.clean 0)

/-- An allocation of n registers in force for every thread of a workgroup (R191). A load result still due to a discarded register stays due: the spec
is silent on it (DESIGN CHOICE, log 126). -/
def allocateRegs (s : State) (wg n : Nat) : State :=
  let s := modWg s wg fun w => { w with regsN := n }
  { s with threads := s.threads.map fun p => (p.1, if wgOf p.1 = wg then { p.2 with regs := resizeRegs n p.2.regs } else p.2) }

/-- A REGSIZE granted (R191). -/
def regsizeGrant (s : State) (wg n : Nat) : State := allocateRegs (regsizeEnd s wg 0) wg n

/-- The workgroups resident on a core that have not exited, oldest first. -/
def residentOn (s : State) (core : Nat) : List (Nat × Workgroup) :=
  let ws := s.wgs.filter fun p => p.2.core = core && !p.2.saved && !(liveOf s p.1).isEmpty
  let lt (x y : Nat × Workgroup) : Bool := decide (x.2.age < y.2.age) || (x.2.age = y.2.age && decide (x.2.slot ≤ y.2.slot))
  ws.foldr (fun x l => (l.takeWhile fun y => !lt x y) ++ [x] ++ l.dropWhile fun y => !lt x y) []

/-- A waiting request of a working workgroup granted if it fits (R191). -/
def grantIfFits (s : State) (wg : Nat) : State :=
  match wgAt s wg with
  | none => s
  | some w => match w.wantRegs with
    | some n => if wgActive s w && growthFits s w n then regsizeGrant s wg n else s
    | none => s

/-- The waiting requests of a core that fit, granted in age order (R191). -/
def grantWaiting (s : State) (core : Nat) : State := (residentOn s core).foldl (fun s p => grantIfFits s p.1) s

/-- The deadlock rule: when every workgroup of the core waits in a blocking REGSIZE and no request fits, all complete with status 2, in age order
(R191). -/
def regsizeDeadlock (s : State) (core : Nat) : State :=
  let s := grantWaiting s core
  let ws := residentOn s core
  if !ws.isEmpty && ws.all (fun p => p.2.wantRegs.isSome) then ws.foldl (fun s p => regsizeEnd s p.1 2) s else s

/-- The completion of a REGSIZE's rendezvous: a status, a new allocation, or a wait; the requests that wait and fit are granted first (R191). -/
def regsizeComplete (s : State) (wg : Nat) (w : Workgroup) (tryIt : Bool) : State :=
  match regsizeRequest w with
  | none => regsizeEnd s wg 3
  | some n =>
    if n ≤ w.regsN then regsizeGrant s wg n
    else
      let s := grantWaiting s w.core
      if growthFits s w n then regsizeGrant s wg n
      else if tryIt then regsizeEnd s wg 1
      else regsizeDeadlock (modWg s wg fun w => { w with wantRegs := some n }) w.core

/-! ## Completion (R189) -/

/-- Whether a workgroup's rendezvous completes: every live thread has arrived (R189). -/
def rendezvousReady (s : State) (wg : Nat) (w : Workgroup) : Bool :=
  wgActive s w && w.wantRegs.isNone && !w.arrivals.isEmpty && (liveOf s wg).all fun t => w.arrivals.any fun a => a.th = t

/-- The address at which the arrivals differ from the first. -/
def sameWord (as : List Arrival) : Bool :=
  match as with
  | [] => true
  | x :: r => r.all fun a => a.word = x.word

/-- Arrivals at different words: each destination receives poison of cause INVALID, with one record for each distinct word (R189). The spec gives
the records no order: the model allocates them in the order in which their words were first arrived at (DESIGN CHOICE, log 125). -/
def mixedArrivals (s : State) (as : List Arrival) : State :=
  let words := as.foldl (fun ws a => if ws.contains a.word then ws else ws ++ [a.word]) []
  words.foldl (fun s x =>
    let issue := s.nextIssue
    let s := { s with nextIssue := issue + 1 }
    let s := (as.filter fun a => a.word = x).foldl (fun s a =>
      let k := threadToken s issue a.th (why .invalid x)
      writeN k.1 a.th a.dst (collRegs a.op) (badVal k.2)) s
    endIssue s issue) s

/-- Arrivals at one word: the collective is computed once (R189). -/
def computeCollective (s : State) (wg : Nat) (w : Workgroup) (op : CollOp) : State :=
  match op with
  | .regsize tryIt => regsizeComplete s wg w tryIt
  | _ =>
    let T := w.hdr.width * w.hdr.depth
    let s := w.arrivals.foldl (fun s a => writeN s a.th a.dst (collRegs op) (collVal op T w.arrivals a)) s
    modWg s wg fun w => { w with arrivals := [] }

/-- RENDEZVOUS_COMPLETE (R189). -/
def execRendezvousComplete (wg : Nat) (s : State) : Host.Outcome State Fault Refusal :=
  .next (match wgAt s wg with
    | none => s
    | some w =>
      if rendezvousReady s wg w then
        match w.arrivals with
        | [] => s
        | a :: _ =>
          if sameWord w.arrivals then computeCollective s wg w a.op
          else modWg (mixedArrivals s w.arrivals) wg fun w => { w with arrivals := [] }
      else s)

/-- REGSIZE_GRANT: the waiting requests of a workgroup's core that fit are granted, in age order; where none fits and every workgroup waits, the
deadlock rule acts (R191). -/
def execRegsizeGrant (wg : Nat) (s : State) : Host.Outcome State Fault Refusal :=
  .next (match wgAt s wg with
    | none => s
    | some w =>
      match w.wantRegs with
      | none => s
      | some _ => if wgActive s w then regsizeDeadlock s w.core else s)

end Sys2Proof.Machine
end

