-- ==== Sys2Proof/Machine/Control.lean ====
section
/-! DEFINITION. Span ends: transfers, EXIT, REFILL, YIELD, SYSCALL and BKPT (R39, R122 to R138, R371). -/

namespace Sys2Proof.Machine

/-- A thread ready at a span address, at once or after a YIELD's wait (R123, R136). -/
def goTo (s : State) (t : Nat) (target : DWord) (hold : Nat) : State :=
  modTh s t fun th => { th with span := target, off := 0, cond := .ready s.now hold }

/-- The target of a class B word (R64, R126). -/
def dispTarget (th : Thread) (disp : BitVec 36) : DWord := wordAddr th + (disp.signExtend 64 <<< 3)

/-- What a successor that is not valid aborts with (R125). The table gives a target with bits [2:0] and bits [63:56] not zero both tokens and no
order: the model makes INVALID (DESIGN CHOICE, log 123). -/
def badTarget (v : Val) : Option AddrFault :=
  match v.tok with
  | some k => some (.tok k)
  | none =>
    if v.data.toNat % 8 ≠ 0 then some (.make (why .invalid v.data))
    else if !canonical v.data then some (.make (why .noncanon v.data))
    else none

/-- The abort with a token, or with one that is made (R125). -/
def abortFault (s : State) (issue t : Nat) : AddrFault → State
  | .tok k => abortRegion s t k
  | .make f => abortWith s issue t f

/-- A transfer to a successor, with its other effect, or the abort (R123, R125). -/
def transfer (s : State) (issue t : Nat) (target : Val) (effect : State → State) (hold : Nat) : State :=
  match badTarget target with
  | some f => abortFault s issue t f
  | none => goTo (effect s) t target.data hold

/-- A transfer of each thread, whose target and link the word gives. -/
def transferWord (i : Instr) (target : Thread → Val) (link : Option Reg) (hold : Nat) (s : State) :
    Host.Outcome State Fault Refusal :=
  runWord i (fun issue ts s => ts.foldl (fun s t =>
    match thOf s t with
    | none => s
    | some th =>
      transfer s issue t (target th) (fun s =>
        match link with
        | some d => writeD s t d 2 (cleanVal (wordAddr th + 8))
        | none => s) hold) s) s

/-- NEXT (R128). -/
def execNext (disp : BitVec 36) (s : State) : Host.Outcome State Fault Refusal :=
  transferWord (.next disp) (fun th => cleanVal (dispTarget th disp)) none 0 s

/-- BR's successor: the target if the condition holds, else the next word; a poisoned condition has none (R125, R128). -/
def brTarget (a : Reg) (disp : BitVec 36) (z : Bool) (th : Thread) : Val :=
  let c := reg1 th a
  match c.tok with
  | some k => badVal k
  | none => cleanVal (if (decide (c.data ≠ 0)) != z then dispTarget th disp else wordAddr th + 8)

/-- BR (R128). -/
def execBr (a : Reg) (disp : BitVec 36) (z : Bool) (s : State) : Host.Outcome State Fault Refusal :=
  transferWord (.br a disp z) (brTarget a disp z) none 0 s

/-- BRX (R128). -/
def execBrx (a : Reg) (s : State) : Host.Outcome State Fault Refusal := transferWord (.brx a) (fun th => reg2 th a) none 0 s

/-- CALL (R128). -/
def execCall (d : Reg) (disp : BitVec 36) (s : State) : Host.Outcome State Fault Refusal :=
  transferWord (.call d disp) (fun th => cleanVal (dispTarget th disp)) (some d) 0 s

/-- CALLX: the target is read before the link is written (R12, R128). -/
def execCallx (d a : Reg) (s : State) : Host.Outcome State Fault Refusal :=
  transferWord (.callx d a) (fun th => reg2 th a) (some d) 0 s

/-- RET (R128). -/
def execRet (a : Reg) (s : State) : Host.Outcome State Fault Refusal := transferWord (.ret a) (fun th => reg2 th a) none 0 s

/-- YIELD: 64 opportunities of the port, after this one, or the issue of a group without the thread (R136); 66 counts this one too. -/
def execYield (disp : BitVec 36) (s : State) : Host.Outcome State Fault Refusal :=
  transferWord (.yield disp) (fun th => cleanVal (dispTarget th disp)) none 66 s

/-- EXIT: its implicit commit is done; the thread ends (R131). -/
def execExit (s : State) : Host.Outcome State Fault Refusal := runWord .exit (fun _ ts s => ts.foldl endThread s) s

/-! ## Starting threads (R39) -/

/-- The recovery target of a header, if it declares one: RECTOK is 0 only without .recover (R39, R327). -/
def headerTarget (h : Header) : Option DWord := if h.rectok = 0 then none else some h.recover

def headerRegion (h : Header) (start : DWord) : Region :=
  { start := start, target := headerTarget h, tokReg := h.rectok, mode := .plain, taint := false, first := 0, list := [], full := false,
    stores := [], reads := [] }

/-- A thread at its start (R39): registers zero and clean but the argument pointer in v2:v3. -/
def newThread (s : State) (w : Workgroup) (i : Nat) (span : DWord) : Thread :=
  let th : Thread :=
    { regs := List.replicate w.regsN (.clean 0), span := span, off := 0, lane := laneOf w.base w.hdr.width w.hdr.swizzle i,
      wid := BitVec.ofNat 64 (w.g * 2 ^ (w.hdr.workid.headD 0) + i), ldc := 0, stc := 0, cpc := 0, mxc := 0,
      region := headerRegion w.hdr span, cond := .ready s.now 0, pending := [], recovTok := none, relSince := none, unacked := none, acted := false,
      serial := s.nextSerial }
  setRegs th 2 (splitRegs 2 w.arg.toNat)

/-- A thread started in a slot of a workgroup; the FIFOs of its lane start empty (R39; log 101). -/
def startThread (s : State) (wg i : Nat) (span : DWord) : State :=
  match wgAt s wg with
  | none => s
  | some w =>
    let lane := laneOf w.base w.hdr.width w.hdr.swizzle i
    let s := modWg s wg fun w => { w with vacant := del w.vacant i, fifos := w.fifos.filter fun f => f.1 / 8 ≠ lane }
    { s with threads := put s.threads (tidOf wg i) (newThread s w i span), nextSerial := s.nextSerial + 1 }

/-! ## REFILL (R133, R134) -/

/-- The launch of a thread's workgroup. -/
def launchOf (s : State) (t : Nat) : Option (Nat × Launch) :=
  match wgAt s (wgOf t) with
  | some w => (look s.launches w.launch).map fun l => (w.launch, l)
  | none => none

/-- One item popped from a thread's distributor, if there is one (R133). -/
def popItem (s : State) (t : Nat) : Option Nat × State :=
  match launchOf s t with
  | none => (none, s)
  | some (k, l) =>
    if l.nextItem < l.recd.nitems then (some l.nextItem, modLaunch s k fun l => { l with nextItem := l.nextItem + 1 }) else (none, s)

/-- A pop for each issuing thread, and the threads that find the distributor empty. -/
def refillPops (issue : Nat) (d : Reg) (disp : BitVec 36) : List Nat → State → List Nat × State
  | [], s => ([], s)
  | t :: ts, s =>
    match thOf s t with
    | none => refillPops issue d disp ts s
    | some th =>
      let target := cleanVal (dispTarget th disp)
      match badTarget target with
      | some f => refillPops issue d disp ts (abortFault s issue t f)
      | none =>
        let p := popItem s t
        match p.1 with
        | some item => refillPops issue d disp ts (goTo (writeD p.2 t d 2 (cleanVal (BitVec.ofNat 64 item))) t target.data 0)
        | none =>
          let r := refillPops issue d disp ts p.2
          (t :: r.1, r.2)

/-- The vacant slots of a persistent workgroup that a REFILL may start: their slice still holds registers and their EXIT issued in an
earlier cycle (R134). -/
def startableSlots (s : State) (wg : Nat) : List Nat :=
  match wgAt s wg with
  | none => []
  | some w =>
    if w.hdr.persist then
      (w.vacant.filter fun (i, c) =>
        decide (c < s.now) && !w.released.contains ((laneOf w.base w.hdr.width w.hdr.swizzle i - w.base) / 8)).map
          fun p => tidOf wg p.1
    else []

/-- A thread that REFILL starts, in the state of R39: v2:v3 hold the launch's argument pointer, in a forked workgroup too, and its start acquires at
.pkg (R134, R309). -/
def startRefilled (s : State) (t : Nat) (point : DWord) : State :=
  let s := startThread s (wgOf t) (idxOf t) point
  match wgAt s (wgOf t), launchOf s t with
  | some w, some (_, l) => modTh (dropSelfInv s w.core .pkg) t fun th => setRegs th 2 (splitRegs 2 l.recd.args.toNat)
  | _, _ => s

/-- Slots started in order, while items last (R134). -/
def startSlots (d : Reg) (point : DWord) (s : State) (t : Nat) : State :=
  let p := popItem s t
  match p.1 with
  | some item => writeD (startRefilled p.2 t point) t d 2 (cleanVal (BitVec.ofNat 64 item))
  | none => s

/-- Distinct workgroups of some threads. -/
def wgsOf (ts : List Nat) : List Nat := ts.foldl (fun ws t => if ws.contains (wgOf t) then ws else ws ++ [wgOf t]) []

def refillBody (d : Reg) (disp : BitVec 36) (issue : Nat) (ts : List Nat) (s : State) : State :=
  let point : Option DWord := (ts.findSome? (thOf s)).map fun th => dispTarget th disp
  let slots := (wgsOf ts).flatMap (startableSlots s)
  let r := refillPops issue d disp ts s
  let s := commitBefore r.2 issue r.1
  let s := (r.1.filter (isInFlight s)).foldl endThread s
  match point with
  | some p =>
    if (badTarget (cleanVal p)).isSome then s
    else (sortThs s (slots.filter fun t => match wgAt s (wgOf t) with
      | some w => !w.released.contains ((laneOf w.base w.hdr.width w.hdr.swizzle (idxOf t) - w.base) / 8)
      | none => false)).foldl (startSlots d p) s
  | none => s

/-- REFILL (R133, R134). -/
def execRefill (d : Reg) (disp : BitVec 36) (s : State) : Host.Outcome State Fault Refusal :=
  runWord (.refill d disp) (refillBody d disp) s

/-! ## SYSCALL and BKPT (R137, R138, R371) -/

/-- The service queue entry of a request (R371). -/
def serviceEntry (args : BitVec 256) (resume wid : DWord) (reqid : Nat) (origin : DWord) (off code : Byte) (lane core : Nat)
    (bkpt : Bool) : BitVec 1024 :=
  args ++ resume ++ wid ++ BitVec.ofNat 64 reqid ++ origin ++ 0#464 ++ off ++ code ++ BitVec.ofNat 8 lane ++ BitVec.ofNat 8 core ++ 0#15
    ++ BitVec.ofBool bkpt

/-- A request queued for a partition, with the thread parked (R137, R138, R371). -/
def sendRequest (s : State) (t : Nat) (th : Thread) (w : Workgroup) (args : BitVec 256) (octet : Nat) (label : DWord) (code : Byte)
    (bkpt : Bool) : State :=
  let p := partAt s w.part
  let id := p.reqs + 1
  let e := serviceEntry args label th.wid id th.span (BitVec.ofNat 8 th.off) code th.lane w.core bkpt
  let r : Request :=
    { th := t, serial := th.serial, octet := octet, isBkpt := bkpt, label := label, origin := th.span, originOff := th.off }
  let s := modPart s w.part fun p =>
    { p with reqs := id, pending := put p.pending id r, serviceWait := p.serviceWait ++ [e] }
  modTh s t fun th => { th with cond := if bkpt then .bkpt id else .syscall id }

/-- SYSCALL for one thread, its release done (R137). Where the release's bound has passed, the operation that is suppressed is the request:
nothing is sent, and the thread goes to the label, if that is valid, without the acquire of a completion (R319; log 42). The argument octet is
checked before the label (log 42). -/
def syscallThread (a : Reg) (n : BitVec 8) (disp : BitVec 36) (issue : Nat) (s : State) (t : Nat) : State :=
  match thOf s t, wgAt s (wgOf t) with
  | some th, some w =>
    let s := releaseActs s t
    match th.unacked with
    | some x =>
      transfer (suppressWith s issue t (.make ⟨.remoteUnacked, some x, false, true⟩) []) issue t (cleanVal (dispTarget th disp)) id 0
    | none =>
      match firstTok (readRegs th a.toNat 8) with
      | some k => abortRegion s t k
      | none =>
        match badTarget (cleanVal (dispTarget th disp)) with
        | some f => abortFault s issue t f
        | none => sendRequest s t th w (octetRec th a.toNat) a.toNat (dispTarget th disp) n false
  | _, _ => s

/-- SYSCALL (R137). -/
def execSyscall (a : Reg) (n : BitVec 8) (disp : BitVec 36) (s : State) : Host.Outcome State Fault Refusal :=
  runWord (.syscall a n disp) (fun issue ts s => ts.foldl (syscallThread a n disp issue) s) s

/-- BKPT for one thread: a debug event and a park, or NEXT where the partition's debug enable is clear (R138). -/
def bkptThread (n : BitVec 8) (disp : BitVec 36) (issue : Nat) (s : State) (t : Nat) : State :=
  match thOf s t, wgAt s (wgOf t) with
  | some th, some w =>
    let target := cleanVal (dispTarget th disp)
    match badTarget target with
    | some f => abortFault s issue t f
    | none =>
      if (partAt s w.part).pdbg then sendRequest s t th w 0 0 target.data n true else goTo s t target.data 0
  | _, _ => s

/-- BKPT (R138). -/
def execBkpt (n : BitVec 8) (disp : BitVec 36) (s : State) : Host.Outcome State Fault Refusal :=
  runWord (.bkpt n disp) (fun issue ts s => ts.foldl (bkptThread n disp issue) s) s

end Sys2Proof.Machine
end

