-- ==== Sys2Proof/Machine/Issue.lean ====
section
/-! DEFINITION. Issue opportunities, the forming of groups, YIELD's eligibility, and the end of a park (R136, R183 to R186, R351). -/

namespace Sys2Proof.Machine

/-- Whether a port's opportunity of this cycle is still to come: it has one, and port 0's is before port 1's (R133, R183, R194, R196). -/
def portDue (s : State) (core port : Nat) : Bool :=
  match (coreAt s core).lastOpp with
  | some (c, p) => !(c = s.now && decide (port ≤ p))
  | none => true

/-- ISSUE_OPPORTUNITY: the port forms a new group or picks the earliest in-flight group; the step that follows issues the group's word
(R183, R351). -/
def execIssueOpportunity (core port : Nat) (s : State) : Host.Outcome State Fault Refusal :=
  .next (match s.focus with
    | some _ => s
    | none =>
      if s.power ≠ .on || 256 ≤ core || 2 ≤ port then s
      else if portDue s core port then selectWord (modCore s core fun c => { c with lastOpp := some (s.now, port) }) core port
      else if s.turn = (core, port) then nextTurn s
      else s)

/-- YIELD_ELIGIBLE: a thread that gave way is ready again (R136). -/
def execYieldEligible (th : Nat) (s : State) : Host.Outcome State Fault Refusal :=
  .next (modTh s th fun x =>
    match x.cond with
    | .ready _ 1 => { x with cond := .ready s.now 0 }
    | _ => x)

/-- Whether a member's event has happened (R186): its rendezvous is complete, or nothing parks the word any more. The members' phases have to be
complete at one moment (log 115). -/
def parkOver (s : State) (p : Park) (i : Instr) (t : Nat) : Bool :=
  match p with
  | .rendezvous => match wgAt s (wgOf t) with
    | some w => !w.arrivals.any fun a => a.th = t
    | none => true
  | .join => !s.ops.any fun (_, o) => o.kind = .joinRead && o.parts.any fun m => m.th = t
  | .release | .order => settled i s t && (match stallOf i s t with
      | some (.park _) => false
      | _ => true)
  | _ =>
    (match stallOf i s t with
      | some (.park _) => false
      | _ => true)
    && (match phaseStallHere i s t with
      | some (.park _) => false
      | _ => true)

/-- The members whose event a parked group awaits: those for which the word is an instruction; the others abort when it issues (R79, R185). -/
def parkedFor (s : State) (p : Park) (i : Instr) (G : Group) : List Nat :=
  if p = .rendezvous || p = .join then G.members else G.members.filter fun t => legalHere i s t && !txStops i s t

/-- GROUP_UNPARK: a group whose members' events have all happened returns to the in-flight set when it has a place, formed now (R185,
R186). A completed rendezvous, or JOIN's wait, was its word's issue, so the members stand at the next word. -/
def execGroupUnpark (g : Nat) (s : State) : Host.Outcome State Fault Refusal :=
  .next (match grpOf s g with
    | none => s
    | some G =>
      match G.park with
      | none => s
      | some (p, i) =>
        if (parkedFor s p i G).all (parkOver s p i) && decide ((inFlightOn s G.core G.port).length < 16) then
          let s := setGrp s g { G with park := none, waiting := false, formed := s.now }
          if p = .rendezvous || p = .join then G.members.foldl (fun s t => modTh s t fun th => { th with off := th.off + 1 }) s else s
        else s)

end Sys2Proof.Machine
end

