-- ==== Sys2Proof/Machine/Placement.lean ====
section
/-! DEFINITION. What a core has room for, and the placing of workgroups (R20, R26, R33, R39, R181, R182, R204, R228, R333, R343, R367). -/

namespace Sys2Proof.Machine

/-! ## Core-pinned granules (R204, R367) -/

/-- The granules that system software has asked to be carved. -/
def pinmapOf (s : State) (core : Nat) : BitVec 24 := lookD s.pinmap core 0

/-- Scratchpad lines that workgroups on a core hold. -/
def linesHeld (s : State) (core : Nat) : Nat :=
  s.wgs.foldl (fun n (_, w) => if w.core = core && !w.saved && !w.retired then n + w.hdr.scratch else n) 0

/-- Requested granules whose lines are free take effect, in ascending order (R367). Lines need not be adjacent, so only their number counts
(log 20). -/
def settleCarve (s : State) (core : Nat) : State :=
  (List.range 24).foldl (fun s g =>
    let c := (coreAt s core).carve
    if (pinmapOf s core).getLsbD g && !c.getLsbD g && decide (linesHeld s core + 512 * (popc c + 1) ≤ 12288)
    then modCore s core fun x => { x with carve := c ||| BitVec.ofNat 24 (2 ^ g) } else s) s

/-! ## Room on a core (R181, R204, R228) -/

/-- What is in use on a core: thread positions and registers of each lane, scratchpad lines, tiles, and slots. -/
structure Occ where
  threads : List Nat
  regs : List Nat
  lines : Nat
  tiles : Nat
  slots : List Nat
  deriving DecidableEq, Repr

/-- A core that holds nothing. -/
def Occ.empty : Occ := { threads := List.replicate 64 0, regs := List.replicate 64 0, lines := 0, tiles := 0, slots := [] }

/-- Numbers added on the lanes of a window. -/
def addLanes (xs : List Nat) (on : Nat → Bool) (n : Nat) : List Nat := xs.zipIdx.map fun (x, l) => if on l then x + n else x

/-- Whether a workgroup's slice that holds a lane still holds its registers (R20). -/
def holdsLane (w : Workgroup) (l : Nat) : Bool :=
  decide (w.base ≤ l) && decide (l < w.base + w.hdr.width) && !w.released.contains ((l - w.base) / 8)

/-- A workgroup of the core counted: a saved one keeps its slot only (R182, R355), a retired one the tiles that it still holds (R228). -/
def Occ.add (o : Occ) (w : Workgroup) : Occ :=
  if w.retired then (if w.saved then o else { o with tiles := o.tiles + w.tiles.length }) else
  let o := { o with slots := w.slot :: o.slots }
  if w.saved then o
  else
    { o with
      threads := addLanes o.threads (holdsLane w) w.hdr.depth, regs := addLanes o.regs (holdsLane w) (w.regsN * w.hdr.depth),
      lines := o.lines + w.hdr.scratch, tiles := o.tiles + w.tiles.length }

/-- What is in use on a core by the workgroups that count, and by carved granules. -/
def occOf (s : State) (core : Nat) (counts : Workgroup → Bool) : Occ :=
  let o := (s.wgs.filter fun p => p.2.core = core && counts p.2).foldl (fun o p => o.add p.2) Occ.empty
  { o with lines := o.lines + 512 * popc ((coreAt s core).carve ||| pinmapOf s core) }

/-- Whether a kernel's workgroups use the matrix engine (R228). -/
def isMatrixKernel (h : Header) : Bool :=
  h.tlbind.any fun b => match b with
    | some (.matrix, _) => true
    | _ => false

/-- Tiles that a workgroup is granted: two to a partner of a Tandem pair, else four (R228). -/
def tilesOf (h : Header) (paired : Bool) : Nat := if isMatrixKernel h then (if paired && h.tandem then 2 else 4) else 0

/-- Whether a window of lanes has room (R181). -/
def windowFits (o : Occ) (h : Header) (base : Nat) : Bool :=
  (List.range' base h.width).all fun l =>
    decide ((o.threads[l]?).getD 32 + h.depth ≤ 32) && decide ((o.regs[l]?).getD 2048 + h.regs * h.depth ≤ 2048)

/-- The window and the slot of one workgroup: the lowest base that qualifies, the lowest free slot (R181, R182). -/
def fitOne (o : Occ) (h : Header) (paired : Bool) : Option (Nat × Nat) :=
  if h.width = 0 || 12288 < o.lines + h.scratch || 4 < o.tiles + tilesOf h paired then none
  else match ((List.range (64 / h.width)).map (h.width * ·)).find? (windowFits o h), (List.range 256).find? fun k => !o.slots.contains k with
    | some b, some k => some (b, k)
    | _, _ => none

/-- What is in use once a workgroup is placed too. -/
def Occ.place (o : Occ) (h : Header) (paired : Bool) (f : Nat × Nat) : Occ :=
  let on (l : Nat) : Bool := decide (f.1 ≤ l) && decide (l < f.1 + h.width)
  { threads := addLanes o.threads on h.depth, regs := addLanes o.regs on (h.regs * h.depth), lines := o.lines + h.scratch,
    tiles := o.tiles + tilesOf h paired, slots := f.2 :: o.slots }

/-- The windows and slots of n workgroups, where all of them fit at once (R33, R181). -/
def fitAll (o : Occ) (h : Header) (paired : Bool) : Nat → Option (List (Nat × Nat))
  | 0 => some []
  | n + 1 =>
    match fitOne o h paired with
    | none => none
    | some f => (fitAll (o.place h paired f) h paired n).map (f :: ·)

/-- A core holds at most 256 workgroups, one to a slot (R182). -/
def fitCohort (o : Occ) (h : Header) (n : Nat) : Option (List (Nat × Nat)) := if 256 < n then none else fitAll o h true n

/-- Free thread positions of a core beside the workgroups that count (R338, R339). -/
def freePositions (s : State) (counts : Workgroup → Bool) (core : Nat) : Nat :=
  if (coreAt s core).offline then 0 else 2048 - (occOf s core counts).threads.foldl (· + ·) 0

/-! ## Placing a workgroup (R39, R182, R228, R333) -/

/-- Threads of a port that are resident on the lanes of a window (R182). -/
def portThreads (s : State) (core base width port : Nat) : Nat :=
  (s.threads.filter fun (t, th) =>
    decide (base ≤ th.lane) && decide (th.lane < base + width) && match wgAt s (wgOf t) with
      | some w => w.core = core && !w.saved && portOf w t = port
      | none => false).length

/-- A tile at its grant (R228, R249). -/
def Tile.fresh : Tile := { elems := [], rowPoison := [], struck := [], phase := 0, cc := [], cr := [], history := [], replayable := true, integer := false }

/-- A workgroup as it is placed. -/
def newWorkgroup (s : State) (core : Nat) (f : Nat × Nat) (l part : Nat) (h : Header) (g : Nat) (arg : DWord) (paired : Bool)
    (join : Option (Loc × DWord)) (forked : Bool) : Workgroup :=
  { core := core, slot := f.2,
    parity := if portThreads s core f.1 h.width 1 < portThreads s core f.1 h.width 0 then 1 else 0,
    base := f.1, age := s.now, launch := l, g := g, hdr := h, arg := arg, part := part, regsN := h.regs, vacant := [], released := [], cir := 0,
    tls := h.tlbind.map fun b => ⟨b, 0, 0, []⟩, spad := [], spadPoison := [], absent := [], arrScopes := [], fifos := [], arrivals := [], wantRegs := none,
    tiles := List.replicate (tilesOf h paired) Tile.fresh, tandemIdx := 0, soloPartner := [], soloMismatch := [], join := join, forked := forked, laneCycles := 0, laneAt := s.now,
    residency := 0, charges := 0, lanesRun := 0, moved := 0, saved := false, retired := false }

/-- A workgroup placed, with every thread at its start (R39). -/
def placeWorkgroup (s : State) (w : Workgroup) (entry : DWord) : State :=
  let k := s.nextWg
  let s := { s with wgs := put s.wgs k w, nextWg := k + 1 }
  (List.range (w.hdr.width * w.hdr.depth)).foldl (fun s i => startThread s k i entry) s

end Sys2Proof.Machine
end

