-- ==== Sys2Proof/Machine/Headers.lean ====
section
/-! DEFINITION. Kernel headers and launch records: their fields and their checks (R15, R17, R26, R32, R327, R328, R332, R335). -/

namespace Sys2Proof.Machine

/-! ## Kernel headers (R327, R328) -/

/-- n bits of a wide word as a number. -/
def field {w : Nat} (x : BitVec w) (lo n : Nat) : Nat := (x.extractLsb' lo n).toNat

/-- Engine codes of TLBIND (R327). -/
def engineOfCode : Nat → Option Engine
  | 0 => some .matrix
  | 1 => some .copy
  | 2 => some .xfer
  | 3 => some .freeze
  | 4 => some .launch
  | _ => none

/-- Scope codes (R67). -/
def scopeOfCode : Nat → Option Scope
  | 0 => some .grp
  | 1 => some .core
  | 2 => some .clu
  | 3 => some .die
  | 4 => some .pkg
  | 5 => some .swm
  | 6 => some .sys
  | _ => none

/-- The binding that a TLBIND byte declares, or none where the byte breaks R327. -/
def bindOf (b : Nat) : Option (Option (Engine × Scope)) :=
  if b = 0 then some none
  else if b < 128 || b / 8 % 2 = 1 then none
  else match engineOfCode (b / 16 % 8), scopeOfCode (b % 8) with
    | some e, some sc => some (some (e, sc))
    | _, _ => none

/-- TLBIND byte k. -/
def bindByte (x : BitVec 2048) (k : Nat) : Nat := field x (128 + 8 * k) 8

/-- The fields of a header (R327). -/
def headerOf (x : BitVec 2048) : Header :=
  let recen := field x 338 1 = 1
  { gen := field x 192 8, width := field x 200 8, depth := field x 208 8, regs := field x 216 16, scratch := field x 304 16,
    workid := (List.range 6).map fun k => field x (256 + 8 * k) 8,
    tlbind := (List.range 8).map fun k => (bindOf (bindByte x k)).getD none,
    queues := field x 232 8, tandem := field x 337 1 = 1, swizzle := field x 240 8, persist := field x 336 1 = 1,
    recover := if recen then x.extractLsb' 64 64 else 0, rectok := if recen then field x 248 8 else 0, entry := x.extractLsb' 0 64,
    argsize := field x 320 16 }

/-- A span address that a header may name. -/
def addrOk (a : DWord) : Bool := a.toNat % 8 = 0 && canonical a

/-- The third check of R328. -/
def headerFieldsOk (x : BitVec 2048) : Bool :=
  let h := headerOf x
  field x 339 1709 = 0 && [8, 16, 32, 64].contains h.width && [1, 2, 4, 8, 16, 32].contains h.depth
    && h.regs % 8 = 0 && decide (8 ≤ h.regs) && decide (h.regs ≤ 256) && decide (h.queues ≤ 8) && (h.queues = 0 || decide (h.regs ≤ 248))
    && decide (h.scratch ≤ 12288) && decide (h.swizzle < h.width) && (List.range 8).all (fun k => (bindOf (bindByte x k)).isSome)
    && addrOk h.entry
    && (field x 338 1 = 0 || (addrOk h.recover && decide (0 < h.rectok) && decide (h.rectok < h.regs)))

/-- Width of field Fk of a work identifier (R32). -/
def widthOf (h : Header) (k : Nat) : Nat := (h.workid[k]?).getD 0

/-- The checks of R328 on a header that could be read. -/
def headerStatus (x : BitVec 2048) : LStatus :=
  let h := headerOf x
  if h.gen ≠ 1 then .gen
  else if !headerFieldsOk x then .header
  else if 2 ^ widthOf h 0 ≠ h.width * h.depth || 64 < h.workid.foldl (· + ·) 0 || (h.tandem && widthOf h 1 = 0) then .header
  else if 8 < widthOf h 1 || (fitCohort Occ.empty h (2 ^ widthOf h 1)).isNone then .place
  else .done

/-- The header at an address of a partition's space, if it can be read (R328). -/
def readHeader (s : State) (part : Nat) (a : DWord) : Option (BitVec 2048) × State :=
  let r := hubTranslate s part a .read
  match r.1 with
  | .error _ => (none, r.2)
  | .ok l =>
    if a.toNat % 256 ≠ 0 || !isPkgMem (locHome r.2 l) || (poisonAt r.2 l 256).isSome then (none, r.2)
    else
      let m := readLoc r.2 l 256
      (some (BitVec.ofNat 2048 (leNat m.1)), m.2)

/-- A header that stands for one that was not read. -/
def Header.none : Header :=
  { gen := 0, width := 0, depth := 0, regs := 0, scratch := 0, workid := [], tlbind := [], queues := 0, tandem := false, swizzle := 0,
    persist := false, recover := 0, rectok := 0, entry := 0, argsize := 0 }

/-! ## Launch records (R332) -/

/-- The fields of a record. -/
def recordOf (x : BitVec 512) : LaunchRec :=
  { sigval := field x 448 64, wval1 := field x 384 64, wval0 := field x 320 64, stataddr := x.extractLsb' 256 64, args := x.extractLsb' 192 64,
    khdr := x.extractLsb' 128 64, nitems := field x 96 32, nwg := field x 64 32, sigidx := field x 56 8, widx1 := field x 48 8,
    widx0 := field x 40 8, part := field x 28 4, inten := field x 12 1 = 1, sigen := field x 11 1 = 1, w1en := field x 10 1 = 1,
    w0en := field x 9 1 = 1, prio := field x 0 2, reserved := field x 32 8 ≠ 0 || field x 13 15 ≠ 0 || field x 2 7 ≠ 0 }

/-- What stands for a record that lies in a poisoned sector, of which no field can be read: it fails with RECORD (R348, log 24). -/
def LaunchRec.unreadable : LaunchRec :=
  { sigval := 0, wval1 := 0, wval0 := 0, stataddr := 0, args := 0, khdr := 0, nitems := 0, nwg := 0, sigidx := 0, widx1 := 0, widx0 := 0,
    part := 0, inten := false, sigen := false, w1en := false, w0en := false, prio := 0, reserved := true }

/-- The second check of R335. -/
def recordOk (r : LaunchRec) : Bool := !r.reserved && decide (1 ≤ r.nwg) && r.stataddr.toNat % 32 = 0 && canonical r.stataddr

def sigOf (p : Partition) (i : Nat) : Nat := lookD p.sig i 0

/-- Whether a record's enabled waits are met on a partition's signal timelines (R334, R335). -/
def waitsMet (p : Partition) (r : LaunchRec) : Bool :=
  (!r.w0en || decide (r.wval0 ≤ sigOf p r.widx0)) && (!r.w1en || decide (r.wval1 ≤ sigOf p r.widx1))

/-- Steps 4 and 5 of R335: the status, and the header. -/
def checkRecord (s : State) (part : Nat) (r : LaunchRec) : LStatus × Header × State :=
  let x := readHeader s part r.khdr
  match x.1 with
  | none => (.header, Header.none, x.2)
  | some bits =>
    let h := headerOf bits
    match headerStatus bits with
    | .done => (if r.nwg ≤ 2 ^ ((h.workid.drop 1).foldl (· + ·) 0) then .done else .record, h, x.2)
    | st => (st, h, x.2)

end Sys2Proof.Machine
end

