-- ==== Sys2Proof/Machine/Tasks.lean ====
section
/-! DEFINITION. Work deques and tasks: FORK and JOIN, the taking and the stealing of tasks, and their start (R281 to R283, R343, R346, R347). -/

namespace Sys2Proof.Machine

/-! ## Starting a task (R282, R343) -/

/-- Whether a core may run a task and has room for it: its partition is running and its launch stands (R282, R353). -/
def taskFits (s : State) (core : Nat) (t : Task) : Bool :=
  let c := coreAt s core
  !c.offline && c.reserved.isNone && (partAt s t.part).pstate = .running && launchLive s t.launch
    && (fitOne (occOf s core fun _ => true) t.hdr false).isSome

/-- v4:v5 of each thread of a workgroup. -/
def setPair45 (s : State) (wg : Nat) (x : DWord) : State :=
  { s with threads := s.threads.map fun p => (p.1, if wgOf p.1 = wg then setRegs p.2 4 (splitRegs 2 x.toNat) else p.2) }

/-- A task's workgroup starts on a core, with an acquire at .die (R343, R346). -/
def startTask (s : State) (core : Nat) (t : Task) : State :=
  match fitOne (occOf s core fun _ => true) t.hdr false with
  | none => s
  | some f =>
    let s := dropSelfInv s core .die
    let w := newWorkgroup s core f t.launch t.part t.hdr t.g t.v23 false t.join true
    let s := placeWorkgroup s w t.entry
    setPair45 s (s.nextWg - 1) t.v45

/-! ## Takes and steals (R281 to R283) -/

/-- Whether a core can start the newest task of its own deque. -/
def ownStarts (s : State) (core : Nat) : Bool :=
  match (coreAt s core).deque with
  | t :: _ => taskFits s core t
  | [] => false

/-- DEQUE_TAKE: the owning core takes the newest task (R281, R283). -/
def execDequeTake (core : Nat) (s : State) : Host.Outcome State Fault Refusal :=
  .next (match (coreAt s core).deque with
    | t :: r =>
      if taskFits s core t && takeDue s core 0 then startTask (modCore s core fun c => { c with deque := r, lastTake := some (s.now, 0) }) core t
      else s
    | [] => s)

/-- The deques that a search visits, in order, with whether the visit is within the cluster (R282). -/
def searchOrder (core : Nat) : List (Nat × Bool) :=
  let c := core % 8
  let k := core / 8 % 8
  let d := 64 * (core / 64)
  (List.range' 1 7).map (fun j => (d + 8 * k + (c + j) % 8, true))
    ++ (List.range' 1 7).flatMap fun i => (List.range 8).map fun j => (d + 8 * ((k + i) % 8) + (c + j) % 8, false)

/-- Whether a task may be stolen from within its cluster, or from elsewhere in its die (R281). -/
def reaches (t : Task) (near : Bool) : Bool :=
  match t.reach with
  | .core => false
  | .clu => near
  | .die => true

/-- The task that a visit of a deque takes, if its oldest one qualifies. One that the core could not start, though it reaches it, is passed over like one
that does not reach it: the spec names reach as what qualifies and does not say what a search does with it (DESIGN CHOICE, log 122). -/
def visitTakes (s : State) (core : Nat) (x : Nat × Bool) : Option (Nat × Task) :=
  match (coreAt s x.1).deque.getLast? with
  | some t => if reaches t x.2 && taskFits s core t then some (x.1, t) else none
  | none => none

/-- The first deque whose oldest task qualifies (R282). -/
def searchFinds (s : State) (core : Nat) : Option (Nat × Task) := (searchOrder core).findSome? (visitTakes s core)

/-- The deques that a search visits: those that it passes over, and the one in which it finds a task (R282). -/
def searchVisits (s : State) (core : Nat) : List Nat :=
  let passed := (searchOrder core).takeWhile fun x => (visitTakes s core x).isNone
  passed.map (·.1) ++ (searchFinds s core).toList.map (·.1)

/-- A search's visits take their place among the operations of the cycle on each deque that holds or has held something in it (R283). -/
def visited (s : State) (core : Nat) (vs : List Nat) : State :=
  vs.foldl (fun s v => modCore s v fun c => { c with lastTake := some (s.now, 1 + core % 64) }) s

/-- Whether a core may search now: a search that found nothing is not repeated for 256 cycles (R282). -/
def searchDue (s : State) (core : Nat) : Bool :=
  !ownStarts s core && match (coreAt s core).lastSearch with
    | some c => decide (c + 256 ≤ s.now)
    | none => true

/-- The kernel that takes the least of a core: one slice, a thread deep, with the fewest registers (R327). -/
def leastHeader : Header :=
  { gen := 0, width := 8, depth := 1, regs := 8, scratch := 0, workid := [], tlbind := [], queues := 0, tandem := false, swizzle := 0,
    persist := false, recover := 0, rectok := 0, entry := 0, argsize := 0 }

/-- Whether a core has the lanes and registers to start a task at all (R204, R282). -/
def hasRoom (s : State) (core : Nat) : Bool :=
  let c := coreAt s core
  !c.offline && c.reserved.isNone && (fitOne (occOf s core fun _ => true) leastHeader false).isSome

/-- DEQUE_SEARCH: a steal of the oldest task of the first deque that qualifies, at its turn among the operations of the cycle on each deque that it
visits (R282, R283). A core without room does not search. -/
def execDequeSearch (core : Nat) (s : State) : Host.Outcome State Fault Refusal :=
  let vs := searchVisits s core
  .next (if core < 256 && searchDue s core && hasRoom s core && vs.all (fun v => takeDue s v (1 + core % 64)) then
    match searchFinds s core with
    | some (v, t) =>
      let s := modCore (visited s core vs) v fun c => { c with deque := c.deque.dropLast }
      startTask (modCore s core fun c => { c with lastSearch := none }) core t
    | none => modCore (visited s core vs) core fun c => { c with lastSearch := some s.now }
  else s)

/-- Whether a core can start a task now, which it does before it accepts a cohort (R338). -/
def canStartTask (s : State) (core : Nat) : Bool := ownStarts s core || (searchDue s core && (searchFinds s core).isSome)

/-! ## FORK (R346) -/

/-- Pair k of an octet. -/
def octetPair (th : Thread) (a k : Nat) : DWord := BitVec.ofNat 64 (joinRegs (readRegs th (a + 2 * k) 2))

/-- The task of a FORK. -/
def taskOf (th : Thread) (w : Workgroup) (a : Reg) (disp : BitVec 36) (reach : Reach) (join : Option (Loc × DWord)) : Task :=
  { launch := w.launch, part := w.part, reach := reach, join := join, wid := octetPair th a.toNat 1, v23 := octetPair th a.toNat 2,
    v45 := octetPair th a.toNat 3, entry := dispTarget th disp, hdr := w.hdr, g := (octetPair th a.toNat 1).toNat, home := w.core }

/-- A FORK on its way: its status is still to come. -/
def pushFork (s : State) (issue t : Nat) (th : Thread) (w : Workgroup) (d : Reg) (loc : Loc) (n : Nat) (va : DWord) (task : Task) : State :=
  let k := freshId s
  let o : Op :=
    { kind := .fork task, core := w.core, wg := wgOf t, launch := w.launch, issue := issue, span := th.span, off := th.off, loc := loc, n := n,
      pol := .norm, parts := [⟨t, th.serial, if d = 0 then [] else [d.toNat], va, 0, 0, [], false⟩], acq := none, rel := true, blocking := true,
      phase := .waiting, eng := none, entered := k.2.now, sent := false, reply := none }
  { k.2 with ops := put k.2.ops k.1 o }

/-- Whether an earlier thread of the same FORK has still to push. -/
def forkBehind (s : State) (core issue : Nat) : Bool := s.ops.any fun (_, o) => o.issue = issue && o.core = core && match o.kind with
  | .fork _ => true
  | _ => false

/-- FORK for one thread: its octet and its address are checked, and then its release counts (R346). -/
def forkThread (d a : Reg) (disp : BitVec 36) (reach : Reach) (issue : Nat) (s : State) (t : Nat) (th : Thread) (w : Workgroup) : State :=
  let dsts := [(d.toNat, 1)]
  let s := releaseActs s t
  match firstTok (readRegs th a.toNat 8) with
  | some k => suppress s t k dsts
  | none =>
    let j := octetPair th a.toNat 0
    if j = 0 then
      unlessUnacked th.unacked s issue t dsts fun s =>
        let task := taskOf th w a disp reach none
        if forkBehind s w.core issue || !takeDue s w.core 0 then pushFork s issue t th w d (.spad (wgOf t) 0) 0 0 task
        else if dequeRoom s w.core then writeD (pushTask s w.core task) t d 1 (cleanVal 0)
        else writeD s t d 1 (cleanVal 1)
    else
      let r := flatChecks s w.core w.part j 8 .atomic 0
      match r.1 with
      | .error f => suppressWith r.2 issue t (.make f) dsts
      | .ok l =>
        unlessUnacked th.unacked r.2 issue t dsts fun s => pushFork s issue t th w d l 8 j (taskOf th w a disp reach (some (l, j)))

/-- FORK (R346). -/
def execFork (d a : Reg) (disp : BitVec 36) (reach : Reach) (s : State) : Host.Outcome State Fault Refusal :=
  threadWord (.fork d a disp reach) (fun issue s t th w => forkThread d a disp reach issue s t th w) s

/-! ## JOIN (R347) -/

/-- JOIN for one thread: its check, then its read of the counter on the way. -/
def joinThread (d a : Reg) (issue : Nat) (s : State) (t : Nat) : State :=
  match thOf s t, wgAt s (wgOf t) with
  | some th, some w =>
    let dsts := [(d.toNat, 1)]
    let v := reg2 th a
    match v.tok with
    | some k => suppress s t k dsts
    | none =>
      let r := flatChecks s w.core w.part v.data 8 .read 0
      match r.1 with
      | .error f => suppressWith r.2 issue t (.make f) dsts
      | .ok l =>
        let k := freshId r.2
        let o : Op :=
          { kind := .joinRead, core := w.core, wg := wgOf t, launch := w.launch, issue := issue, span := th.span, off := th.off, loc := l, n := 8,
            pol := .norm, parts := [⟨t, th.serial, if d = 0 then [] else [d.toNat], v.data, 0, 0, [], false⟩], acq := some .die, rel := false,
            blocking := false, phase := .waiting, eng := none, entered := k.2.now, sent := false, reply := none }
        { k.2 with ops := put k.2.ops k.1 o }
  | _, _ => s

/-- The issue of JOIN for its group: members for which it is no instruction, or is forbidden in their transaction, abort (R79, R168); the reads
of the others are on their way, and the group parks. -/
def joinStep (d a : Reg) (s : State) : State :=
  match s.focus with
  | none => s
  | some g =>
    let s := { s with focus := none }
    match grpOf s g with
    | none => s
    | some G =>
      let i := Instr.join d a
      let run := G.members.filter fun t => legalHere i s t && !txStops i s t
      match stallAmong i s G.core run with
      | some x => heldBack i s g G x
      | none =>
        let issue := s.nextIssue
        let s := { s with nextIssue := issue + 1 }
        let stop := G.members.filter fun t => !(legalHere i s t && !txStops i s t)
        let s := stop.foldl (abortWord .illegal false issue) s
        let s := endIssue (run.foldl (joinThread d a issue) (meetErrors i issue s run)) issue
        endOpportunity (parkGroup (trimGroup s g) g .join i) G.core G.port (some G.members)

/-- JOIN: its group parks until the counter of every member has read zero (R347). -/
def execJoin (d a : Reg) (s : State) : Host.Outcome State Fault Refusal := .next (joinStep d a s)

end Sys2Proof.Machine
end

