-- ==== Sys2Proof/Machine/Timelines.lean ====
section
/-! DEFINITION. Timelines: numbers, completion, TLREAD, TLWAIT, ARRIVEX and deferred arrivals (R195, R258 to R261, R271 to R275). -/

namespace Sys2Proof.Machine

/-- DONE advanced over the unbroken prefix of complete numbers, at most so many (R260). -/
def advance : Nat → Timeline → Timeline
  | 0, t => t
  | k + 1, t =>
    if t.complete.contains (t.done + 1) then advance k { t with done := t.done + 1, complete := t.complete.filter (· ≠ t.done + 1) } else t

/-- An operation's number complete (R260). -/
def Timeline.finish (t : Timeline) (n : Nat) : Timeline :=
  let t := { t with complete := t.complete ++ [n] }
  advance t.complete.length t

def modTl (s : State) (wg tl : Nat) (f : Timeline → Timeline) : State := modWg s wg fun w => { w with tls := modAt w.tls tl f }

/-- The next number of a context (R259). -/
def nextNumber (s : State) (wg tl : Nat) : Nat × State :=
  match wgAt s wg with
  | some w => ((timelineAt w tl).issued + 1, modTl s wg tl fun t => { t with issued := t.issued + 1 })
  | none => (0, s)

/-- The deferred arrivals of a context whose number DONE has reached now (R273). -/
def markDue (s : State) (wg tl : Nat) : State :=
  match wgAt s wg with
  | none => s
  | some w =>
    let ready (e : Deferred) : Bool := e.wg = wg && e.tl = tl && e.due.isNone && decide (e.num ≤ (timelineAt w tl).done)
    if (coreAt s w.core).deferred.any (fun p => ready p.2) then
      modCore s w.core fun c => { c with deferred := c.deferred.map fun p => (p.1, if ready p.2 then { p.2 with due := some s.now } else p.2) }
    else s

/-- Complete(n) (R260). -/
def completeNumber (s : State) (wg tl n : Nat) : State := markDue (modTl s wg tl fun t => t.finish n) wg tl

/-- The scope that the header binds to a context (R258). -/
def scopeOfTl (w : Workgroup) (tl : Nat) : Option Scope := (timelineAt w tl).bind.map (·.2)

/-- The engine acquire of a value on a context (R261). -/
def engineAcquire (s : State) (w : Workgroup) (tl : Nat) : State :=
  match scopeOfTl w tl with
  | some sc => dropSelfInv s w.core sc
  | none => s

/-- TLREAD (R274). -/
def execTlread (d : Reg) (tl : BitVec 3) (iss : Bool) (s : State) : Host.Outcome State Fault Refusal :=
  threadWord (.tlread d tl iss) (fun _ s t _ w =>
    let x := timelineAt w tl.toNat
    writeD s t d 2 (cleanVal (BitVec.ofNat 64 (if iss then x.issued else x.done)))) s

/-- TLWAIT: once it issues, DONE has reached the value; the acquire, or the taint of a poisoned value (R275). -/
def execTlwait (a : Reg) (tl : BitVec 3) (s : State) : Host.Outcome State Fault Refusal :=
  threadWord (.tlwait a tl) (fun _ s t th w =>
    match (reg2 th a).tok with
    | some k => suppress s t k []
    | none => engineAcquire s w tl.toNat) s

/-- ARRIVEX's count (R273). -/
def arrivexCount (th : Thread) (c : Reg) : Nat := if c = 0 then 1 else (readReg th c.toNat).data.toNat % 65536

/-- ARRIVEX for one thread: its arrival at once, or deferred (R273). -/
def arrivexThread (issue : Nat) (a b c : Reg) (tl : BitVec 3) (s : State) (t : Nat) : State :=
  barrierThread issue a [b, b + 1, c] [] false (fun s t th w x =>
    let n := (reg2 th b).data.toNat
    if n ≤ (timelineAt w tl.toNat).done then engineArrive s (orgOf s issue t th) w.launch (scopeOfTl w tl.toNat) x (arrivexCount th c)
    else
      let k := freshId s
      let e : Deferred :=
        { wg := wgOf t, th := t, issue := issue, span := th.span, off := th.off, tl := tl.toNat, num := n, addr := x,
          count := arrivexCount th c, due := none }
      modCore k.2 w.core fun y => { y with deferred := put y.deferred k.1 e }) s t

/-- ARRIVEX (R273). -/
def execArrivex (a b c : Reg) (tl : BitVec 3) (s : State) : Host.Outcome State Fault Refusal :=
  runWord (.arrivex a b c tl) (fun issue ts s => ts.foldl (arrivexThread issue a b c tl) s) s

/-- Whether a deferred arrival may be performed: DONE has reached its number, its object's line is present, its workgroup is not saved
(R196, R273). -/
def deferredDue (s : State) (e : Deferred) : Bool :=
  match wgAt s e.wg with
  | some w => wgActive s w && decide (e.num ≤ (timelineAt w e.tl).done) && !lineAbsent s (.spad e.wg e.addr) 16
  | none => false

/-- Whether of two deferred arrivals the first is performed before the second: it became due earlier, or together with it and was issued earlier
(R273). -/
def dueBefore (x y : Nat × Deferred) : Bool :=
  let c (e : Deferred) : Nat := e.due.getD 0
  decide (c x.2 < c y.2) || (c x.2 = c y.2 && decide (x.1 < y.1))

/-- DEFERRED_ARRIVAL: each arrival when DONE first reaches its number; arrivals that are due together go in issue order (R273). -/
def execDeferredArrival (core k : Nat) (s : State) : Host.Outcome State Fault Refusal :=
  .next (match look (coreAt s core).deferred k with
    | none => s
    | some e =>
      if !deferredDue s e || (coreAt s core).deferred.any (fun p => dueBefore p (k, e) && p.2.wg = e.wg && deferredDue s p.2) then s
      else
        let t := modCore s core fun c => { c with deferred := del c.deferred k }
        match wgAt t e.wg with
        | some w => endIssue (engineArrive t (engineOrg t e.issue core e.wg e.th e.span e.off) w.launch (scopeOfTl w e.tl) e.addr e.count) e.issue
        | none => t)

end Sys2Proof.Machine
end

