-- ==== Sys2Proof/Machine/Launches.lean ====
section
/-! DEFINITION. Launches: the port, device launches, activation, placement and its order, retirement, charges and completion (R132, R329 to R342,
R344, R348). -/

namespace Sys2Proof.Machine

/-! ## Control cores (R363, R365) -/

/-- Identity of the manager. -/
def managerId : Nat := 16

/-- The requester identity of a control core; control cores run only in power state ON (R376, R383). -/
def requester (s : State) (who : Nat) : Nat := if s.power = .on then (s.ccpart[who]?).getD 31 else 31

def isManager (s : State) (who : Nat) : Bool := requester s who = managerId

/-- Whether a control core may write a queue window, a partition block (R363). -/
def mayQueue (s : State) (who q : Nat) : Bool := decide (q < 16384) && (isManager s who || requester s who = (queueAt s q).owner)
def mayPart (s : State) (who p : Nat) : Bool := decide (p < 16) && (isManager s who || requester s who = p)

/-! ## The port (R331) -/

/-- LAUNCH_PORT_PUSH: a store to PORT, whole or of another size or alignment (R331). -/
def execLaunchPortPush (who q : Nat) (record : BitVec 512) (whole : Bool) (s : State) : Host.Outcome State Fault Refusal :=
  .next (
    if !mayQueue s who q then s
    else modQueue s q fun x =>
      if !whole || !x.enable || 64 ≤ x.fifo.length then { x with drops := min (x.drops + 1) 0xFFFF }
      else { x with fifo := x.fifo ++ [record] })

/-! ## Deficits (R340) -/

/-- Whether a queue has a launch waiting, active or running (R340). -/
def queueBusy (s : State) (q : Nat) : Bool :=
  !(queueAt s q).fifo.isEmpty || s.launches.any (fun p => p.2.queue = q) || s.pendingStore.any fun p => p.2.2.1 = q

/-- A queue without launches keeps a debt, and no credit (R340). -/
def settleDeficit (s : State) (q : Nat) : State := if queueBusy s q then s else modQueue s q fun x => { x with deficit := min x.deficit 0 }

/-! ## Launches -/

def newLaunch (s : State) (r : LaunchRec) (queue part : Nat) (h : Header) (st : LStatus) (device : Option LaunchOp) : Launch :=
  { recd := r, queue := queue, part := part, hdr := h, status := st, device := device, activated := s.now, nextItem := 0, placed := 0,
    blockedSince := s.now, dieBind := [], cluBind := [], energy := 0, energyFine := 0, charge := 0, first := 0, uncaught := 0, count := 0, sticky := false,
    events := 0, aborted := false }

def addLaunch (s : State) (l : Launch) : State := { s with launches := put s.launches s.nextLaunch l, nextLaunch := s.nextLaunch + 1 }

/-- Whether a launch still has cohorts to place. -/
def isPlacing (l : Launch) : Bool := l.status = .done && !l.aborted && decide (l.placed < l.recd.nwg)

/-- Whether the record at a queue's head is active (R335). -/
def headActive (s : State) (q : Nat) : Bool := s.launches.any fun p => p.2.queue = q && p.2.device.isNone && isPlacing p.2

def dropHead (s : State) (q : Nat) : State := modQueue s q fun x => { x with fifo := x.fifo.drop 1 }

/-- The record at a queue's head taken through the steps of R335. -/
def activateHead (s : State) (q : Nat) (x : BitVec 512) : State :=
  let owner := (queueAt s q).owner
  let p := partAt s owner
  let r := recordOf x
  let fail (s : State) (st : LStatus) : State := dropHead (addLaunch s (newLaunch s r q owner Header.none st none)) q
  if p.pstate ≠ .running || headActive s q then s
  else if r.part ≠ owner then fail s .part
  else if !recordOk r then fail s .record
  else if !waitsMet p r then s
  else
    let c := checkRecord s owner r
    match c.1 with
    | .done => addLaunch c.2.2 (newLaunch s r q owner c.2.1 .done none)
    | st => fail c.2.2 st

/-- The oldest device launch of a queue that is not active yet (R342). -/
def oldestDevice (s : State) (q : Nat) : Option (LaunchOp × LaunchRec × Nat × Nat) := s.pendingStore.find? fun p => p.2.2.1 = q

/-- A device launch taken through the steps of R335 and R342. -/
def activateDevice (s : State) (q : Nat) (e : LaunchOp × LaunchRec × Nat × Nat) : State :=
  let r := e.2.1
  let part := e.2.2.2
  let p := partAt s part
  let out (s : State) : State := { s with pendingStore := s.pendingStore.erase e }
  let fail (s : State) (st : LStatus) : State := out (addLaunch s (newLaunch s r q part Header.none st (some e.1)))
  if p.pstate ≠ .running then s
  else if r.part ≠ 0 then fail s .record
  else if !recordOk r then fail s .record
  else if !waitsMet p r then s
  else
    let c := checkRecord s part r
    match c.1 with
    | .done => out (addLaunch c.2.2 (newLaunch s r q part c.2.1 .done (some e.1)))
    | st => fail c.2.2 st

/-- LAUNCH_ACTIVATE: the head record of a queue, or its oldest device launch, becomes active or ends with its status (R335, R342). -/
def execLaunchActivate (q : Nat) (device : Bool) (s : State) : Host.Outcome State Fault Refusal :=
  .next (
    if device then
      match oldestDevice s q with
      | some e => activateDevice s q e
      | none => s
    else match (queueAt s q).fifo with
      | x :: _ => activateHead s q x
      | [] => s)

/-! ## Choosing a core (R338, R339) -/

/-- Numbers of the next core cohort of a launch, of its cluster cohort and of its die cohort. -/
def cohortOf (l : Launch) : Nat := l.placed / 2 ^ widthOf l.hdr 1
def cluCohortOf (l : Launch) : Nat := cohortOf l / 2 ^ widthOf l.hdr 2
def dieCohortOf (l : Launch) : Nat := cluCohortOf l / 2 ^ widthOf l.hdr 3

/-- Workgroups of the next core cohort. -/
def cohortSize (l : Launch) : Nat := min (2 ^ widthOf l.hdr 1) (l.recd.nwg - l.placed)

/-- The candidate with the most free thread positions; ties go to the lower number (R338). -/
def mostFree (free : Nat → Nat) : List Nat → Option Nat
  | [] => none
  | x :: xs =>
    match mostFree free xs with
    | none => some x
    | some y => if free x < free y then some y else some x

/-- Cores of a die, of a cluster. -/
def dieCores (d : Nat) : List Nat := List.range' (64 * d) 64
def cluCores (c : Nat) : List Nat := List.range' (8 * c) 8

/-- The core for a launch's next cohort, among those on which it fits: die, then cluster, then core (R338), beside the workgroups that count. -/
def pickCore (s : State) (l : Launch) (counts : Workgroup → Bool) (fits : Nat → Bool) : Option Nat :=
  let sum (cs : List Nat) : Nat := cs.foldl (fun n c => n + freePositions s counts c) 0
  let die := match look l.dieBind (dieCohortOf l) with
    | some d => some d
    | none => mostFree (fun d => sum (dieCores d)) ((List.range 4).filter fun d => (dieCores d).any fits)
  match die with
  | none => none
  | some d =>
    let clu := match look l.cluBind (cluCohortOf l) with
      | some c => some c
      | none => mostFree (fun c => sum (cluCores c)) ((List.range' (8 * d) 8).filter fun c => (cluCores c).any fits)
    match clu with
    | none => none
    | some c => mostFree (freePositions s counts) ((cluCores c).filter fits)

/-- Whether a launch holds a reservation (R339). -/
def holdsReservation (s : State) (k : Nat) : Bool := s.cores.any fun p => p.2.reserved = some k

/-- Whether a core takes a cohort of launch k now: it is online, not reserved for another launch, starts no task, and the cohort fits; a launch
with a reservation waits for its core (R338, R339). -/
def coreTakes (s : State) (k : Nat) (l : Launch) (core : Nat) : Bool :=
  let c := coreAt s core
  !c.offline && (match c.reserved with
    | some j => j = k
    | none => !holdsReservation s k)
    && !canStartTask s core && (fitCohort (occOf s core fun _ => true) l.hdr (cohortSize l)).isSome

/-- The core on which the next cohort of launch k can be placed now. -/
def placeable (s : State) (k : Nat) (l : Launch) : Option Nat :=
  if isPlacing l && (partAt s l.part).pstate = .running then pickCore s l (fun _ => true) (coreTakes s k l) else none

/-! ## Placing (R338, R340) -/

/-- The workgroups of a cohort placed in order. -/
def placeAll (s : State) (core k : Nat) (l : Launch) : Nat → List (Nat × Nat) → State
  | _, [] => s
  | g, f :: fs =>
    placeAll (placeWorkgroup s (newWorkgroup s core f k l.part l.hdr g l.recd.args true none false) l.hdr.entry) core k l (g + 1) fs

/-- The next cohort of launch k placed on a core: the threads' start acquires at .pkg (R317, R338); a queue's head leaves it with its last
cohort (R335). -/
def placeCohort (s : State) (core k : Nat) (l : Launch) : State :=
  match fitCohort (occOf s core fun _ => true) l.hdr (cohortSize l) with
  | none => s
  | some fs =>
    let s := dropSelfInv s core .pkg
    let s := placeAll s core k l l.placed fs
    let s := modCore s core fun c => { c with reserved := if c.reserved = some k then none else c.reserved }
    let n := l.placed + cohortSize l
    let s := modLaunch s k fun l =>
      { l with
        placed := n, blockedSince := s.now, dieBind := put l.dieBind (dieCohortOf l) (core / 64),
        cluBind := put l.cluBind (cluCohortOf l) (core / 8) }
    if l.device.isNone && l.recd.nwg ≤ n then dropHead s l.queue else s

/-- The launches of a level that can be placed now, in the order in which they became active, with their cores. -/
def levelOf (s : State) (p : Nat) : List (Nat × Launch × Nat) :=
  s.launches.filterMap fun (k, l) => if l.recd.prio = p then (placeable s k l).map fun c => (k, l, c) else none

/-- Rounds of quanta until some queue has no debt (R340). -/
def roundsFor (s : State) : List Nat → Nat
  | [] => 0
  | q :: qs =>
    let x := queueAt s q
    let n := ((-x.deficit).toNat + max x.quantum 1 - 1) / max x.quantum 1
    match qs with
    | [] => n
    | _ => min n (roundsFor s qs)

/-- Rounds of quanta given to queues. -/
def giveQuanta (s : State) (qs : List Nat) (n : Nat) : State :=
  qs.foldl (fun s q => modQueue s q fun x => { x with deficit := x.deficit + n * max x.quantum 1 }) s

/-- The first of some queues at or after a pointer, wrapping, whose deficit is not negative (R340). -/
def roundRobin (s : State) (ptr : Nat) (qs : List Nat) : Option Nat :=
  let ok := qs.filter fun q => 0 ≤ (queueAt s q).deficit
  let least (xs : List Nat) : Option Nat := xs.foldl (fun m q => match m with
    | none => some q
    | some y => some (min y q)) none
  match least (ok.filter (ptr ≤ ·)) with
  | some q => some q
  | none => least ok

/-- One placement at a level (R340). -/
def placeAtLevel (s : State) (p : Nat) (es : List (Nat × Launch × Nat)) : State :=
  let qs := es.foldl (fun qs e => if qs.contains e.2.1.queue then qs else qs ++ [e.2.1.queue]) []
  let s := giveQuanta s qs (roundsFor s qs)
  match roundRobin s ((s.roundPtr[p]?).getD 0) qs with
  | none => s
  | some q =>
    match es.find? fun e => e.2.1.queue = q with
    | none => s
    | some (k, l, c) => { placeCohort s c k l with roundPtr := s.roundPtr.set p ((q + 1) % 16384) }

/-- The scheduler's levels, highest first (R340). -/
def scheduleFrom (s : State) : List Nat → State
  | [] => s
  | p :: ps =>
    match levelOf s p with
    | [] => scheduleFrom s ps
    | es => placeAtLevel s p es

/-- Launches whose next cohort can be placed are not blocked (R339). -/
def noteUnblocked (s : State) : State :=
  { s with launches := s.launches.map fun (k, l) => (k, if (placeable s k l).isSome then { l with blockedSince := s.now } else l) }

/-- COHORT_PLACE: one core cohort is placed (R340). -/
def execCohortPlace (s : State) : Host.Outcome State Fault Refusal := .next (scheduleFrom (noteUnblocked s) [0, 1, 2, 3])

/-! ## Reservations (R339) -/

/-- Whether a launch may become reserving: its next cohort has not been placeable for 2^22 cycles. -/
def mayReserve (s : State) (k : Nat) (l : Launch) : Bool :=
  isPlacing l && (partAt s l.part).pstate = .running && !holdsReservation s k && (placeable s k l).isNone
    && decide (l.blockedSince + 2 ^ 22 ≤ s.now)

/-- The core that a reserving cohort would take, as if workgroups of other launches were absent. -/
def reserveCore (s : State) (k : Nat) (l : Launch) : Option Nat :=
  pickCore s l (fun w => w.launch = k) fun core =>
    let c := coreAt s core
    !c.offline && c.reserved.isNone && (fitCohort (occOf s core fun w => w.launch = k) l.hdr (cohortSize l)).isSome

/-- COHORT_RESERVING: the core of a reserving cohort takes no other work; cohorts that compete for it are served by level, then by age (R339). -/
def execCohortReserving (k : Nat) (s : State) : Host.Outcome State Fault Refusal :=
  .next (match look s.launches k with
    | none => s
    | some l =>
      if !mayReserve s k l then s
      else match reserveCore s k l with
        | none => s
        | some c =>
          let beaten := s.launches.any fun (j, x) =>
            (decide (x.recd.prio < l.recd.prio) || (x.recd.prio = l.recd.prio && decide (j < k))) && mayReserve s j x
              && reserveCore s j x = some c
          if beaten then s else modCore s c fun x => { x with reserved := some k })

/-! ## Charges and retirement (R132, R166, R341, R344) -/

/-- Lane-cycles charged to a workgroup's launch and its queue, the remainder kept (R341). -/
def chargeWg (s : State) (wg : Nat) : State :=
  match wgAt s wg with
  | none => s
  | some w =>
    let w := accrue s.now w
    let n := w.laneCycles / 64
    let s := setWg s wg { w with laneCycles := w.laneCycles % 64 }
    match look s.launches w.launch with
    | none => s
    | some l =>
      let s := modQueue s l.queue fun x => { x with deficit := x.deficit - n }
      modLaunch s w.launch fun l => { l with charge := l.charge + n }

/-- PERSIST_CHARGE: a persistent workgroup is charged at every 2^22 cycles of residency (R341). -/
def execPersistCharge (wg : Nat) (s : State) : Host.Outcome State Fault Refusal :=
  .next (match wgAt s wg with
    | none => s
    | some w =>
      if w.hdr.persist && !w.saved && !w.retired && decide (w.charges < (accrue s.now w).residency / 2 ^ 22)
      then modWg (chargeWg s wg) wg fun w => { w with charges := w.charges + 1 } else s)

/-- The check-interval register merged into the launch's completion status (R166). -/
def mergeCir (l : Launch) (x : DWord) : Launch :=
  mergeFirst
    { l with
      sticky := l.sticky || x.getLsbD 63, count := min (l.count + cirCount x) 0xFFFF, events := l.events ||| x.extractLsb' 48 5 }
    (x.setWidth 32)

/-- Whether an operation that a workgroup issued to an engine of its core is not complete (R131, R337). -/
def enginesBusy (s : State) (wg : Nat) (w : Workgroup) : Bool :=
  let c := coreAt s w.core
  c.mxq.any (fun p => p.2.wg = wg) || c.cpq.any (fun p => p.2.wg = wg) || s.xfers.any (fun p => p.2.wg = wg)
    || c.deferred.any fun p => p.2.wg = wg && decide (p.2.num ≤ (timelineAt w p.2.tl).issued)

/-- Whether a performed write's acknowledgement is still to come. A write to the fabric that stays among the acknowledgements was left
unanswered, and neither a launch nor a forked workgroup waits for it any more (R319, R425; log 31). -/
def ackAwaited (s : State) (o : Op) : Bool := !remoteOp s o

/-- Whether every access and engine operation of a workgroup's threads is done, as R337 asks of a forked workgroup before its decrement. -/
def ownWorkDone (s : State) (wg : Nat) : Bool :=
  !(s.ops.any fun p => p.2.wg = wg) && !(s.acks.any fun p => p.2.wg = wg && ackAwaited s p.2) && !(s.late.any fun p => p.2.wg = wg)
    && !(s.freezeOps.any fun p => p.2.wg = wg) && !(s.pendingStore.any fun p => p.1.wg = wg)
    && !(s.launches.any fun p => match p.2.device with
      | some o => o.wg = wg
      | none => false)

/-- The decrement of a join counter on its way: a release at .die (R344). -/
def pushJoinDec (s : State) (wg : Nat) (w : Workgroup) : State :=
  match w.join with
  | none => s
  | some (loc, va) =>
    let k := freshId s
    let issue := k.2.nextIssue
    let o : Op :=
      { kind := .joinDec va, core := w.core, wg := wg, launch := w.launch, issue := issue, span := 0, off := 0, loc := loc, n := 8, pol := .norm,
        parts := [], acq := none, rel := true, blocking := false, phase := .waiting, eng := none, entered := k.2.now, sent := false, reply := none }
    { k.2 with nextIssue := issue + 1, ops := put k.2.ops k.1 o }

/-- The records of a workgroup's slot become FREE (R148). -/
def freeRecords (s : State) (core slot : Nat) : State :=
  modCore s core fun c =>
    { c with
      recs := c.recs.map fun (i, r) => (i, if i ≠ 0 && r.wgslot = BitVec.ofNat 8 slot then { r with status := stFree } else r)
      order := c.order.filter fun i => i = 0 || (lookD c.recs i PoisonRec.zero).wgslot ≠ BitVec.ofNat 8 slot }

/-- A workgroup gone from its core, its resources returned; its tiles only once no operation of it is left in the matrix queue (dropMx), and of its
deferred arrivals those go whose number no operation will reach (R132, R204, R228, R367). -/
def removeWg (s : State) (wg : Nat) (w : Workgroup) : State :=
  let busy : Bool := (coreAt s w.core).mxq.any fun p => p.2.wg = wg
  let s := setWg s wg { w with retired := true, fifos := [], arrivals := [], wantRegs := none, tiles := if busy then w.tiles else [] }
  let s := modCore s w.core fun c =>
    { c with deferred := c.deferred.filter fun p => p.2.wg ≠ wg || decide (p.2.num ≤ (timelineAt w p.2.tl).issued) }
  let s := { s with issueFaults := s.issueFaults.filter fun f => !(f.core = w.core && f.wg = wg) }
  settleCarve (freeRecords s w.core w.slot) w.core

/-- Retirement: the charge, the merge, the join decrement of a task, and the end (R132, R341, R344). -/
def retireWg (s : State) (wg : Nat) : State :=
  let s := chargeWg s wg
  match wgAt s wg with
  | none => s
  | some w =>
    let s := modLaunch s w.launch fun l => mergeCir l w.cir
    removeWg (pushJoinDec s wg w) wg w

/-- WORKGROUP_RETIRE: a workgroup whose last thread has exited retires; a forked one once all its own work is done (R132, R337, R344). -/
def execWorkgroupRetire (wg : Nat) (s : State) : Host.Outcome State Fault Refusal :=
  .next (match wgAt s wg with
    | none => s
    | some w =>
      if w.saved || w.retired || !(liveOf s wg).isEmpty || (w.forked && (enginesBusy s wg w || !ownWorkDone s wg)) then s
      else retireWg s wg)

/-! ## Completion (R336, R337, R348) -/

/-- Whether a launch is complete: nothing left to place, every workgroup and task retired, every access acknowledged, every engine operation
done (R337). -/
def launchOver (s : State) (k : Nat) (l : Launch) : Bool :=
  !isPlacing l && !(s.wgs.any fun p => p.2.launch = k && (!p.2.retired || enginesBusy s p.1 p.2)) && !(s.ops.any fun p => p.2.launch = k) && !(s.acks.any fun p => p.2.launch = k && ackAwaited s p.2)
    && !(s.late.any fun p => p.2.launch = k) && !(s.freezeOps.any fun p => p.2.launch = k) && !(s.xfers.any fun p => p.2.launch = k)
    && !(s.cores.any fun p => p.2.deque.any fun t => t.launch = k) && !(s.parts.any fun p => p.savedTasks.any fun t => t.2.launch = k)
    && !(s.pendingStore.any fun p => p.1.launch = k)
    && !(s.launches.any fun p => match p.2.device with
      | some o => o.launch = k
      | none => false)

/-- Status codes (R336). -/
def LStatus.code : LStatus → Nat
  | .done => 0
  | .gen => 1
  | .header => 2
  | .place => 3
  | .part => 4
  | .record => 5
  | .aborted => 6

/-- The completion status (R336). -/
def statusBits (l : Launch) : BitVec 256 :=
  BitVec.ofNat 64 l.energy ++ BitVec.ofNat 64 l.charge ++ l.first ++ BitVec.ofNat 32 l.uncaught ++ BitVec.ofNat 16 l.count ++ 0#7
    ++ BitVec.ofBool l.sticky ++ l.events ++ 0#27 ++ BitVec.ofNat 8 l.status.code

/-- The source that the hub's own writes to another device's memory name, after the cores 0 to 255 (log 21). -/
def hubCore : Nat := 256

/-- Bytes that the hub writes at one location, or the cause of the refusal (R299, R337). To another device's memory they go as a store, whose
refusal the hub reports when it arrives (log 21). -/
def hubPut (s : State) (part : Nat) (l : Loc) (va : DWord) (bs : List Byte) : Option Why × State :=
  let refuse (c : Cause) : Option Why × State := (some ⟨c, some va, false, true⟩, s)
  let ftid := (partAt s part).pftid
  match locHome s l with
  | .device n off =>
    if ftid = 0 then refuse .remoteFault
    else if s.noticed.contains (.dev n) then refuse .remoteUnacked
    else
      let pkt : Packet :=
        { ftid := ftid, sdev := s.pkg, score := hubCore, dest := .dev n, stream := 0, seq := 0, ord := false, op := .store, addr := off,
          endpoint := none, len := bs.length, bytes := bs, poison := [], cause := .ecc, key := fabKeyOf s part (.dev n),
          fromPeer := none, named := none, born := 0 }
      (none, queueReq s ⟨hubCore, .dev n, 0⟩ (.status part va) pkt)
  | .switch p sw off =>
    if ftid = 0 then refuse .remoteFault
    else match swStoreNow s p sw ftid off bs with
      | (some c, _) => refuse c
      | (none, t) => (none, t)
  | _ => if locFrozen s l bs.length then refuse .writeFrozen else (none, hubWrite s l bs)

/-- Bytes that the hub writes at an address of a partition's space, page by page; a failing page leaves the whole write out (R337). -/
def hubStore (s : State) (part : Nat) (va : DWord) (bs : List Byte) : Option Why × State :=
  let n := min bs.length (65536 - va.toNat % 65536)
  let a := hubTranslate s part va .write
  match a.1 with
  | .error y => (some y, a.2)
  | .ok l =>
    if n = bs.length then hubPut a.2 part l va bs
    else
      let b := hubTranslate a.2 part (va + BitVec.ofNat 64 n) .write
      match b.1 with
      | .error y => (some y, b.2)
      | .ok m =>
        match hubPut b.2 part l va (bs.take n) with
        | (some y, t) => (some y, t)
        | (none, t) => hubPut t part m (va + BitVec.ofNat 64 n) (bs.drop n)

/-- Whether the place of a completion status is in the middle of another write (R296). -/
def statusWaits (s : State) (l : Launch) : Bool :=
  l.recd.stataddr ≠ 0 && [0, 31].any fun k =>
    match (hubTranslate s l.part (l.recd.stataddr + k) .write).1 with
    | .ok (.phys pa _ _ _) => linesBusy s pa 1
    | _ => false

/-- Step 1 of R337. -/
def writeStatus (s : State) (l : Launch) : State :=
  if l.recd.stataddr = 0 then s
  else
    let r := hubStore s l.part l.recd.stataddr (leBytes 32 (statusBits l).toNat)
    match r.1 with
    | some y => statusFault r.2 l.part l.recd.stataddr y
    | none => r.2

/-- Step 2 of R337: SIGi := Max(SIGi, SIGVAL) (R334). -/
def signal (s : State) (l : Launch) : State :=
  if l.recd.sigen then modPart s l.part fun p => { p with sig := put p.sig l.recd.sigidx (max (sigOf p l.recd.sigidx) l.recd.sigval) } else s

/-- The causes in the order of their codes. -/
def allCauses : List Cause :=
  [.pageMiss, .perm, .bounds, .spadBounds, .ecc, .illegal, .invalid, .writeFrozen, .scaleCount, .format, .abft, .remoteUnacked, .remoteFault,
   .swmLost, .txConflict, .txLocal, .txCapacity, .txPreempt, .noncanon, .overflow, .user]

/-- The cause of a LAUNCH event (R348). -/
def launchCause (l : Launch) : Option Cause :=
  match l.status with
  | .gen | .header | .part | .record => some .format
  | .place | .aborted => some .invalid
  | .done =>
    if l.uncaught = 0 && l.count = 0 && !l.sticky then none
    else if l.first = 0 then some .overflow
    else some ((allCauses.find? fun c => causeCode c = tokCause l.first).getD .overflow)

/-- Step 4 of R337: the LAUNCH operation completes, with an event where the launch did not end cleanly (R348). -/
def finishDevice (s : State) (l : Launch) (o : LaunchOp) : State :=
  let s := match launchCause l with
    | none => s
    | some c =>
      let issue := s.nextIssue
      let org : Org :=
        { issue := issue, core := o.core, wg := o.wg, span := o.span, off := o.off, lane := laneFor s o.wg o.th, idx := idxOf o.th }
      let k := makeToken { s with nextIssue := issue + 1 } org (why c o.addr)
      endIssue (recordEvent k.1 o.wg o.launch (some 52) k.2) issue
  completeNumber s o.wg o.tl o.num

/-- A workgroup as Bridle sees it: while it is resident, its lane-cycles run on up to now (R349). -/
def residentOf (s : State) (k : Nat) (w : Workgroup) : Resident :=
  let w := if w.saved || w.retired then w else accrue s.now w
  { wg := k, core := w.core, launch := w.launch, queue := ((look s.launches w.launch).map (·.queue)).getD 0, part := w.part, lanes := w.lanesRun,
    moved := w.moved, act := lookD s.activity k noActivity }

/-- LAUNCH_COMPLETE (R337); what was kept of the launch's retired workgroups goes, but for what Bridle measured of them. -/
def execLaunchComplete (k : Nat) (s : State) : Host.Outcome State Fault Refusal :=
  .next (match look s.launches k with
    | none => s
    | some l =>
      if !launchOver s k l || statusWaits s l then s
      else
        let s := signal (writeStatus s l) l
        let s := if l.recd.inten then raiseIrq s l.part irqLaunch else s
        let s := match l.device with
          | some o => finishDevice s l o
          | none => s
        let gone := (s.wgs.filter fun p => p.2.launch = k).map fun p => residentOf s p.1 p.2
        settleDeficit { s with launches := del s.launches k, wgs := s.wgs.filter (fun p => p.2.launch ≠ k), gone := s.gone ++ gone } l.queue)

/-! ## LAUNCH (R348) -/

/-- Entries of the pending-launch store in use (R342). -/
def pendingLaunches (s : State) : Nat := s.pendingStore.length + (s.launches.filter fun p => p.2.device.isSome).length

/-- The record that a LAUNCH reads. -/
def readRecord (w : Workgroup) (a : Nat) : LaunchRec :=
  match poisonIn w.spadPoison a 64 with
  | some _ => LaunchRec.unreadable
  | none => recordOf (BitVec.ofNat 512 (leNat (memGetN w.spad a 64)))

/-- The queue that a workgroup's launch is charged to. -/
def queueOf (s : State) (w : Workgroup) : Nat :=
  match look s.launches w.launch with
  | some l => l.queue
  | none => 0

/-- LAUNCH for one thread: its address is checked, and then its release counts (R348). -/
def launchThread (d a c : Reg) (tl : BitVec 3) (issue : Nat) (s : State) (t : Nat) (th : Thread) : State :=
  let dsts := [(d.toNat, 2), (c.toNat, 1)]
  let s := releaseActs s t
  match wgAt s (wgOf t) with
  | none => s
  | some w =>
    let v := readReg th a.toNat
    let x := v.data.toNat
    if v.poison then suppress s t v.data dsts
    else if x % 64 ≠ 0 then suppressWith s issue t (.make (why .invalid (up v.data))) dsts
    else if 128 * w.hdr.scratch < x + 64 then suppressWith s issue t (.make (why .spadBounds (up v.data))) dsts
    else
      unlessUnacked th.unacked s issue t dsts fun s =>
        let n := nextNumber s (wgOf t) tl.toNat
        let o : LaunchOp :=
          { wg := wgOf t, launch := w.launch, tl := tl.toNat, num := n.1, core := w.core, th := t, span := th.span, off := th.off, addr := up v.data }
        let s :=
          if 4096 ≤ pendingLaunches n.2 then completeNumber (writeD n.2 t c 1 (cleanVal 1)) (wgOf t) tl.toNat n.1
          else writeD { n.2 with pendingStore := n.2.pendingStore ++ [(o, readRecord w x, queueOf n.2 w, w.part)] } t c 1 (cleanVal 0)
        writeD s t d 2 (cleanVal (BitVec.ofNat 64 n.1))

/-- LAUNCH (R348). -/
def execLaunch (d a c : Reg) (tl : BitVec 3) (s : State) : Host.Outcome State Fault Refusal :=
  threadWord (.launch d a c tl) (fun issue s t th _ => launchThread d a c tl issue s t th) s

end Sys2Proof.Machine
end

