-- ==== Sys2Proof/Machine/Preempt.lean ====
section
/-! DEFINITION. Bridle's allowances, thermal holds, the abort of a queue's launches, and pre-emption (R172, R252, R270, R284, R349 to R355,
R382). -/

namespace Sys2Proof.Machine

/-! ## Bridle (R349, R350) -/

/-- The new allowance of a partition (R350). -/
def newAllow (cap power allow : Nat) : Nat :=
  if cap = 0 then 64
  else if cap < power then max 4 (allow * cap / power)
  else if 20 * power < 19 * cap then min 64 (allow + 4)
  else allow

/-- Energy of so many times 10 nJ added to a counter of units of 2^-16 J, which saturates, and to the rest that it does not show (R329, R336, R349). -/
def addEnergy (energy fine n : Nat) : Nat × Nat :=
  let x := fine + 65536 * n
  (min (energy + x / 10 ^ 8) (2 ^ 64 - 1), x % 10 ^ 8)

/-- A workgroup's share of an interval's energy charged to its launch and to its queue (R349). -/
def chargeEnergy (s : State) (share : Resident × Nat) : State :=
  let s := modLaunch s share.1.launch fun l =>
    { l with energy := (addEnergy l.energy l.energyFine share.2).1, energyFine := (addEnergy l.energy l.energyFine share.2).2 }
  modQueue s share.1.queue fun q =>
    { q with energy := (addEnergy q.energy q.energyFine share.2).1, energyFine := (addEnergy q.energy q.energyFine share.2).2 }

def sumOf (f : Resident → Nat) (rs : List Resident) : Nat := rs.foldl (fun n r => n + f r) 0

/-- A part of an energy in proportion to a count among some workgroups; none where no count is above 0 (log 110). -/
def splitOf (energy : Nat) (f : Resident → Nat) (rs : List Resident) (r : Resident) : Nat := energy * f r / max 1 (sumOf f rs)

/-- The weighted activity of a workgroup in the interval: its counts, under the coefficients that the interval calibrated for its core (R349). -/
def activityOf (weights : List (Nat × Activity)) (r : Resident) : Nat :=
  match weights.find? fun x => x.1 = r.core with
  | some (_, c) =>
    c.words * r.act.words + c.lanes * r.act.lanes + c.steps * r.act.steps + c.units * r.act.units + c.spad * r.act.spad + c.l1 * r.act.l1
  | none => 0

/-- A workgroup's share of an interval: of each reading of its core the dynamic energy by activity and the leakage by lane-cycles, and of the hub's
engines by bytes moved (R349). -/
def energyShare (cores : List (Nat × Nat × Nat)) (weights : List (Nat × Activity)) (hub : Nat) (rs : List Resident) (r : Resident) : Nat :=
  let here := rs.filter fun x => x.core = r.core
  let ofCore (x : Nat × Nat × Nat) : Nat := splitOf x.2.1 (activityOf weights) here r + splitOf x.2.2 (·.lanes) here r
  (cores.filter fun x => x.1 = r.core).foldl (fun n x => n + ofCore x) 0 + splitOf hub (·.moved) rs r

/-- The workgroups of the interval that ends now, and the next interval's counts begun (R349). -/
def residents (s : State) : List Resident := s.wgs.map (fun p => residentOf s p.1 p.2) ++ s.gone

def newInterval (s : State) : State :=
  { s with gone := [], activity := [], wgs := s.wgs.map fun (k, w) => (k, { (if w.saved || w.retired then w else accrue s.now w) with lanesRun := 0, moved := 0 }) }

/-- A partition's power noted, its allowance computed anew, and FLOOR set at the floor above the cap (R330, R350). -/
def newPower (s : State) (part power : Nat) : State :=
  let p := partAt s part
  let a := newAllow p.pcap power p.allow
  let floor : Bool := p.pcap ≠ 0 && decide (p.pcap < power) && a = 4
  let t := modPart s part fun p => { p with ppower := power % 2 ^ 32, allow := a, floor := p.floor || floor }
  if floor && !p.floor then raiseIrq t part irqFloor else t

/-- BRIDLE_INTERVAL: the end of an interval of 10 µs. From outside come what the monitors measured: of cores, the dynamic energy and the leakage; the
coefficients of activity that the interval calibrated for each core; and the energy of the hub's engines: energy in units of 10 nJ, which
over the interval are mW. Every workgroup's share is charged, and every partition's power is the sum of its workgroups' shares (R349, R350; log
110). -/
def execBridleInterval (cores : List (Nat × Nat × Nat)) (weights : List (Nat × Activity)) (hub : Nat) (s : State) : Host.Outcome State Fault Refusal :=
  .next (
    let rs := residents s
    let shares := rs.map fun r => (r, energyShare cores weights hub rs r)
    let power (p : Nat) : Nat := (shares.filter fun x => x.1.part = p).foldl (fun n x => n + x.2) 0
    (List.range 16).foldl (fun s p => newPower s p (power p)) (newInterval (shares.foldl chargeEnergy s)))

/-! ## Thermal holds (R382) -/

/-- THERMAL_LIMIT: a sensor of a die reads above 100 °C. -/
def execThermalLimit (die temp : Nat) (s : State) : Host.Outcome State Fault Refusal :=
  .next (if die < 4 && 100 < temp then { s with thermal := s.thermal.set die true } else s)

/-- THERMAL_LIMIT_END: every one of a die's 64 sensors reads below 95 °C. -/
def execThermalLimitEnd (die : Nat) (temps : List Nat) (s : State) : Host.Outcome State Fault Refusal :=
  .next (if die < 4 && temps.length = 64 && temps.all (· < 95) then { s with thermal := s.thermal.set die false } else s)

/-! ## The end of launches by an abort (R352, R380) -/

/-- A thread ends at a word boundary as EXIT does, without a commit (R352). -/
def killThread (s : State) (t : Nat) : State := endThread (dropSets s t) t

/-- A launch aborted: its threads end, its tasks leave the deques, and nothing more of it is placed. -/
def abortLaunch (s : State) (k : Nat) : State :=
  let s := modLaunch s k fun l => { l with status := .aborted, aborted := true }
  let mine (w : Nat) : Bool := match wgAt s w with
    | some x => x.launch = k
    | none => false
  let ts := (s.threads.filter fun p => mine (wgOf p.1)).map (·.1)
  let s := ts.foldl killThread s
  let dropWg (x : Nat × Workgroup) : Nat × Workgroup :=
    if x.2.launch = k then (x.1, { x.2 with arrivals := [], wantRegs := none }) else x
  let dropCore (x : Nat × Core) : Nat × Core :=
    (x.1, { x.2 with
      deque := x.2.deque.filter (fun t => t.launch ≠ k)
      reserved := if x.2.reserved = some k then none else x.2.reserved })
  let dropSaved (p : Partition) : Partition := { p with savedTasks := p.savedTasks.filter fun t => t.2.launch ≠ k }
  let keepOp (p : Nat × Op) : Bool := !(decide (p.2.kind = OpKind.joinRead) && p.2.launch = k)
  let s := { s with wgs := s.wgs.map dropWg, cores := s.cores.map dropCore }
  let s := { s with ops := s.ops.filter keepOp, parts := s.parts.map dropSaved }
  (s.groups.map (·.1)).foldl trimGroup s

/-- A record that is not active completes with ABORTED in the name of its queue's owner (R352). -/
def abortRecord (s : State) (q : Nat) (x : BitVec 512) : State :=
  addLaunch s { newLaunch s (recordOf x) q (queueAt s q).owner Header.none .aborted none with aborted := true }

/-- A device launch that is not active completes with ABORTED (R352). -/
def abortPending (s : State) (e : LaunchOp × LaunchRec × Nat × Nat) : State :=
  addLaunch s { newLaunch s e.2.1 e.2.2.1 e.2.2.2 Header.none .aborted (some e.1) with aborted := true }

/-- Every launch of a queue aborted (R352). -/
def abortQueue (s : State) (q : Nat) : State :=
  let waiting := if headActive s q then (queueAt s q).fifo.drop 1 else (queueAt s q).fifo
  let running := (s.launches.filter fun p => p.2.queue = q && p.2.status = .done).map (·.1)
  let s := modQueue s q fun x => { x with fifo := [] }
  let s := waiting.foldl (fun s x => abortRecord s q x) s
  let es := s.pendingStore.filter fun p => p.2.2.1 = q
  let s := { s with pendingStore := s.pendingStore.filter fun p => p.2.2.1 ≠ q }
  let s := es.foldl abortPending s
  running.foldl abortLaunch s

/-- QUEUE_ABORT: a write of 1 to QCTL.ABORT (R352, R363). -/
def execQueueAbort (who q : Nat) (s : State) : Host.Outcome State Fault Refusal := .next (if mayQueue s who q then abortQueue s q else s)

/-! ## Pre-emption (R353, R354) -/

def wgOfPart (s : State) (part w : Nat) : Bool :=
  match wgAt s w with
  | some x => x.part = part
  | none => false

/-- The deque entries of a partition removed and kept, older first (R284). -/
def saveTasks (s : State) (part : Nat) : State :=
  let kept := s.cores.flatMap fun (c, x) => (x.deque.reverse.filter fun t => t.part = part).map fun t => (c, t)
  let s := { s with cores := s.cores.map fun (c, x) => (c, { x with deque := x.deque.filter fun t => t.part ≠ part }) }
  modPart s part fun p => { p with savedTasks := p.savedTasks ++ kept }

/-- An open transaction tainted with TX-PREEMPT, its sets discarded (R172). -/
def preemptTx (issue : Nat) (s : State) (t : Nat) : State :=
  let k := threadToken s issue t ⟨.txPreempt, none, false, false⟩
  dropSets (taint k.1 t k.2) t

/-- Threads of a partition that are in a transaction. -/
def txThreads (s : State) (part : Nat) : List Nat :=
  (s.threads.filter fun (t, th) => wgOfPart s part (wgOf t) && th.region.mode = .tx).map (·.1)

/-- A matrix operation under pre-emption: one that has started, with the read of its block, pauses between two k-steps or rows, which its completion
record tells, and a Tandem wait keeps the cycles that it has counted (R233, R246, R252). -/
def pauseMx (now : Nat) (e : MxEntry) : MxEntry :=
  match e.stage with
  | .running _ | .ready => { e with res := { e.res with paused := true } }
  | .held c => { e with stage := .heldSaved (now - c) }
  | _ => e

/-- A Tandem wait goes on after the restore (R246). -/
def resumeMx (now : Nat) (e : MxEntry) : MxEntry :=
  match e.stage with
  | .heldSaved n => { e with stage := .held (now - n) }
  | _ => e

/-- The matrix operations of a partition. -/
def modMxOf (s : State) (part : Nat) (f : MxEntry → MxEntry) : State :=
  { s with cores := s.cores.map fun (c, x) => (c, { x with mxq := x.mxq.map fun (k, e) => (k, if wgOfPart s part e.wg then f e else e) }) }

def pauseEngines (s : State) (part : Nat) : State := modMxOf s part (pauseMx s.now)

/-- The copies of a partition stop between two units: a chunk whose write has not reached its home is read anew after the restore, so that what its
reading met is no event, and each copy starts again in its turn (R262, R265, R268, R270). -/
def stopCopies (s : State) (part : Nat) : State :=
  let held (o : Op) : Bool := wgOfPart s part o.wg && o.phase = .waiting && match o.eng with
    | some (.copy, _) => true
    | _ => false
  let gone := (s.ops.filter fun p => held p.2).map fun p => (p.2.core, p.2.eng, rowOf p.2)
  let stop (core k : Nat) (e : CopyEntry) : CopyEntry :=
    { e with
      running := e.running && e.req.rows = 0
      writing := e.writing.filter fun c => !gone.contains (core, some (.copy, k), c)
      events := e.events.filter fun x => match x.1 with
        | some c => !gone.contains (core, some (.copy, k), c)
        | none => true }
  { s with
    ops := s.ops.filter fun p => !held p.2
    cores := s.cores.map fun (c, x) => (c, { x with cpq := x.cpq.map fun (k, e) => (k, if wgOfPart s part e.wg then stop c k e else e) }) }

/-- The halt of a running partition (R353 steps 1 and 2). -/
def haltPart (s : State) (part : Nat) : State :=
  let s := modPart s part fun p => { p with pstate := .halting }
  let issue := s.nextIssue
  let s := (txThreads s part).foldl (preemptTx issue) { s with nextIssue := issue + 1 }
  stopCopies (pauseEngines (saveTasks (endIssue s issue) part) part) part

/-- PARTITION_PREEMPT: a write of 1 to PCTL.PREEMPT; outside RUNNING it has no effect (R330, R353). -/
def execPartitionPreempt (who part : Nat) (s : State) : Host.Outcome State Fault Refusal :=
  .next (if mayPart s who part && (partAt s part).pstate = .running then haltPart s part else s)

/-- Whether the save waits for a result of an atomic at a home of this package, for a FORK's acknowledgement, or for a copy's unit that its home is
writing (R270, R354). -/
def saveWaits (s : State) (part : Nat) : Bool :=
  (s.ops.any fun (_, o) => wgOfPart s part o.wg && !remoteOp s o && match o.kind with
    | .atomic .. => o.parts.any fun m => m.dst ≠ []
    | .fork _ => true
    | .engineWrite .. => match o.eng with
      | some (.copy, _) => true
      | _ => false
    | _ => false)
  || s.acks.any fun (_, o) => wgOfPart s part o.wg && match o.kind with
    | .forked .. => true
    | _ => false

/-- A thread as it is saved: a word that waits is saved as not issued, and its bound starts again after the restore (R142, R323, R353); one that
gave way is eligible after the restore (R136). The spec does not say since when a thread that is saved in flight counts as ready after the restore:
in the model since its save (DESIGN CHOICE, log 124). -/
def saveThread (now : Nat) (parked : Bool) (th : Thread) : Thread :=
  let th := { th with relSince := none, unacked := none }
  match th.cond with
  | .inFlight => if parked then th else { th with cond := .ready now 0 }
  | .ready since _ => { th with cond := .ready since 0 }
  | _ => th

/-- The groups of a partition: those in flight dissolve, those parked are saved (R142, R354). -/
def isPartGroup (s : State) (part : Nat) (G : Group) : Bool := G.members.any fun t => wgOfPart s part (wgOf t)

/-- Whether an access is a load, of a thread, of JOIN, or of the matrix engine, that is issued again at the restore (R354). -/
def isReissued (o : Op) : Bool :=
  match o.kind with
  | .load _ | .joinRead | .engineRead _ => true
  | _ => false

/-- Loads of a partition that have left for the fabric are given up (R354). -/
def reissueLoads (s : State) (part : Nat) : State :=
  let mine (o : Op) : Bool := wgOfPart s part o.wg && isReissued o && o.sent
  let drop (r : SrcReq) : SrcReq :=
    match r.owner with
    | .op j => match look s.ops j with
      | some o => if mine o then { r with owner := .dropped } else r
      | none => r
    | _ => r
  { s with
    reqs := s.reqs.map fun p => (p.1, drop p.2)
    ops := s.ops.map fun p => (p.1, if mine p.2 then { p.2 with sent := false, reply := none } else p.2) }

/-- The granules of the save area that a save may write, in the order of the granule list at PSAVE: 4 MiB for each core on which the partition has a
resident workgroup (R330, R353; log 26). -/
def saveGranules (s : State) (part : Nat) : List Nat :=
  let cores := ((s.wgs.filter fun p => p.2.part = part && !p.2.saved && !p.2.retired).map (·.2.core)).eraseDups.length
  (List.range (64 * cores)).map fun j => leNat (memGetN s.mem ((partAt s part).psave + 8 * j) 8) / 65536 % 2 ^ 36

/-- A granule of package memory that takes free bytes, but for its poisoned sectors. -/
def scramble (s : State) (mem : Memory) (g base : Nat) : Memory :=
  if isPkgMem (homeOf s (65536 * g)) && !locFrozen s (.phys (65536 * g) .uncached 0 0) 65536
  then (writeSectors false mem s.poison (65536 * g) ((List.range 65536).map fun j => Config.freeByte (base + j)) 65536).1 else mem

/-- The partition's state written to the save area. The layout is not architectural, so that every byte there is free afterwards (R353; log
26). -/
def writeSaveArea (s : State) (part : Nat) : State :=
  let gs := saveGranules s part
  let lines := ((s.dirs.flatMap fun d => d.2.map (·.1)) ++ s.pkgDir.map (·.1)).filter fun l => gs.contains (l / 256)
  lines.eraseDups.foldl (fun s l => invalidateNow s l none)
    { s with
      mem := gs.zipIdx.foldl (fun m (g, i) => scramble s m g (s.freeCtr + 65536 * i)) s.mem
      freeCtr := s.freeCtr + 65536 * gs.length }

/-- The cores on which a partition has workgroups. -/
def coresOfPart (s : State) (part : Nat) : List Nat := ((s.wgs.filter fun p => p.2.part = part).map (·.2.core)).eraseDups

/-- The save (R353 step 3, R354): tasks pushed since the halt are saved with the rest, and granules that wait for the freed lines are carved (R284,
R367). -/
def savePart (s : State) (part : Nat) : State :=
  let s := reissueLoads (saveTasks (writeSaveArea s part) part) part
  let parked := (s.groups.filter fun p => p.2.park.isSome).flatMap fun p => p.2.members
  let t := { s with
    threads := s.threads.map fun (t, th) => (t, if wgOfPart s part (wgOf t) then saveThread s.now (parked.contains t) th else th)
    groups := (s.groups.filter fun p => p.2.park.isSome || !isPartGroup s part p.2).map fun (g, G) =>
      (g, if isPartGroup s part G then { G with old := [] } else G)
    wgs := s.wgs.map fun (k, w) => (k, if w.part = part then { accrue s.now w with saved := true } else w)
    focus := match s.focus with
      | some g => match grpOf s g with
        | some G => if isPartGroup s part G && G.park.isNone then none else some g
        | none => some g
      | none => none }
  modPart ((coresOfPart t part).foldl settleCarve t) part fun p => { p with pstate := .saved }

/-- PARTITION_SAVED (R353 step 4). -/
def execPartitionSaved (part : Nat) (s : State) : Host.Outcome State Fault Refusal :=
  .next (if part < 16 && (partAt s part).pstate = .halting && !saveWaits s part then raiseIrq (savePart s part) part irqSaved else s)

/-! ## Restore (R284, R355) -/

/-- Whether a saved workgroup's own lanes, registers, lines and tiles are free on its core (R355). -/
def restoreFits (s : State) (w : Workgroup) : Bool :=
  let o := occOf s w.core fun _ => true
  if w.retired then decide (o.tiles + w.tiles.length ≤ 4) else
  (heldLanes w).all (fun l =>
      decide ((o.threads[l]?).getD 32 + w.hdr.depth ≤ 32) && decide ((o.regs[l]?).getD 2048 + w.regsN * w.hdr.depth ≤ 2048))
    && decide (o.lines + w.hdr.scratch ≤ 12288) && decide (o.tiles + w.tiles.length ≤ 4)

/-- Where a saved task returns: its own deque, the nearest core of its cluster in ring order with room, or for a task of reach die the same
core of the next cluster with room (R284). -/
def taskHome (s : State) (core : Nat) (t : Task) : Option Nat :=
  let c := core % 8
  let k := core / 8 % 8
  let d := 64 * (core / 64)
  let ring := (List.range 8).map fun j => d + 8 * k + (c + j) % 8
  let far := if t.reach = .die then (List.range' 1 7).map fun i => d + 8 * ((k + i) % 8) + c else []
  (ring ++ far).find? fun x => dequeRoom s x && !(coreAt s x).offline

/-- Saved tasks pushed back, older first, as far as there is room; the rest stay saved. -/
def restoreTasks : List (Nat × Task) → State → State × List (Nat × Task)
  | [], s => (s, [])
  | (c, t) :: r, s =>
    match taskHome s c t with
    | some x => if takeDue s x 0 then restoreTasks r (pushTask s x t) else (s, (c, t) :: r)
    | none => (s, (c, t) :: r)

/-- A restoring partition whose workgroups are all restored: its deque entries go back, and it runs again (R355). -/
def finishRestore (s : State) (part : Nat) : State :=
  let p := partAt s part
  if p.pstate ≠ .restoring || s.wgs.any (fun x => x.2.part = part && x.2.saved) then s
  else
    let r := restoreTasks p.savedTasks s
    let s := if r.2.isEmpty then modMxOf r.1 part (resumeMx s.now) else r.1
    modPart s part fun p => { p with savedTasks := r.2, pstate := if r.2.isEmpty then .running else .restoring }

/-- PARTITION_RESUME: a write of 1 to PCTL.RESUME; outside SAVED it has no effect (R330, R355). -/
def execPartitionResume (who part : Nat) (s : State) : Host.Outcome State Fault Refusal :=
  .next (
    if mayPart s who part && (partAt s part).pstate = .saved
    then finishRestore (modPart s part fun p => { p with pstate := .restoring }) part else s)

/-- The requests of a restored workgroup whose result is still to come are sent again, with their sequence numbers (R354). -/
def resendAtomics (s : State) (wg : Nat) : State :=
  (s.reqs.filter fun p => reqSaved s p.2 && p.2.firstAt.isSome && !p.2.queued && match p.2.owner with
    | .op j => ((look s.ops j).map (·.wg)) = some wg
    | _ => false).foldl (fun s (k, r) => resend s k r 1 (some s.now)) s

/-- The accesses of a restored workgroup that are still to be sent enter their flows now, each thread's in program order (R354, R421). -/
def enterAnew (s : State) (wg : Nat) : State :=
  { s with ops := s.ops.map fun p => (p.1, if p.2.wg = wg && !p.2.sent then { p.2 with entered := s.now } else p.2) }

/-- A saved workgroup back on its core; the time spent saved is not charged (R355). -/
def restoreWg (s : State) (wg : Nat) (w : Workgroup) : State :=
  if w.saved && (partAt s w.part).pstate = .restoring && restoreFits s w
  then modWg (resendAtomics (enterAnew s wg) wg) wg fun w => { w with saved := false, laneAt := s.now } else s

/-- WORKGROUP_RESTORE: a saved workgroup is restored once its resources are free; the last one, with the deque entries, makes the partition
RUNNING (R355). -/
def execWorkgroupRestore (wg : Nat) (s : State) : Host.Outcome State Fault Refusal :=
  .next (
    let s := match wgAt s wg with
      | some w => restoreWg s wg w
      | none => s
    (List.range 16).foldl finishRestore s)

end Sys2Proof.Machine
end

