-- ==== Sys2Proof/Machine/Hub.lean ====
section
/-! DEFINITION. The hub register space: what a control core's write does to each register, and what a read returns (R329, R330, R334, R361,
R363 to R367, R369, R370, R372, R374, R377, R391, R402). -/

namespace Sys2Proof.Machine

/-! ## Where a register lies (R328, R330, R364, R365) -/

/-- A register of hub register space. -/
inductive HubReg
  | queue (q off : Nat)
  | part (p off : Nat)
  | manager (off : Nat)
  deriving DecidableEq, Repr

/-- The register at an offset of the space. -/
def hubReg (off : Nat) : Option HubReg :=
  if off < 0x200000 then some (.queue (off / 128) (off % 128))
  else if off < 0x210000 then some (.part ((off - 0x200000) / 0x1000) ((off - 0x200000) % 0x1000))
  else if 0x1000000 ≤ off && off < 0x1004000 then some (.manager (off - 0x1000000))
  else none

/-- Some bits of a value, in place. -/
def keepBits (x : DWord) (lo n : Nat) : Nat := (x.extractLsb' lo n).toNat * 2 ^ lo

def bitsAt (x : DWord) (lo n : Nat) : Nat := (x.extractLsb' lo n).toNat

/-! ## Measurement of a partition's configuration (R377) -/

/-- A measurement register extended with data (R377). -/
def extendAt (s : State) (k : Nat) (data : List Byte) : State :=
  { s with measure := modAt s.measure k fun m => extendMeasure m data }

/-- A manager's write of a configuration register measured in its partition's register (log 29). -/
def measurePart (s : State) (p off : Nat) (v : DWord) : State := if p < 16 then extendAt s (16 + p) (Config.partitionData off v) else s

/-! ## Queue windows (R329) -/

/-- A write of QSTAT clears DROPS (R329). -/
def clearDrops (s : State) (q : Nat) : State := modQueue s q fun x => { x with drops := 0 }

/-- A write of QCTL: the owner by the manager only, the enable, and the abort (R329, R352, R363). -/
def writeQctl (s : State) (manager : Bool) (q off : Nat) (v : DWord) : State :=
  let s := modQueue s q fun x => { x with enable := v.getLsbD 0, owner := if manager then bitsAt v 4 4 else x.owner }
  let s := if manager then measurePart s (bitsAt v 4 4) off v else s
  if v.getLsbD 1 then abortQueue s q else s

def writeQueue (s : State) (who q off : Nat) (v : DWord) : State :=
  if !mayQueue s who q then s
  else if off < 0x40 then modQueue s q fun x => { x with drops := min (x.drops + 1) 0xFFFF }
  else match off with
    | 0x40 => writeQctl s (isManager s who) q (128 * q + off) v
    | 0x48 => clearDrops s q
    | 0x50 => modQueue s q fun x => { x with energy := v.toNat }
    | 0x60 => if isManager s who then modQueue s q fun x => { x with quantum := bitsAt v 0 32 } else s
    | _ => s

/-! ## Partition blocks (R330, R334, R361, R364, R369, R391, R402) -/

/-- A write of 1 to PSTAT.FLOOR (R330). -/
def clearFloor (s : State) (p : Nat) : State := modPart s p fun x => { x with floor := false }

/-- A write of PIRQ clears the bits that are 1 (R364). -/
def clearPirq (s : State) (p : Nat) (mask : DWord) : State := modPart s p fun x => { x with pirq := x.pirq &&& ~~~(mask.setWidth 6) }

/-- A signal timeline set by system software (R334). -/
def writeSig (s : State) (p i : Nat) (v : DWord) : State := modPart s p fun x => { x with sig := put x.sig i v.toNat }

/-- Whether an invalidation names a TLB entry (R361). -/
def invHits (p : Nat) (x : TlbInv) (e : TlbEntry) : Bool :=
  e.part = p && match x.kind with
    | 0 => e.asid = x.asid && decide (e.page ≤ x.va) && decide (x.va < e.page + e.size)
    | 1 => e.asid = x.asid
    | _ => true

/-- TLB entries that an invalidation has not reached yet: which, a free choice says (log 10). -/
def sweepTlb (hit : TlbEntry → Bool) : List TlbEntry → State → List TlbEntry × State
  | [], s => ([], s)
  | e :: r, s =>
    if hit e then
      let d := drawBool s
      let x := sweepTlb hit r d.2
      (if d.1 then x.1 else e :: x.1, x.2)
    else
      let x := sweepTlb hit r s
      (e :: x.1, x.2)

def sweepCores (hit : TlbEntry → Bool) (s : State) (c : Nat) : State :=
  let x := sweepTlb hit (coreAt s c).tlb s
  modCore x.2 c fun y => { y with tlb := x.1 }

def sweepClusters (hit : TlbEntry → Bool) (s : State) (c : Nat) : State :=
  let x := sweepTlb hit (lookD s.clusterTlb c []) s
  { x.2 with clusterTlb := put x.2.clusterTlb c x.1 }

/-- A write of TLBINV while BUSY is 0 starts an invalidation; the entries go from now on (R361). -/
def startInv (s : State) (p : Nat) (x : TlbInv) : State :=
  if (partAt s p).tlbinv.isSome || 3 ≤ x.kind then s
  else
    let hit := invHits p x
    let s := modPart s p fun y => { y with tlbinv := some x }
    let s := (s.cores.map (·.1)).foldl (sweepCores hit) s
    (s.clusterTlb.map (·.1)).foldl (sweepClusters hit) s

/-- An invalidation complete: every entry that it names is gone (R361). -/
def finishInv (s : State) (p : Nat) : State :=
  match (partAt s p).tlbinv with
  | none => s
  | some x =>
    let keep (es : List TlbEntry) : List TlbEntry := es.filter fun e => !invHits p x e
    let s := modPart s p fun y => { y with tlbinv := none }
    { s with
      cores := s.cores.map fun q => (q.1, { q.2 with tlb := keep q.2.tlb })
      clusterTlb := s.clusterTlb.map fun q => (q.1, keep q.2) }

/-- A write of RSET (R369). -/
def resolveRecord (s : State) (p core idx gen : Nat) (st : Byte) : State :=
  let r := recAt s core idx
  if core < 255 && idx < 256 && r.status = stPending && r.part.toNat = p && r.gen.toNat = gen then setRec s core idx { r with status := st } else s

/-- A flow frozen at this device for a partition resolved, and its message on its way (R402). -/
def resolveFlow (s : State) (p sdev score stream : Nat) (resume : Bool) : State :=
  let hit (x : DstFlow) : Bool := x.sdev = sdev && x.score = score && x.stream = stream && x.frozenAt.isSome && x.part = p
  let named (x : DstFlow) : Dest := if x.home = 0 then .dev s.pkg else .peer (x.home - 1)
  { s with
    dstFlows := s.dstFlows.map fun x => if hit x then { x with frozenAt := none } else x
    flowMsgs := s.flowMsgs ++ (s.dstFlows.filter hit).map fun x => (⟨score, named x, stream⟩, sdev, resume) }

/-- The effect of a write of PCTL (R330). -/
def writePctl (s : State) (p : Nat) (v : DWord) : State :=
  if v.getLsbD 0 && (partAt s p).pstate = .running then haltPart s p
  else if v.getLsbD 1 && (partAt s p).pstate = .saved then finishRestore (modPart s p fun x => { x with pstate := .restoring }) p
  else s

/-- Registers of a partition block that only the manager writes (R363, R391). -/
def managerOnly (off : Nat) : Bool := [0x010, 0x028, 0x038, 0x0E8, 0x0F0, 0x0F8].contains off

def writePartReg (s : State) (p off : Nat) (v : DWord) : State :=
  let set (f : Partition → Partition) : State := modPart s p f
  if 0x800 ≤ off then writeSig s p ((off - 0x800) / 8) v
  else match off with
    | 0x000 => writePctl s p v
    | 0x008 => if v.getLsbD 2 then clearFloor s p else s
    | 0x010 => measurePart (set fun x => { x with pcap := bitsAt v 0 32 }) p (0x200000 + 0x1000 * p + off) v
    | 0x028 => set fun x => { x with psave := v.toNat }
    | 0x038 => set fun x => { x with proot := keepBits v 16 36, asid := bitsAt v 0 8 }
    | 0x040 => startInv s p { kind := bitsAt v 8 2, va := keepBits v 16 40, asid := bitsAt v 0 8 }
    | 0x048 => set fun x => { x with fqbase := BitVec.ofNat 64 (keepBits v 12 40 + bitsAt v 0 4) }
    | 0x050 => set fun x => { x with fqhead := bitsAt v 0 32 }
    | 0x060 =>
      if bitsAt v 32 8 = 3 || bitsAt v 32 8 = 4 then resolveRecord s p (bitsAt v 16 8) (bitsAt v 8 8) (bitsAt v 24 8) (BitVec.ofNat 8 (bitsAt v 32 8))
      else s
    | 0x068 => set fun x => { x with sqbase := BitVec.ofNat 64 (keepBits v 12 40 + bitsAt v 0 4) }
    | 0x070 => set fun x => { x with sqhead := bitsAt v 0 32 }
    | 0x0C0 => set fun x => { x with pintaddr := v }
    | 0x0C8 => set fun x => { x with pintdata := v.setWidth 32 }
    | 0x0D0 => clearPirq s p v
    | 0x0D8 => set fun x => { x with pirqen := v.setWidth 6 }
    | 0x0E0 => set fun x => { x with pdbg := v.getLsbD 0 }
    | 0x0E8 => set fun x => { x with pswva := keepBits v 50 6 }
    | 0x0F0 => set fun x => { x with pftid := bitsAt v 0 16 }
    | 0x0F8 => set fun x => { x with pexEnable := v.getLsbD 63, pexRoot := keepBits v 16 36, pexAsid := bitsAt v 0 8 }
    | 0x100 =>
      if bitsAt v 0 2 = 1 || bitsAt v 0 2 = 2 then resolveFlow s p (bitsAt v 21 11) (bitsAt v 13 8) (bitsAt v 9 4) (bitsAt v 0 2 = 1) else s
    | _ => s

def writePart (s : State) (who p off : Nat) (v : DWord) : State :=
  if !mayPart s who p || (managerOnly off && !isManager s who) then s else writePartReg s p off v

/-! ## The manager block (R365, R367, R374) -/

/-- A key slot receives a new key, or loses its key: bytes written under the old one are undecryptable (R365, R366, R374). -/
def newKey (s : State) (slot : Nat) (loaded : Bool) : State :=
  let bit := BitVec.ofNat 32 (2 ^ slot)
  { s with
    keystat := if loaded then s.keystat ||| bit else s.keystat &&& ~~~bit
    keyGen := modAt s.keyGen slot fun g => g + 1 }

/-- Core-pinned memory whose granules are no longer carved holds zeros (R367). -/
def clearGranules (s : State) (core : Nat) (gone : BitVec 24) : State :=
  let base := 0x0E0000000000 + core * 0x200000
  let hit (a : Nat) : Bool := decide (base ≤ a) && decide (a < base + 24 * 65536) && gone.getLsbD ((a - base) / 65536)
  { s with mem := s.mem.filter (fun c => !hit c.1), poison := s.poison.filter fun c => !hit (64 * c.1) }

/-- A write of PINMAP: cleared bits return their lines with zero contents, set bits take effect as lines come free (R367). -/
def writePinmap (s : State) (core : Nat) (map : BitVec 24) : State :=
  let gone := (coreAt s core).carve &&& ~~~map
  let s := clearGranules s core gone
  let s := modCore s core fun c => { c with carve := c.carve &&& map }
  settleCarve { s with pinmap := put s.pinmap core map } core

/-- A window register changed (R365). -/
def modWindow (s : State) (p w : Nat) (f : Window → Window) : State := modPart s p fun x => { x with windows := modAt x.windows w f }

def writeManagerReg (s : State) (off : Nat) (v : DWord) : State :=
  let at0 := 0x1000000 + off
  if off < 0x100 then
    (if bitsAt v 0 5 ≤ 16 then measurePart { s with ccpart := s.ccpart.set (off / 8) (bitsAt v 0 5) } (bitsAt v 0 5) at0 v else s)
  else if off = 0x400 then
    (match bitsAt v 8 2 with
      | 1 => newKey s (bitsAt v 0 5) true
      | 2 => newKey s (bitsAt v 0 5) false
      | _ => s)
  else if 0x800 ≤ off && off < 0x1000 then writePinmap s ((off - 0x800) / 8) (v.setWidth 24)
  else if 0x1000 ≤ off && off < 0x2000 then
    let p := (off - 0x1000) / 0x100
    let w := (off - 0x1000) % 0x100 / 16
    let s := if off % 16 = 0 then modWindow s p w fun x => { x with first := bitsAt v 16 36, key := bitsAt v 1 5, valid := v.getLsbD 0 }
      else modWindow s p w fun x => { x with last := bitsAt v 16 36 }
    measurePart s p at0 v
  else s

/-! ## What the manager fills outside the register space (R375, R408; log 111) -/

/-- The key of a partition and a peer installed, 0 for none (R375). -/
def installKey (s : State) (who part : Nat) (peer : Dest) (key : Nat) : State :=
  if isManager s who && decide (part < 16) then { s with fabKeys := ((part, peer), key) :: s.fabKeys.filter fun x => x.1 ≠ (part, peer) } else s

/-- An entry of the peer table filled (R408). -/
def fillPeer (s : State) (who idx : Nat) (addrs : List Byte) : State :=
  if isManager s who && decide (idx < 4096) then { s with peers := put s.peers idx addrs } else s

/-! ## A write (R329, R363) -/

/-- A write of another size or alignment: one to PORT advances DROPS, any other changes nothing (R329, R331). -/
def writeUnaligned (s : State) (who off : Nat) : State :=
  match hubReg off with
  | some (.queue q o) => if mayQueue s who q && decide (o < 0x40) then modQueue s q fun x => { x with drops := min (x.drops + 1) 0xFFFF } else s
  | _ => s

/-- An aligned 64-bit write. -/
def writeReg (s : State) (who off : Nat) (v : DWord) : State :=
  match hubReg off with
  | some (.queue q o) => writeQueue s who q o v
  | some (.part p o) => writePart s who p o v
  | some (.manager o) => if isManager s who then writeManagerReg s o v else s
  | none => s

/-- REGISTER_WRITE: a control core writes a register of hub register space (R329, R363). -/
def execRegisterWrite (who off : Nat) (value : DWord) (aligned : Bool) (s : State) : Host.Outcome State Fault Refusal :=
  .next (if aligned && off % 8 = 0 then writeReg s who off value else writeUnaligned s who off)

/-! ## A read (R329, R363) -/

/-- What a queue window reads as. -/
def readQueue (s : State) (q off : Nat) : DWord :=
  let x := queueAt s q
  match off with
  | 0x40 => BitVec.ofNat 64 (16 * x.owner + if x.enable then 1 else 0)
  | 0x48 =>
    let busy : Bool := s.launches.any fun p => p.2.queue = q && (isPlacing p.2 || s.wgs.any fun w => w.2.launch = p.1 && !w.2.retired)
    BitVec.ofNat 64 (2 ^ 48 * x.drops + (if busy then 2 ^ 16 else 0) + x.fifo.length)
  | 0x50 => BitVec.ofNat 64 x.energy
  | 0x58 => BitVec.ofInt 64 x.deficit
  | 0x60 => BitVec.ofNat 64 x.quantum
  | _ => 0

/-- PSAVESZ of the VX9-M256 (R330). -/
def psaveSize : Nat := 0x40000000

def pstateCode : PState → Nat
  | .running => 0
  | .halting => 1
  | .saved => 2
  | .restoring => 3

/-- What a partition block reads as. -/
def readPart (s : State) (p off : Nat) : DWord :=
  let x := partAt s p
  if 0x800 ≤ off then BitVec.ofNat 64 (lookD x.sig ((off - 0x800) / 8) 0)
  else match off with
    | 0x008 => BitVec.ofNat 64 ((if x.floor then 4 else 0) + pstateCode x.pstate)
    | 0x010 => BitVec.ofNat 64 x.pcap
    | 0x018 => BitVec.ofNat 64 x.ppower
    | 0x020 => BitVec.ofNat 64 x.allow
    | 0x028 => BitVec.ofNat 64 x.psave
    | 0x030 => BitVec.ofNat 64 psaveSize
    | 0x038 => BitVec.ofNat 64 (x.proot + x.asid)
    | 0x040 => if x.tlbinv.isSome then 1 else 0
    | 0x048 => x.fqbase
    | 0x050 => BitVec.ofNat 64 x.fqhead
    | 0x058 => BitVec.ofNat 64 x.fqtail
    | 0x068 => x.sqbase
    | 0x070 => BitVec.ofNat 64 x.sqhead
    | 0x078 => BitVec.ofNat 64 x.sqtail
    | 0x0C0 => x.pintaddr
    | 0x0C8 => x.pintdata.setWidth 64
    | 0x0D0 => x.pirq.setWidth 64
    | 0x0D8 => x.pirqen.setWidth 64
    | 0x0E0 => if x.pdbg then 1 else 0
    | 0x0E8 => BitVec.ofNat 64 x.pswva
    | 0x0F0 => BitVec.ofNat 64 x.pftid
    | 0x0F8 => BitVec.ofNat 64 ((if x.pexEnable then 2 ^ 63 else 0) + x.pexRoot + x.pexAsid)
    | _ => 0

/-- What the manager block reads as. -/
def readManager (s : State) (off : Nat) : DWord :=
  let window (p w : Nat) : Window := ((partAt s p).windows[w]?).getD ⟨0, 0, false, 0⟩
  if off < 0x100 then BitVec.ofNat 64 ((s.ccpart[off / 8]?).getD 0)
  else if off = 0x408 then s.keystat.setWidth 64
  else if 0x800 ≤ off && off < 0x1000 then (lookD s.pinmap ((off - 0x800) / 8) 0).setWidth 64
  else if 0x1000 ≤ off && off < 0x2000 then
    let x := window ((off - 0x1000) / 0x100) ((off - 0x1000) % 0x100 / 16)
    BitVec.ofNat 64 (if off % 16 = 0 then 2 ^ 16 * x.first + 2 * x.key + (if x.valid then 1 else 0) else 2 ^ 16 * x.last)
  else if 0x2000 ≤ off && off < 0x2020 then lookD s.coreoff ((off - 0x2000) / 8) 0
  else if 0x2040 ≤ off && off < 0x2060 then BitVec.ofNat 64 ((s.cxlsz[(off - 0x2040) / 8]?).getD 0)
  else 0

/-- What a control core's read returns: zero where it is refused, reserved or write-only, or of another size or alignment (R8, R329, R363). -/
def hubRead (s : State) (who off : Nat) (aligned : Bool) : DWord :=
  if !aligned || off % 8 ≠ 0 then 0
  else match hubReg off with
    | some (.queue q o) => if mayQueue s who q then readQueue s q o else 0
    | some (.part p o) => if mayPart s who p then readPart s p o else 0
    | some (.manager o) => if isManager s who then readManager s o else 0
    | none => 0

/-! ## The steps that one register each stands for -/

/-- QSTAT_CLEAR_DROPS (R329). -/
def execQstatClearDrops (who q : Nat) (s : State) : Host.Outcome State Fault Refusal := .next (if mayQueue s who q then clearDrops s q else s)

/-- FLOOR_CLEAR (R330). -/
def execFloorClear (who part : Nat) (s : State) : Host.Outcome State Fault Refusal := .next (if mayPart s who part then clearFloor s part else s)

/-- PIRQ_CLEAR (R364). -/
def execPirqClear (who part : Nat) (mask : DWord) (s : State) : Host.Outcome State Fault Refusal :=
  .next (if mayPart s who part then clearPirq s part mask else s)

/-- TLBINV_PAGE (R361). -/
def execTlbinvPage (who part : Nat) (va : DWord) (asid : Nat) (s : State) : Host.Outcome State Fault Refusal :=
  .next (if mayPart s who part then startInv s part { kind := 0, va := keepBits va 16 40, asid := asid % 256 } else s)

/-- TLBINV_ASID (R361). -/
def execTlbinvAsid (who part asid : Nat) (s : State) : Host.Outcome State Fault Refusal :=
  .next (if mayPart s who part then startInv s part { kind := 1, va := 0, asid := asid % 256 } else s)

/-- TLBINV_PARTITION (R361). -/
def execTlbinvPartition (who part : Nat) (s : State) : Host.Outcome State Fault Refusal :=
  .next (if mayPart s who part then startInv s part { kind := 2, va := 0, asid := 0 } else s)

/-- TLBINV_COMPLETE (R361). -/
def execTlbinvComplete (part : Nat) (s : State) : Host.Outcome State Fault Refusal := .next (if part < 16 then finishInv s part else s)

/-- RSET_SERVICED: the record is serviced; a replay that leaves its park acquires at .sys (R369, R370). -/
def execRsetServiced (who part core idx gen : Nat) (s : State) : Host.Outcome State Fault Refusal :=
  .next (if mayPart s who part then resolveRecord s part core idx gen stServiced else s)

/-- RSET_REFUSED (R369). -/
def execRsetRefused (who part core idx gen : Nat) (s : State) : Host.Outcome State Fault Refusal :=
  .next (if mayPart s who part then resolveRecord s part core idx gen stRefused else s)

/-- KEY_GENERATE (R374). -/
def execKeyGenerate (who slot : Nat) (s : State) : Host.Outcome State Fault Refusal :=
  .next (if isManager s who && decide (slot < 32) then newKey s slot true else s)

/-- KEY_ERASE (R365). -/
def execKeyErase (who slot : Nat) (s : State) : Host.Outcome State Fault Refusal :=
  .next (if isManager s who && decide (slot < 32) then newKey s slot false else s)

/-- PINMAP_WRITE (R367). -/
def execPinmapWrite (who core : Nat) (map : BitVec 24) (s : State) : Host.Outcome State Fault Refusal :=
  .next (if isManager s who && decide (core < 256) then writePinmap s core map else s)

/-- FLOWRES_RESUME (R402). -/
def execFlowresResume (who part sdev score stream : Nat) (s : State) : Host.Outcome State Fault Refusal :=
  .next (if mayPart s who part then resolveFlow s part sdev score stream true else s)

/-- FLOWRES_ABORT (R402). -/
def execFlowresAbort (who part sdev score stream : Nat) (s : State) : Host.Outcome State Fault Refusal :=
  .next (if mayPart s who part then resolveFlow s part sdev score stream false else s)

/-- SIGNAL_TIMELINE_WRITE (R334). -/
def execSignalTimelineWrite (who part idx : Nat) (value : DWord) (s : State) : Host.Outcome State Fault Refusal :=
  .next (if mayPart s who part && decide (idx < 256) then writeSig s part idx value else s)

/-! ## Service requests and debug events (R137, R138, R372) -/

/-- The registers of an octet that a mask selects, written clean. -/
def maskedRegs (th : Thread) (octet : Nat) (mask : BitVec 8) (vals : List Word) : Thread :=
  (List.range 8).foldl (fun th k => if mask.getLsbD k then setReg th (octet + k) (.clean ((vals[k]?).getD 0)) else th) th

/-- The thread of a request, while it is parked with it. -/
def requestTh (s : State) (r : Request) : Option Thread := liveTh s r.th r.serial

/-- The request answered: no longer pending. -/
def dropRequest (s : State) (p id : Nat) : State := modPart s p fun x => { x with pending := del x.pending id }

/-- The place of a token that a request's end makes (R372). -/
def requestOrg (s : State) (r : Request) (th : Thread) (issue : Nat) : Org :=
  { orgOf s issue r.th th with span := r.origin, off := r.originOff }

/-- The thread of a request aborts its region with a token (R125, R372). -/
def requestAbort (s : State) (r : Request) (th : Thread) (f : Why) : State :=
  let issue := s.nextIssue
  let k := makeToken { s with nextIssue := issue + 1 } (requestOrg s r th issue) f
  endIssue (abortRegion k.1 r.th k.2) issue

/-- The acquire at .sys of a thread that its request's end resumes (R309, R317, R372). -/
def resumeAcquires (s : State) (r : Request) : State :=
  match wgAt s (wgOf r.th) with
  | some w => dropSelfInv s w.core .sys
  | none => s

/-- A BKPT released at its label, or at the address that the debugger gives, with its acquire (R125, R138, R309). -/
def releaseBkpt (s : State) (r : Request) (th : Thread) (target : DWord) : State :=
  let v : DWord := if target = 0 then r.label else target
  match badTarget (cleanVal v) with
  | some (.make f) => requestAbort s r th f
  | _ => resumeAcquires (goTo s r.th v 0) r

/-- A SYSCALL completed: its masked registers, its resume point, and the acquire at .sys (R137, R372). -/
def completeCall (s : State) (r : Request) (mask : BitVec 8) (vals : List Word) : State :=
  let s := modTh s r.th fun th => maskedRegs th r.octet mask vals
  resumeAcquires (goTo s r.th r.label 0) r

/-- SCOMP_COMPLETE: a store to SCOMP completes a pending request (R372). -/
def execScompComplete (who part reqid : Nat) (mask : BitVec 8) (vals : List Word) (target : DWord) (s : State) : Host.Outcome State Fault Refusal :=
  .next (
    if !mayPart s who part then s
    else match look (partAt s part).pending reqid with
      | none => s
      | some r =>
        let t := dropRequest s part reqid
        match requestTh t r with
        | none => t
        | some th => if r.isBkpt then releaseBkpt t r th target else completeCall t r mask vals)

/-- SCOMP_ABANDON: the thread aborts its region with INVALID (R372). -/
def execScompAbandon (who part reqid : Nat) (s : State) : Host.Outcome State Fault Refusal :=
  .next (
    if !mayPart s who part then s
    else match look (partAt s part).pending reqid with
      | none => s
      | some r =>
        let t := dropRequest s part reqid
        match requestTh t r with
        | none => t
        | some th => requestAbort t r th (why .invalid r.origin))

/-- Offset of SCOMP in a partition block (R364). -/
def scompAt : Nat := 0x080

/-- The 64 bytes that a store to SCOMP brings (R372). -/
def scompStore (who part : Nat) (x : BitVec 512) (s : State) : Host.Outcome State Fault Refusal :=
  let reqid := (x.extractLsb' 128 64).toNat
  match (x.extractLsb' 0 2).toNat with
  | 0 =>
    execScompComplete who part reqid (x.extractLsb' 8 8) ((List.range 8).map fun k => x.extractLsb' (256 + 32 * k) 32) (x.extractLsb' 192 64) s
  | 1 => execScompAbandon who part reqid s
  | _ => .next s

/-- DEBUG_RELEASE: the debugger releases a thread that is parked at BKPT (R138). -/
def execDebugRelease (who part reqid : Nat) (target : DWord) (s : State) : Host.Outcome State Fault Refusal :=
  .next (
    if !mayPart s who part then s
    else match look (partAt s part).pending reqid with
      | none => s
      | some r =>
        if !r.isBkpt then s
        else
          let t := dropRequest s part reqid
          match requestTh t r with
          | none => t
          | some th => releaseBkpt t r th target)

end Sys2Proof.Machine
end

