-- ==== Sys2Proof/Machine/Home.lean ====
section
/-! DEFINITION. The steps of the memory system that perform accesses: LOAD_RESULT, HOME_STORE, HOME_ATOMIC, INVALIDATION_ACK, STORE_ACK and
TLB_WALK (R28, R217, R222 to R224, R278, R286, R296, R299, R313, R359). -/

namespace Sys2Proof.Machine

/-- Whether an access waits for the line of its core's scratchpad (R206). -/
def lineWaits (s : State) (o : Op) : Bool := lineAbsent s o.loc o.n && !(isLoad o && allHeld o)

/-- Whether the threads of an access are saved: their loads are performed after the restore (R354). -/
def opSaved (s : State) (o : Op) : Bool :=
  match wgAt s o.wg with
  | some w => w.saved
  | none => false

/-- JOIN's counter read at its home: zero ends the wait, poison suppresses it, and any other value leaves it (R347). -/
def readCounter (s : State) (k : Nat) (o : Op) : State :=
  match poisonAt s o.loc 8 with
  | some c => endIssue (delOp (joinFailed s o c) k) o.issue
  | none =>
    let m := readLoc s o.loc 8
    if leNat m.1 = 0 then endIssue (delOp (joinZero m.2 o) k) o.issue else m.2

/-- LOAD_RESULT: a load is performed and its result written (R217, R311); one to the fabric sends its request (R395). A read of JOIN is one
too (R347). -/
def execLoadResult (k : Nat) (s : State) : Host.Outcome State Fault Refusal :=
  .next (match look s.ops k with
    | none => s
    | some o =>
      if opSaved s o then s
      else match o.kind with
      | .joinRead =>
        if mustWait s k o then s
        else if remoteOp s o then (if o.sent then s else sendRemote s k o)
        else if readWaits s o then s
        else readCounter s k o
      | .engineRead va =>
        if remoteOp s o then (if o.sent then s else sendRemote s k o)
        else
          let r := readLoc s o.loc o.n
          engineGot (delOp r.2 k) o va r.1 ((poisonAt s o.loc o.n).map fun c => (c, none))
      | .load form =>
        if mustWait s k o || lineWaits s o || fillPending s o then s
        else if remoteOp s o && !allHeld o then (if o.sent then s else sendRemote s k o)
        else if readWaits s o && !allHeld o then s
        else performLoad s k o form
      | _ => s)

/-! ## Writes performed at their home -/

/-- The address of an access's first byte in package memory, which directories cover. -/
def dirAddr (s : State) (l : Loc) : Option Nat :=
  match l with
  | .phys pa _ _ _ => if isPkgMem (homeOf s pa) then some pa else none
  | .spad _ _ => none

/-- Whether another write to a sector of the access still counts acknowledgements, or its line is being recalled (R296). -/
def writeWaits (s : State) (k : Nat) (o : Op) : Bool :=
  match dirAddr s o.loc with
  | none => false
  | some pa =>
    sectorsCounting { s with ops := del s.ops k } pa o.n || entryBusy (dirAt s (homeDie s pa) (pa / 256))

/-- The bytes of a write that an access makes. -/
def opBytes (o : Op) : List Byte :=
  match o.kind with
  | .store bs | .forked _ bs => bs
  | .engineWrite _ bs .. => bs
  | _ => []

/-- A performed write on its way back to its core, with what it wrote (R28, R278). -/
def pushAck (s : State) (k : Nat) (o : Op) (bs : List Byte) : State :=
  let p := s.perfCtr + 1
  let kind : OpKind := match o.kind with
    | .engineWrite va b c row => .engineWrite va b c row
    | _ => .store bs
  let s := { s with perfCtr := p, ops := del s.ops k, acks := put s.acks k { o with kind := kind, phase := .performed p, blocking := false } }
  match o.loc with
  | .phys pa _ _ _ => afterWrite s pa o.core
  | .spad _ _ => s

/-- An atomic that reads a poisoned sector writes nothing: each destination receives poison, and each thread is tainted (R224). -/
def atomPoisoned (s : State) (o : Op) (c : Cause) : State :=
  o.parts.foldl (fun s m => (applyLate s (lateOf o m c) false).1) s

/-- An atomic performed: every thread of the aggregate receives its old value, and the new value is written (R222 to R224). -/
def performAtomic (s : State) (k : Nat) (o : Op) (op : AtomOp) (wide : Bool) : State :=
  match poisonAt s o.loc o.n with
  | some c => endIssue (delOp (opAcquire (atomPoisoned s o c) o) k) o.issue
  | none =>
    let m := readLoc s o.loc o.n
    let r := aggregate op wide (BitVec.ofNat 64 (leNat m.1)) (o.parts.map fun x => (x.d, x.e))
    let bs := leBytes o.n r.2.toNat
    let s := writeLoc m.2 false o.loc bs
    let s := pushAck s k o bs
    opAcquire (deliverOlds s o.parts r.1) o

/-- An addition to a 64-bit counter performed: the bytes written, or the token's cause if it met poison (R344, R346). -/
def addCounter (s : State) (o : Op) (x : DWord) : Except Cause (List Byte) × State :=
  match poisonAt s o.loc 8 with
  | some c => (.error c, s)
  | none =>
    let m := readLoc s o.loc 8
    let bs := leBytes 8 (BitVec.ofNat 64 (leNat m.1) + x).toNat
    (.ok bs, writeLoc m.2 false o.loc bs)

/-- The access of a counter's addition on its way back to its core: its threads' later releases wait for the acknowledgement, which lowers no
counter of theirs (R280, R315, R346). -/
def uncounted (o : Op) : Op := { o with parts := o.parts.map fun m => { m with dst := [0] } }

/-- A write or an atomic performed at its home. -/
def performWrite (s : State) (k : Nat) (o : Op) : State :=
  match o.kind with
  | .load _ | .joinRead | .engineRead _ | .forked .. => s
  | .store bs => pushAck (writeLoc s false o.loc bs) k o bs
  | .engineWrite _ bs p _ =>
    match p with
    | none => pushAck (writeLoc s true o.loc bs) k o bs
    | some c => pushAck (poisonLoc s o.loc bs.length c) k o bs
  | .atomic op wide => performAtomic s k o op wide
  | .fork task =>
    let r := addCounter s o 1
    match r.1 with
    | .error c => endIssue (delOp (forkRefused r.2 o c) k) o.issue
    | .ok bs =>
      let t := pushAck r.2 k o bs
      { t with acks := alter t.acks k fun p => { p with kind := .forked task bs } }
  | .joinDec va =>
    let r := addCounter s o (-1)
    match r.1 with
    | .error c => endIssue (delOp (joinRefused r.2 o va c) k) o.issue
    | .ok bs => endIssue (pushAck r.2 k (uncounted o) bs) o.issue

/-- A refusal of an access at its home: a late taint on its way, or for an engine's write the event of its operation (R155, R299). -/
def refuseAt (s : State) (k : Nat) (o : Op) (c : Cause) : State :=
  match o.kind, o.eng with
  | .engineWrite va .., some _ => engineRefused (delOp s k) o none va c
  | .fork _, _ => endIssue (delOp (forkRefused s o c) k) o.issue
  | .joinDec va, _ => endIssue (delOp (joinRefused s o va c) k) o.issue
  | _, _ => refuseOp s k o c

/-- A write or an atomic reaches its home: refused in a frozen range, performed at once when no other cluster holds the line, or waiting for
the acknowledgements of its invalidations (R286, R294, R296, R299). -/
def reachHome (s : State) (k : Nat) (o : Op) : State :=
  if locFrozen s o.loc o.n && !o.sent then refuseAt s k o .writeFrozen
  else match dirAddr s o.loc with
    | none => performWrite s k o
    | some pa =>
      let r := dirWrite s pa o.core k
      if r.1 = 0 then performWrite r.2 k o else modOp r.2 k fun o => { o with phase := .counting r.1 }

/-- The parts of a row of a DRAIN of which none has left yet (R242). -/
def rowWrites (s : State) (o : Op) : List (Nat × Op) := s.ops.filter fun p => sameRow o p.2 && p.2.phase = .waiting && !p.2.sent

/-- The cause for which a part of a row cannot be written, as it is known before it leaves: a frozen range, no tenant, or a lost switch (R242, R392,
R407). -/
def rowFault (s : State) (o : Op) : Option Cause :=
  match o.loc, locHome s o.loc with
  | .phys _ _ _ part, .switch p sw off =>
    if (partAt s part).pftid = 0 then some .remoteFault
    else if s.noticed.contains (.switch p sw) && (routeSwitch s p sw (partAt s part).pftid off o.n).isNone then some .swmLost else none
  | .phys _ _ _ part, .device _ _ => if (partAt s part).pftid = 0 then some .remoteFault else none
  | l, _ => if locFrozen s l o.n then some .writeFrozen else none

/-- A row none of which is written, with the event of the parts that are refused. -/
def refuseRow (s : State) (runs : List (Nat × Op)) : State :=
  runs.foldl (fun t (j, p) => match rowFault s p with
    | some c => refuseAt t j p c
    | none => endIssue (delOp t j) p.issue) s

/-- The parts of a row at homes of this package accepted, so that a freeze which begins later waits for them (R299). -/
def acceptRow (s : State) (runs : List (Nat × Op)) : State :=
  runs.foldl (fun s (j, p) => if remoteOp s p then s else modOp s j fun o => { o with sent := true }) s

/-- Whether a part of the row that goes to the fabric has no answer yet. -/
def rowAwaits (s : State) (o : Op) : Bool := s.ops.any fun p => sameRow o p.2 && remoteOp s p.2

/-- A write reaches its home. A row of a DRAIN is written whole or not at all: with the first of its parts that leaves, all are accepted, or the row is
refused; the parts in this package are written once those that go to the fabric are answered (R242; logs 81 and 108). -/
def rowHome (s : State) (k : Nat) (o : Op) : State :=
  let runs := rowWrites s o
  if o.sent then (if rowAwaits s o then s else reachHome s k o)
  else if runs.length < 2 then reachHome s k o
  else if runs.any fun p => (rowFault s p.2).isSome then refuseRow s runs
  else
    let t := acceptRow s runs
    if rowAwaits t o then t else reachHome t k { o with sent := true }

/-- A write that goes to the fabric leaves, unless a part of its row cannot be written (R242). -/
def sendRow (s : State) (k : Nat) (o : Op) : State :=
  let runs := rowWrites s o
  if runs.any fun p => (rowFault s p.2).isSome then refuseRow s runs else sendRemote (acceptRow s runs) k o

/-- Whether a push of the same FORK comes first: each task is pushed, with its increment acknowledged, before the next thread's increment is sent, in
ascending order of the threads (R346). -/
def forkWaits (s : State) (k : Nat) (o : Op) : Bool :=
  let first (j : Nat) (p : Op) : Bool := decide (j < k) && p.issue = o.issue && p.core = o.core
  match o.kind with
  | .fork _ => s.ops.any (fun p => first p.1 p.2) || s.acks.any fun p => first p.1 p.2
  | _ => false

/-- Whether a FORK without a join counter only pushes its task (R346). -/
def forkPlain (o : Op) : Bool :=
  match o.kind with
  | .fork t => t.join.isNone
  | _ => false

/-- Whether a FORK finds the deque full before its increment is sent (R346). -/
def forkNoRoom (s : State) (o : Op) : Bool :=
  match o.kind with
  | .fork _ => !o.sent && !dequeRoom s o.core
  | _ => false

/-- A task pushed without an increment, at its owner's turn (R283). -/
def pushPlain (s : State) (k : Nat) (o : Op) : State :=
  match o.kind with
  | .fork task => if takeDue s o.core 0 then endIssue (delOp (forkDone s o task) k) o.issue else s
  | _ => s

/-- One step of a waiting write or atomic towards its home. -/
def homeStep (s : State) (k : Nat) (o : Op) : State :=
  if o.phase ≠ .waiting || mustWait s k o || lineWaits s o || forkWaits s k o then s
  else if forkNoRoom s o then endIssue (delOp (forkFull s o) k) o.issue
  else if forkPlain o then pushPlain s k o
  else if remoteOp s o then
    match o.reply with
    | some r => finishRemote s k o none r
    | none => if o.sent then s else sendRow s k o
  else if writeWaits s k o then s
  else rowHome s k o

/-- Whether an access is a store, of a thread or of an engine. -/
def isStoreOp (o : Op) : Bool :=
  match o.kind with
  | .store _ | .engineWrite .. => true
  | _ => false

/-- HOME_STORE (R286). -/
def execHomeStore (k : Nat) (s : State) : Host.Outcome State Fault Refusal :=
  .next (match look s.ops k with
    | some o => if isStoreOp o then homeStep s k o else s
    | none => s)

/-- HOME_ATOMIC (R222). -/
def execHomeAtomic (k : Nat) (s : State) : Host.Outcome State Fault Refusal :=
  .next (match look s.ops k with
    | some o => if isStoreOp o || isReadOp o then s else homeStep s k o
    | none => s)

/-! ## Acknowledgements -/

/-- An acknowledgement for an access: with the last one it is performed (R286, R296). -/
def countOp (s : State) (k : Nat) : State :=
  match look s.ops k with
  | none => s
  | some o =>
    match o.phase with
    | .counting n => if n ≤ 1 then performWrite s k o else modOp s k fun o => { o with phase := .counting (n - 1) }
    | _ => s

/-- An acknowledgement for a die's own recall or for an invalidation that the package directory forwarded: with the last one the entry is freed, and
the package directory hears of the latter (R294). -/
def countDir (s : State) (die line : Nat) : State :=
  match dirAt s die line with
  | none => s
  | some e =>
    if e.waiting = 0 then s
    else if 1 < e.waiting then setDir s die line { e with waiting := e.waiting - 1 }
    else
      let t := freeDir s die line
      if e.recalling then t else sendMsg t (.dieAck die line)

/-- A die's acknowledgement to the package directory (R295). -/
def countPkg (s : State) (line : Nat) : State :=
  match look s.pkgDir line with
  | none => s
  | some e =>
    if e.waiting ≤ 1 then (if e.waiting = 0 then s else pkgFinish s line { e with waiting := 0 })
    else { s with pkgDir := put s.pkgDir line { e with waiting := e.waiting - 1 } }

/-- INVALIDATION_ACK (R296). -/
def execInvalidationAck (m : Nat) (s : State) : Host.Outcome State Fault Refusal :=
  .next (match takeMsg s m with
    | some (.ack die line forOp, s) => match forOp with
      | some k => countOp s k
      | none => countDir s die line
    | some (.dieAck _ line, s) => countPkg s line
    | some (.downAck .., s) => s
    | _ => s)

/-- Whether an acknowledgement of an earlier performed write to a common sector is on its way to the same cluster, which comes first. -/
def ackWaits (s : State) (o : Op) : Bool :=
  match o.loc, o.phase with
  | .phys pa _ _ _, .performed p =>
    s.acks.any fun (_, q) => cluOf q.core = cluOf o.core && match q.loc, q.phase with
      | .phys b _ _ _, .performed x => decide (x < p) && (sectorsOf pa o.n).any fun y => (sectorsOf b q.n).contains y
      | _, _ => false
  | _, _ => false

/-- Whether an access is a FORK's increment that is performed, whose task is to be pushed. -/
def isForked (o : Op) : Bool :=
  match o.kind with
  | .forked .. => true
  | _ => false

/-- STORE_ACK: an acknowledgement returns to its core; self-invalidating copies on its way are updated, and STC falls (R28, R208, R278); with that of
its increment a FORK's task is pushed (R346). A fabric write is acknowledged by its reply. -/
def execStoreAck (k : Nat) (s : State) : Host.Outcome State Fault Refusal :=
  .next (match look s.acks k with
    | none => s
    | some o =>
      if (remoteOp s o && !isForked o) || ackWaits s o || (isForked o && !takeDue s o.core 0) then s
      else
        let t := match o.loc, o.phase with
          | .phys pa _ _ _, .performed p => if remoteOp s o then s else useCopies (forwardCopies s o.core pa (opBytes o) p) o.core pa o.n o.pol
          | _, _ => s
        let t := match o.kind with
          | .forked task _ => forkDone t o task
          | _ => if o.eng.isSome then t else o.parts.foldl ackMember t
        endIssue { t with acks := del t.acks k } o.issue)

end Sys2Proof.Machine
end

