-- ==== Sys2Proof/Machine/Copies.lean ====
section
/-! DEFINITION. The copy engine: CPGO, and the start, the chunks and the completion of a copy (R262 to R272). -/

namespace Sys2Proof.Machine

/-! ## Requests (R263, R264) -/

/-- The fields of a copy request's 64 bytes (R263). -/
def copyReqOf (bs : List Byte) : CopyReq :=
  let x := BitVec.ofNat 512 (leNat bs)
  let f (lo n : Nat) : Nat := (x.extractLsb' lo n).toNat
  { fill := f 0 1 = 1, sspace := f 4 2, dspace := f 8 2, cpol := (polOfCode (f 12 4)).getD .norm,
    baraddr := if f 224 32 = 0xFFFFFFFF then none else some (f 224 32), rows := f 256 32, rowbytes := f 288 32, sstride := f 320 32,
    dstride := f 352 32, sbase := f 384 64, dbase := f 448 64 }

/-- Whether a request's reserved bits are zero and its codes assigned (R263). -/
def copyCodesOk (bs : List Byte) : Bool :=
  let x := BitVec.ofNat 512 (leNat bs)
  let z (lo n : Nat) : Bool := (x.extractLsb' lo n).toNat = 0
  z 1 3 && z 6 2 && z 10 2 && z 16 208 && decide ((x.extractLsb' 4 2).toNat ≤ 1) && decide ((x.extractLsb' 8 2).toNat ≤ 1)
    && (polOfCode (x.extractLsb' 12 4).toNat).isSome

/-- The end of a range of rows, not included (R264). -/
def rowsEnd (base rows stride bytes : Nat) : Nat := base + (rows - 1) * stride + bytes

/-- Whether a barrier address passes its own checks (R264). -/
def barOk (w : Workgroup) (a : Nat) : Bool := a % 16 = 0 && decide (a + 16 ≤ 128 * w.hdr.scratch)

/-- The first failing check of a request that is not poisoned (R264). A base in scratchpad with bits [63:32] not zero lies outside every allocation:
SPAD-BOUNDS, where the spec leaves FORMAT open (DESIGN CHOICE, log 129). -/
def copyFault (w : Workgroup) (bs : List Byte) : Option Cause :=
  let r := copyReqOf bs
  let size := 128 * w.hdr.scratch
  let bar (f : Nat → Bool) : Bool := match r.baraddr with
    | some a => f a
    | none => false
  let ends (space base stride : Nat) : Nat × Nat := (space, rowsEnd base r.rows stride r.rowbytes)
  let s := ends r.sspace r.sbase r.sstride
  let d := ends r.dspace r.dbase r.dstride
  if !copyCodesOk bs || r.rows < 1 || 65536 < r.rows || r.rowbytes < 16 || 1048576 < r.rowbytes || r.rowbytes % 16 ≠ 0
      || 2 ^ 31 < r.rows * r.rowbytes || (r.fill && (r.sbase ≠ 0 || r.sstride ≠ 0 || r.sspace ≠ 0)) then some .format
  else if r.dbase % 16 ≠ 0 || r.sbase % 16 ≠ 0 || r.dstride % 16 ≠ 0 || r.sstride % 16 ≠ 0 || bar fun a => a % 16 ≠ 0 then some .invalid
  else if (d.1 = 0 && size < d.2) || (!r.fill && s.1 = 0 && size < s.2) || bar fun a => size < a + 16 then some .spadBounds
  else if (d.1 = 1 && (2 ^ 56 ≤ r.dbase || 2 ^ 56 < d.2)) || (!r.fill && s.1 = 1 && (2 ^ 56 ≤ r.sbase || 2 ^ 56 < s.2)) then some .noncanon
  else none

/-! ## Chunks (R266): chunk 2^20 r + j is piece j of row r -/

def chunkUnit (r : CopyReq) : Nat := if r.dspace = 0 then 128 else 64

/-- The pieces of a row. -/
def rowPieces (r : CopyReq) (row : Nat) : Nat :=
  let a := r.dbase + row * r.dstride
  (a + r.rowbytes - 1) / chunkUnit r - a / chunkUnit r + 1

def isChunk (r : CopyReq) (c : Nat) : Bool := decide (c / 2 ^ 20 < r.rows) && decide (c % 2 ^ 20 < rowPieces r (c / 2 ^ 20))

/-- Number of chunks of a copy. -/
def chunkCount (r : CopyReq) : Nat := (List.range r.rows).foldl (fun n row => n + rowPieces r row) 0

/-- The destination range of a chunk: its first byte and its length. -/
def chunkRange (r : CopyReq) (c : Nat) : Nat × Nat :=
  let u := chunkUnit r
  let a := r.dbase + c / 2 ^ 20 * r.dstride
  let lo := max a ((a / u + c % 2 ^ 20) * u)
  (lo, min (a + r.rowbytes) ((a / u + c % 2 ^ 20 + 1) * u) - lo)

/-- The source address of a destination byte of a chunk. -/
def sourceOf (r : CopyReq) (c dst : Nat) : Nat :=
  let row := c / 2 ^ 20
  r.sbase + row * r.sstride + (dst - (r.dbase + row * r.dstride))

/-- The scratchpad lines that a copy's destination touches. -/
def destLines (r : CopyReq) : List Nat :=
  if r.dspace = 0 then
    (List.range r.rows).foldl (fun ls row =>
      let a := r.dbase + row * r.dstride
      (List.range' (a / 128) ((a + r.rowbytes + 127) / 128 - a / 128)).foldl (fun ls l => if ls.contains l then ls else ls ++ [l]) ls) []
  else []

/-- Whether another chunk of a copy in a scratchpad line is still to come (R266). -/
def lineMore (r : CopyReq) (done : List Nat) (line : Nat) : Bool :=
  (List.range r.rows).any fun row =>
    let a := r.dbase + row * r.dstride
    decide (a / 128 ≤ line) && decide (line < a / 128 + rowPieces r row) && !done.contains (2 ^ 20 * row + (line - a / 128))

/-! ## CPGO (R272) -/

/-- A copy queued, with its own place for records (R146, R262). -/
def pushCopy (s : State) (t : Nat) (th : Thread) (w : Workgroup) (tl n : Nat) (req : CopyReq) (running : Bool) (waiting : List Nat) :
    Nat × State :=
  let k := freshId s
  let issue := k.2.nextIssue
  let e : CopyEntry :=
    { req := req, wg := wgOf t, th := t, serial := th.serial, issue := issue, span := th.span, off := th.off, tl := tl, num := n,
      running := running, writing := [], done := [], waiting := waiting, events := [] }
  (k.1, { modCore k.2 w.core (fun c => { c with cpq := put c.cpq k.1 e }) with nextIssue := issue + 1 })

def modCopy (s : State) (core k : Nat) (f : CopyEntry → CopyEntry) : State := modCore s core fun c => { c with cpq := alter c.cpq k f }

def copyOrg (s : State) (core : Nat) (e : CopyEntry) : Org := engineOrg s e.issue core e.wg e.th e.span e.off

/-- A fault of a copy, and the chunk whose reading met it; the first one is the copy's event (R268). -/
def copyEvent (s : State) (core k : Nat) (chunk : Option Nat) (tok : Word) : State :=
  modCopy s core k fun e => { e with events := e.events ++ [(chunk, tok)] }

/-- A request fault: nothing is read or written; one byte arrival, one event, and the copy completes (R264). The barrier of a poisoned request
cannot be read (log 18). -/
def requestFault (s : State) (t : Nat) (th : Thread) (w : Workgroup) (tl n addr : Nat) (req : CopyReq) (c : Cause) (poisoned : Bool) : State :=
  let y := min (req.rows * req.rowbytes) 0xFFFFFFFF
  let bar : Option Nat := if poisoned then none else req.baraddr.filter (barOk w)
  let p := pushCopy s t th w tl n { req with rows := 0, baraddr := bar } true (if bar.isSome then [y] else [])
  match look (coreAt p.2 w.core).cpq p.1 with
  | none => p.2
  | some e =>
    let k := makeToken p.2 (copyOrg p.2 w.core e) (why c (BitVec.ofNat 64 addr))
    copyEvent k.1 w.core p.1 none k.2

/-- The presence bits of the destination lines cleared (R206, R266). -/
def clearPresence (s : State) (wg : Nat) (r : CopyReq) : State :=
  modWg s wg fun w => { w with absent := (destLines r).foldl (fun m l => put m l 1) w.absent }

/-- CPGO for one thread (R272). A request line that an earlier thread's CPGO of the same issue has made absent is read without parking: the group parks
on the lines as they stand before it issues (R264; DESIGN CHOICE, log 128). -/
def cpgoThread (d a : Reg) (tl : BitVec 3) (issue : Nat) (s : State) (t : Nat) (th : Thread) (w : Workgroup) : State :=
  let v := readReg th a.toNat
  let x := v.data.toNat
  if v.poison then suppress s t v.data [(d.toNat, 2)]
  else if x % 64 ≠ 0 then suppressWith s issue t (.make (why .invalid (up v.data))) [(d.toNat, 2)]
  else if 128 * w.hdr.scratch < x + 64 then suppressWith s issue t (.make (why .spadBounds (up v.data))) [(d.toNat, 2)]
  else
    let bs := memGetN w.spad x 64
    let n := nextNumber s (wgOf t) tl.toNat
    let s := modTh n.2 t fun th => { th with cpc := th.cpc + 1 }
    let s := match poisonIn w.spadPoison x 64 with
      | some c => requestFault s t th w tl.toNat n.1 x (copyReqOf bs) c true
      | none => match copyFault w bs with
        | some c => requestFault s t th w tl.toNat n.1 x (copyReqOf bs) c false
        | none => (pushCopy (clearPresence s (wgOf t) (copyReqOf bs)) t th w tl.toNat n.1 (copyReqOf bs) false []).2
    writeD s t d 2 (cleanVal (BitVec.ofNat 64 n.1))

/-- CPGO (R272). -/
def execCpgo (d a : Reg) (tl : BitVec 3) (s : State) : Host.Outcome State Fault Refusal :=
  threadWord (.cpgo d a tl) (fun issue s t th w => cpgoThread d a tl issue s t th w) s

/-! ## The engine's steps (R262, R265, R266, R268, R269) -/

/-- Whether a workgroup's copies rest: it is saved, or its partition is halted (R270). -/
def wgSaved (s : State) (wg : Nat) : Bool :=
  match wgAt s wg with
  | some w => !wgActive s w
  | none => true

/-- Copies in progress; a request fault moves nothing, and a copy that a pre-emption has stopped waits for its next start (R262, R270). -/
def copiesRunning (c : Core) : Nat := (c.cpq.filter fun p => p.2.running && decide (0 < p.2.req.rows)).length

/-- COPY_START: queued copies start in issue order, at most 8 at once (R262). -/
def execCopyStart (core : Nat) (s : State) : Host.Outcome State Fault Refusal :=
  .next (match (coreAt s core).cpq.find? fun p => !p.2.running && !wgSaved s p.2.wg with
    | some (k, _) => if copiesRunning (coreAt s core) < 8 then modCopy s core k fun e => { e with running := true } else s
    | none => s)

/-- What one 16-byte unit of the source gives: its bytes, or a fault's cause, its address, and whether a window refused it (R265, R268). A unit in a
scratchpad line that is absent is read at once: R206 lists no copy among the accesses that wait (DESIGN CHOICE, log 130). -/
def readUnit (s : State) (core : Nat) (e : CopyEntry) (w : Workgroup) (a : Nat) : Except Why (List Byte) × State :=
  let va := BitVec.ofNat 64 a
  let at' (s : State) (l : Loc) : Except Why (List Byte) × State :=
    match poisonAt s l 16 with
    | some c => (.error (why c va), s)
    | none =>
      let r := readLoc s l 16
      (.ok r.1, r.2)
  if e.req.fill then (.ok (List.replicate 16 0#8), s)
  else if e.req.sspace = 0 then at' s (.spad e.wg a)
  else
    let r := flatChecks s core w.part va 16 .read 0
    match r.1 with
    | .error y => (.error y, r.2)
    | .ok l => if isRemote (locHome r.2 l) then (.error (why .invalid va), r.2) else at' r.2 l

/-- Whether the issuing thread's stores released before the CPGO to a source unit have been performed (R265). -/
def unitReady (s : State) (core k : Nat) (e : CopyEntry) (w : Workgroup) (a : Nat) : Bool :=
  if e.req.fill then true
  else
    let loc : Option Loc :=
      if e.req.sspace = 0 then some (.spad e.wg a)
      else match (translate s core w.part a .read 0).1 with
        | .ok l => some l
        | .error _ => none
    match loc with
    | none => true
    | some l => !(s.ops.any fun (j, o) => decide (j < k) && !isLoad o && ownedBy o e.th e.serial && locsMeet o.loc o.n l 16)

/-- The units of a range of destination bytes read: each unit's bytes or its fault, and the state with a record for each fault (R268). -/
def readUnits (s : State) (core k chunk : Nat) (e : CopyEntry) (w : Workgroup) : List Nat → List (Except Cause (List Byte)) × State
  | [] => ([], s)
  | a :: as =>
    let r := readUnit s core e w (sourceOf e.req chunk a)
    match r.1 with
    | .ok bs =>
      let x := readUnits r.2 core k chunk e w as
      (.ok bs :: x.1, x.2)
    | .error y =>
      let t := makeToken r.2 (copyOrg r.2 core e) y
      let x := readUnits (copyEvent t.1 core k (some chunk) t.2) core k chunk e w as
      (.error y.cause :: x.1, x.2)

/-- The same for every unit of a source range. -/
def sourceReady (s : State) (core k : Nat) (e : CopyEntry) (w : Workgroup) (a n : Nat) : Bool :=
  (List.range (n / 16)).all fun j => unitReady s core k e w (a + 16 * j)

/-- The cause that poisons a sector of which some units faulted (R268). The spec does not say which of several causes it is: the model takes that of
the first faulting unit in address order (DESIGN CHOICE, log 127). -/
def unitCause : List (Except Cause (List Byte)) → Option Cause
  | [] => none
  | .error c :: _ => some c
  | .ok _ :: r => unitCause r

def unitBytes (us : List (Except Cause (List Byte))) : List Byte :=
  us.flatMap fun u => match u with
    | .ok bs => bs
    | .error _ => []

/-- The 16-byte units of a range. -/
def unitsOf (a n : Nat) : List Nat := (List.range (n / 16)).map fun k => a + 16 * k

/-- The part of a chunk in one 64-byte sector: read, and written to scratchpad (R265, R268). -/
def copySpadSector (core k chunk : Nat) (e : CopyEntry) (w : Workgroup) (s : State) (x : Nat × Nat) : State :=
  let r := readUnits s core k chunk e w (unitsOf x.1 x.2)
  match unitCause r.1 with
  | some c => poisonLoc r.2 (.spad e.wg x.1) x.2 c
  | none => writeLoc r.2 true (.spad e.wg x.1) (unitBytes r.1)

/-- A range cut at 64-byte sectors. -/
def sectorParts (a n : Nat) : List (Nat × Nat) :=
  (sectorsOf a n).map fun sec =>
    let lo := max a (64 * sec)
    (lo, min (a + n) (64 * sec + 64) - lo)

/-- A byte arrival of a copy: made now, or waiting for the object's line (R196, R266). -/
def copyArrive (s : State) (core k : Nat) (e : CopyEntry) (y : Nat) : State :=
  match e.req.baraddr with
  | none => s
  | some a =>
    if lineAbsent s (.spad e.wg a) 16 then modCopy s core k fun e => { e with waiting := e.waiting ++ [y] }
    else match wgAt s e.wg with
      | none => s
      | some w =>
        match objectRefused w a with
        | some c =>
          let t := makeToken s (copyOrg s core e) (why c (BitVec.ofNat 64 a))
          copyEvent t.1 core k none t.2
        | none => arriveAt s e.wg a 0 y

/-- A chunk at its end: the line's presence bit, then the arrival (R266). -/
def chunkEnd (s : State) (core k chunk : Nat) (e : CopyEntry) : State :=
  let x := chunkRange e.req chunk
  let done := e.done ++ [chunk]
  let s := modCopy s core k fun e => { e with done := done, writing := e.writing.filter (· ≠ chunk) }
  let s := if e.req.dspace = 0 && !lineMore e.req done (x.1 / 128)
    then modWg s e.wg fun w => { w with absent := del w.absent (x.1 / 128) } else s
  copyArrive s core k e x.2

/-- A chunk of a memory destination starts its write: a failed translation or a home outside the package leaves the bytes unchanged (R265,
R268). -/
def copyMemChunk (s : State) (core k chunk : Nat) (e : CopyEntry) (w : Workgroup) : State :=
  let x := chunkRange e.req chunk
  let va := BitVec.ofNat 64 x.1
  let r := readUnits s core k chunk e w (unitsOf x.1 x.2)
  let refuse (s : State) (y : Why) : State :=
    let t := makeToken s (copyOrg s core e) y
    chunkEnd (copyEvent t.1 core k none t.2) core k chunk e
  let f := flatChecks r.2 core w.part va 16 .write 0
  match f.1 with
  | .error y => refuse f.2 y
  | .ok l =>
    if isRemote (locHome f.2 l) then refuse f.2 ⟨.invalid, some va, false, true⟩
    else
      let c := unitCause r.1
      let bs := if c.isSome then List.replicate x.2 0#8 else unitBytes r.1
      let j := freshId f.2
      let o : Op :=
        { kind := .engineWrite va bs c chunk, core := core, wg := e.wg, launch := w.launch, issue := e.issue, span := e.span, off := e.off,
          loc := l, n := x.2, pol := e.req.cpol, parts := [], acq := none, rel := false, blocking := false, phase := .waiting,
          eng := some (.copy, k), entered := j.2.now, sent := false, reply := none }
      modCopy { j.2 with ops := put j.2.ops j.1 o } core k fun e => { e with writing := e.writing ++ [chunk] }

/-- Whether an access is a copy's write of a chunk. -/
def writesChunk (core k chunk : Nat) (o : Op) : Bool := o.core = core && o.eng = some (.copy, k) && rowOf o = chunk

/-- Whether a chunk's write to memory is still to be performed or acknowledged: with its acknowledgement the core's self-invalidating copies are
current, so that those who acquire its arrival find what it wrote (R208, R267, R320). -/
def chunkWriting (s : State) (core k chunk : Nat) : Bool :=
  s.ops.any (fun p => writesChunk core k chunk p.2) || s.acks.any fun p => writesChunk core k chunk p.2

/-- One step of a chunk of a copy in progress. -/
def chunkStep (s : State) (core k chunk : Nat) (e : CopyEntry) (w : Workgroup) : State :=
  let x := chunkRange e.req chunk
  if e.writing.contains chunk then (if chunkWriting s core k chunk then s else chunkEnd s core k chunk e)
  else if !sourceReady s core k e w (sourceOf e.req chunk x.1) x.2 then s
  else
  let s := countActivity s e.wg { noActivity with units := x.2 / 16 }
  if e.req.dspace = 0 then
    chunkEnd ((sectorParts x.1 x.2).foldl (copySpadSector core k chunk e w) s) core k chunk e
  else copyMemChunk s core k chunk e w

/-- An arrival that waited for the object's line is made once the line is there (R196). -/
def waitingArrival (s : State) (core k : Nat) (e : CopyEntry) : State :=
  match e.req.baraddr, e.waiting with
  | some a, y :: r =>
    if lineAbsent s (.spad e.wg a) 16 then s else copyArrive (modCopy s core k fun e => { e with waiting := r }) core k e y
  | _, _ => s

/-- COPY_CHUNK_DONE: a chunk's units are read and written, its line becomes present, and its arrival is made; a chunk of a memory destination
ends with a second step once its home has performed the write and it is acknowledged. Units move only in the cycles that Bridle gives the partition (R351). For a chunk that is done, an arrival that
waited is made (R266, R268). -/
def execCopyChunkDone (core k chunk : Nat) (s : State) : Host.Outcome State Fault Refusal :=
  .next (match look (coreAt s core).cpq k with
    | none => s
    | some e =>
      match wgAt s e.wg with
      | none => s
      | some w =>
        if !e.running || !wgActive s w then s
        else if !isChunk e.req chunk || e.done.contains chunk then waitingArrival s core k e
        else if wgIssues s w then chunkStep s core k chunk e w
        else s)

/-- COPY_COMPLETE: every chunk is done and every arrival made; the event is recorded, CPC falls, and the number completes (R269). -/
def execCopyComplete (core k : Nat) (s : State) : Host.Outcome State Fault Refusal :=
  .next (match look (coreAt s core).cpq k with
    | none => s
    | some e =>
      if !e.running || wgSaved s e.wg || !e.waiting.isEmpty || e.done.length < chunkCount e.req then s
      else
        let launch := ((wgAt s e.wg).map (·.launch)).getD 0
        let s := match e.events.head? with
          | some (_, tok) => recordEvent s e.wg launch (some 49) tok
          | none => s
        let s := modCore s core fun c => { c with cpq := del c.cpq k }
        let s := match liveTh s e.th e.serial with
          | some _ => modTh s e.th fun th => { th with cpc := th.cpc - 1 }
          | none => s
        endIssue (completeNumber s e.wg e.tl e.num) e.issue)

end Sys2Proof.Machine
end

