-- ==== Sys2Proof/Machine/MatrixMath.lean ====
section
/-! DEFINITION. The parameter block and the arithmetic of the matrix engine on one tile (R54 to R61, R233 to R243, R249 to R251). -/

namespace Sys2Proof.Machine

/-! ## The parameter block (R233, R234) -/

/-- An operand map (R234). -/
structure OpMap where
  base : Nat
  rstride : Nat
  reserved : Bool
  space : Nat
  swz : Nat
  trans : Bool
  deriving DecidableEq, Repr

def mapOf (x : BitVec 128) : OpMap :=
  let f (lo n : Nat) : Nat := (x.extractLsb' lo n).toNat
  { base := f 64 64, rstride := f 32 32, reserved := f 8 24 ≠ 0 || f 1 3 ≠ 0, space := f 6 2, swz := f 4 2, trans := f 0 1 = 1 }

/-- A parameter block (R233). -/
structure Block where
  raw : BitVec 1024
  kind : Nat
  acc : Nat
  chainacc : Nat
  achain : Bool
  init : Bool
  fmt : Nat
  pcode : Nat
  zskip : Bool
  guided : Bool
  gskip : Bool
  dither : Bool
  rnd : Rnd
  dfmt : Nat
  m : Nat
  n : Nat
  k : Nat
  scnt : Nat
  row0 : Nat
  col0 : Nat
  gscale : Word
  cscale : Word
  sabase : Nat
  sbbase : Nat
  amap : OpMap
  bmap : OpMap
  crec : Nat
  deriving DecidableEq, Repr

/-- A rounding code (R45). -/
def rndOfCode : Nat → Rnd
  | 0 => .rne
  | 1 => .rz
  | 2 => .rdn
  | _ => .rup

def Block.field (x : BitVec 1024) (lo n : Nat) : Nat := (x.extractLsb' lo n).toNat

def blockOf (bs : List Byte) : Block :=
  let x := BitVec.ofNat 1024 (leNat bs)
  let f (lo n : Nat) : Nat := Block.field x lo n
  { raw := x, kind := f 0 2, acc := f 2 2, chainacc := f 4 2, achain := f 6 1 = 1, init := f 7 1 = 1, fmt := f 8 2, pcode := f 10 2,
    zskip := f 12 1 = 1, guided := f 13 1 = 1, gskip := f 14 1 = 1, dither := f 15 1 = 1, rnd := rndOfCode (f 16 2), dfmt := f 18 4,
    m := f 32 8, n := f 40 8, k := f 64 32, scnt := f 96 16, row0 := f 112 8, col0 := f 120 8, gscale := x.extractLsb' 128 32,
    cscale := x.extractLsb' 160 32, sabase := f 192 32, sbbase := f 224 32, amap := mapOf (x.extractLsb' 256 128),
    bmap := mapOf (x.extractLsb' 384 128), crec := f 512 32 }

/-- Fields, by lowest bit and width, that a block's kind does not read (R233). -/
def Block.unread (b : Block) : List (Nat × Nat) :=
  let notMma : List (Nat × Nat) := [(4, 2), (6, 1), (7, 1), (8, 2), (10, 2), (12, 1), (14, 1), (64, 32), (96, 16), (160, 32), (192, 64), (384, 128)]
  match b.kind with
  | 0 => [(13, 1), (15, 1), (18, 4), (128, 32)] ++ (if b.fmt = 2 then [(10, 2)] else []) ++ (if b.fmt = 0 then [] else [(192, 64)])
    ++ (if b.achain then [(256, 128)] else [(4, 2), (16, 2), (160, 32)])
  | 1 => notMma ++ (if b.dither then [(16, 2)] else []) ++ (if b.guided then [] else [(128, 32)])
  | 2 => notMma ++ [(13, 1), (15, 1), (16, 2), (128, 32)]
  | _ => notMma ++ [(13, 1), (15, 1), (16, 2), (18, 4), (128, 32), (256, 128)]

def Block.zeroAt (b : Block) (f : Nat × Nat) : Bool := Block.field b.raw f.1 f.2 = 0

/-- Element bytes of an MMA's operands. -/
def Block.opBytes (b : Block) : Nat := if b.fmt = 1 then 2 else 1

/-- Element bytes of a DFMT code (R241). -/
def dfmtBytes : Nat → Nat
  | 0 | 4 => 4
  | 1 => 2
  | _ => 1

/-- Rows and columns of a block lie in the tile. -/
def Block.inTile (b : Block) : Bool :=
  decide (1 ≤ b.m) && decide (b.row0 + b.m ≤ 128) && decide (1 ≤ b.n) && decide (b.col0 + b.n ≤ 128)

/-- The operation writes whole rows (R229). -/
def Block.wholeRows (b : Block) : Bool := b.col0 = 0 && b.n = 128

/-- The operation covers all 128 × 128 elements (R249). -/
def Block.wholeTile (b : Block) : Bool := b.wholeRows && b.row0 = 0 && b.m = 128

def Block.rows (b : Block) : List Nat := List.range' b.row0 b.m
def Block.cols (b : Block) : List Nat := List.range' b.col0 b.n

/-- An operand that a block reads or writes through a map: the map, the logical extents and the element bytes (R235). -/
structure Grid where
  map : OpMap
  p : Nat
  q : Nat
  eb : Nat
  deriving DecidableEq, Repr

def Block.gridA (b : Block) : Grid := ⟨b.amap, b.m, b.k, b.opBytes⟩
def Block.gridB (b : Block) : Grid := ⟨b.bmap, b.k, b.n, b.opBytes⟩
def Block.gridD (b : Block) : Grid := ⟨b.amap, b.m, b.n, dfmtBytes b.dfmt⟩

def Block.grids (b : Block) : List Grid :=
  match b.kind with
  | 0 => if b.achain then [b.gridB] else [b.gridA, b.gridB]
  | 1 | 2 => [b.gridD]
  | _ => []

/-- The address of element (p, q) of a map (R235). -/
def cellAddr (g : Grid) (p q : Nat) : Nat :=
  let r := if g.map.trans then q else p
  let c := if g.map.trans then p else q
  let x := g.map.base + r * g.map.rstride + c * g.eb
  match g.map.swz with
  | 1 => x ^^^ (r % 8 * 16)
  | 2 => x ^^^ (r % 4 * 16)
  | _ => x

/-- The end of what a map touches, not included. -/
def Grid.ends (g : Grid) : Nat :=
  if g.p = 0 || g.q = 0 then 0
  else if g.map.trans then g.map.base + (g.q - 1) * g.map.rstride + g.p * g.eb
  else g.map.base + (g.p - 1) * g.map.rstride + g.q * g.eb

def saAddr (b : Block) (i q : Nat) : Nat := b.sabase + 4 * (128 * q + i)
def sbAddr (b : Block) (q : Nat) : Nat := b.sbbase + 4 * q

/-- What a workgroup may do with a block: the tiles it holds, whether it is the conditional stream of a pair, its scratchpad's bytes. -/
structure MxRights where
  tiles : Nat
  cond : Bool
  size : Nat
  deriving DecidableEq, Repr

def Block.isMma (b : Block) : Bool := b.kind = 0
def Block.isDrain (b : Block) : Bool := b.kind = 1
def Block.usesData (b : Block) : Bool := b.kind = 1 || b.kind = 2
def Block.scaled (b : Block) : Bool := b.isMma && b.fmt = 0
def Block.chains (b : Block) : Bool := b.isMma && b.achain

/-- Whether CREC passes its checks (R237). -/
def Block.crecOk (b : Block) (size : Nat) : Bool := b.crec % 16 = 0 && decide (b.crec + 16 ≤ size)

/-- The first failing check of a block that is not poisoned, in the order of R237. -/
def blockFault (b : Block) (r : MxRights) : Option Cause :=
  let z (lo n : Nat) : Bool := Block.field b.raw lo n = 0
  let maps := b.grids.map (·.map)
  let badMap (m : OpMap) : Bool := m.reserved || decide (2 ≤ m.space) || m.swz = 3
  let crec : Bool := b.crec ≠ 0xFFFFFFFF
  if !(z 544 480 && z 48 16 && z 22 10) || (b.isMma && b.fmt = 3) || (b.usesData && decide (6 ≤ b.dfmt)) || maps.any badMap
      || !(b.unread.all b.zeroAt) || !b.inTile || decide (2 ^ 20 < b.k) then some .format
  else if decide (r.tiles ≤ b.acc) || (b.chains && (decide (r.tiles ≤ b.chainacc) || b.chainacc = b.acc || decide (128 < b.k)))
      || (b.isDrain && b.dither && (decide (b.dfmt < 1) || decide (3 < b.dfmt)))
      || (b.isDrain && b.guided && (!r.cond || decide (3 < b.dfmt))) then some .format
  else if b.chains && b.fmt = 2 && b.cscale ≠ 0 then some .format
  else if (b.isMma && !b.achain && b.amap.space = 1) || maps.any (fun m => m.swz ≠ 0 && m.space = 1) then some .format
  else if b.grids.any (fun g => g.map.base % g.eb ≠ 0 || g.map.rstride % 16 ≠ 0 || (g.map.swz ≠ 0 && g.map.rstride % 128 ≠ 0))
      || (b.scaled && (b.sabase % 4 ≠ 0 || b.sbbase % 4 ≠ 0)) || (crec && b.crec % 16 ≠ 0) then some .invalid
  else if b.grids.any (fun g => g.map.space = 0 && decide (r.size < g.ends))
      || (b.scaled && b.scnt ≠ 0 && (decide (r.size < saAddr b 0 (b.scnt - 1) + 4 * b.m) || decide (r.size < sbAddr b b.scnt)))
      || (crec && decide (r.size < b.crec + 16)) then some .spadBounds
  else if b.isMma && b.scnt ≠ (if b.fmt = 0 then (b.k + 127) / 128 else 0) then some .scaleCount
  else none

/-- Whether two operations of equal Tandem index run fused (R246). -/
def tandemMatch (x y : Block) : Bool :=
  x.fmt = y.fmt && x.pcode = y.pcode && x.m = y.m && x.n = y.n && x.k = y.k && x.scnt = y.scnt
    && x.raw.extractLsb' 384 128 = y.raw.extractLsb' 384 128 && x.bmap.space = 1

/-! ## Accumulation (R56 to R59) -/

/-- The value of an e4m3 or bf16 operand element. -/
def mxVal (fmt : Nat) (bits : Nat) : FVal := if fmt = 1 then bf16.decode bits else e4m3.decode bits

def mxInt (bits : Nat) : Int := (BitVec.ofNat 8 bits).toInt

/-- A list cut into promotion periods (R56); the number bounds their count. -/
def periods {α : Type} (P : Nat) : Nat → List α → List (List α)
  | 0, _ => []
  | n + 1, xs => if xs.isEmpty then [] else xs.take P :: periods P n (xs.drop P)

/-- The promotions of the products of two rows of values into an element; `scale` gives the scales of a k block (R56, R57). -/
def accumulate (P : Nat) (scale : Nat → Option (Word × Word)) (as bs : List FVal) (acc : Word) : Word :=
  ((periods P as.length (as.zip bs)).zipIdx).foldl (fun acc (ps, n) => promote (scale (n * P / 128)) acc (periodSum ps)) acc

/-- An i8 element: exact products, wrapping sums (R59). -/
def accumulateInt (as bs : List Int) (acc : Word) : Word :=
  acc + BitVec.ofInt 32 ((as.zip bs).foldl (fun t p => t + p.1 * p.2) 0)

def Block.period (b : Block) : Nat := 16 * 2 ^ b.pcode

/-- The scales of row i and k block q; none for bf16 (R57). -/
def Operands.scale (x : Operands) (b : Block) (i q : Nat) : Option (Word × Word) :=
  if b.fmt = 0 then some ((((x.sa[i]?).getD [])[q]?).getD 0, (x.sb[q]?).getD 0) else none

def wordAt (xs : List Word) (k : Nat) : Word := (xs[k]?).getD 0
def rowAt (xs : List (List Nat)) (k : Nat) : List Nat := (xs[k]?).getD []

/-- Element (i, j), relative, of an MMA (R56 to R59). -/
def mmaElem (b : Block) (x : Operands) (i j : Nat) (acc : Word) : Word :=
  let a := rowAt x.a i
  let c := rowAt x.bt j
  if b.fmt = 2 then accumulateInt (a.map mxInt) (c.map mxInt) acc
  else accumulate b.period (x.scale b i) (a.map (mxVal b.fmt)) (c.map (mxVal b.fmt)) acc

/-! ## Tiles (R227, R229) -/

def tileGet (t : Tile) (i j : Nat) : Word := lookD t.elems (128 * i + j) 0

def tileSet (t : Tile) (i j : Nat) (x : Word) : Tile :=
  let k := 128 * i + j
  { t with elems := if x = 0 then del t.elems k else put t.elems k x }

/-- Elements of rows and columns written. -/
def tileFill (t : Tile) (rows cols : List Nat) (f : Nat → Nat → Word) : Tile :=
  rows.foldl (fun t i => cols.foldl (fun t j => tileSet t i j (f i j)) t) t

def rowTok (t : Tile) (i : Nat) : Option Word := look t.rowPoison i

/-- A row keeps its first token (R229). -/
def poisonRow (t : Tile) (i : Nat) (tok : Word) : Tile :=
  { t with rowPoison := match look t.rowPoison i with
      | some _ => t.rowPoison
      | none => put t.rowPoison i tok }

/-- Rows made clean by an operation that writes them whole (R229). -/
def cleanRows (t : Tile) (b : Block) : Tile :=
  if b.wholeRows then { t with rowPoison := b.rows.foldl del t.rowPoison, struck := t.struck.filter fun i => !b.rows.contains i } else t

/-! ## Checksums (R249) -/

/-- The sum of a line: fp32 in increasing index, or i32 (R249, R250). -/
def lineSum (integer : Bool) : List Word → Word
  | [] => 0
  | x :: xs => if integer then xs.foldl (· + ·) x else xs.foldl (fadd .rne) x

def tileRow (t : Tile) (i : Nat) : List Word := (List.range 128).map (tileGet t i)
def tileCol (t : Tile) (j : Nat) : List Word := (List.range 128).map fun i => tileGet t i j

/-- Checksums of rows and columns recomputed from the elements (R249). -/
def resum (t : Tile) (rows cols : List Nat) : Tile :=
  { t with
    cc := rows.foldl (fun m i => put m i (lineSum t.integer (tileRow t i))) t.cc
    cr := cols.foldl (fun m j => put m j (lineSum t.integer (tileCol t j))) t.cr }

/-- The kind of the sums; a change of kind takes them from the elements (log 27). -/
def sumKind (t : Tile) (integer : Bool) : Tile :=
  if t.integer = integer then t else resum { t with integer := integer } (List.range 128) (List.range 128)

/-- An exact sum rounded once to fp32 (R249). -/
def roundedSum (xs : List FVal) : FVal := fp32.roundV .rne (exactSum .rne xs (.fin false 0 0))

/-- bs(k): the sum of b over its columns; as(k): the sum of the scaled a over its rows (R249). -/
def sumB (b : Block) (x : Operands) (k : Nat) : FVal := roundedSum (x.bt.map fun col => mxVal b.fmt ((col[k]?).getD 0))

def sumA (b : Block) (x : Operands) (k : Nat) : FVal :=
  roundedSum (x.a.zipIdx.map fun (a, i) =>
    let v := mxVal b.fmt ((a[k]?).getD 0)
    match x.scale b i (k / 128) with
    | some s => v.mul (f32 s.1)
    | none => v)

def one32 : Word := 0x3F800000#32

/-- The checksums after an MMA's products (R249). -/
def mmaSums (b : Block) (x : Operands) (t : Tile) : Tile :=
  let ks := List.range b.k
  if b.fmt = 2 then
    let bs := ks.map fun k => x.bt.foldl (fun n col => n + mxInt ((col[k]?).getD 0)) 0
    let as := ks.map fun k => x.a.foldl (fun n a => n + mxInt ((a[k]?).getD 0)) 0
    { t with
      cc := (List.range b.m).foldl (fun m i =>
        put m (b.row0 + i) (accumulateInt ((rowAt x.a i).map mxInt) bs (lookD t.cc (b.row0 + i) 0))) t.cc
      cr := (List.range b.n).foldl (fun m j =>
        put m (b.col0 + j) (accumulateInt as ((rowAt x.bt j).map mxInt) (lookD t.cr (b.col0 + j) 0))) t.cr }
  else
    let bs := ks.map (sumB b x)
    let as := ks.map (sumA b x)
    let colScale (q : Nat) : Option (Word × Word) := if b.fmt = 0 then some (one32, wordAt x.sb q) else none
    { t with
      cc := (List.range b.m).foldl (fun m i =>
        put m (b.row0 + i) (accumulate b.period (x.scale b i) ((rowAt x.a i).map (mxVal b.fmt)) bs (lookD t.cc (b.row0 + i) 0))) t.cc
      cr := (List.range b.n).foldl (fun m j =>
        put m (b.col0 + j) (accumulate b.period colScale as ((rowAt x.bt j).map (mxVal b.fmt)) (lookD t.cr (b.col0 + j) 0))) t.cr }

/-- Elements set to +0 before the first promotion, with what that does to rows, history and sums (R229, R238, R249). -/
def mmaInit (b : Block) (t : Tile) : Tile :=
  if b.init then
    let t := cleanRows (tileFill t b.rows b.cols fun _ _ => 0) b
    let t := if b.wholeTile then { t with history := [], replayable := true } else t
    resum t b.rows b.cols
  else t

/-- Rows that an operation poisons: their elements take undefined values, given by a function, and their sums are taken anew (R240, R249). -/
def spoilRows (b : Block) (bad : NMap Word) (free : Nat → Nat → Word) (t : Tile) : Tile :=
  if bad.isEmpty then t
  else
    let rows := bad.map fun p => b.row0 + p.1
    let t := tileFill t rows b.cols free
    resum (bad.foldl (fun t p => poisonRow t (b.row0 + p.1) p.2) t) rows b.cols

/-- An MMA on its tile, with its operands read (R238 to R240, R249). -/
def mmaTile (b : Block) (blk : List Byte) (x : Operands) (free : Nat → Nat → Word) (t : Tile) : Tile :=
  let t := mmaInit b t
  let t :=
    if b.k = 0 then t
    else
      let t := sumKind t (b.fmt = 2)
      mmaSums b x (tileFill t b.rows b.cols fun i j => mmaElem b x (i - b.row0) (j - b.col0) (tileGet t i j))
  let t := spoilRows b x.bad free t
  { t with history := t.history ++ [.mma blk] }

/-- CLEAR (R243, R249). -/
def clearTile (b : Block) (t : Tile) : Tile :=
  let t := cleanRows (tileFill t b.rows b.cols fun _ _ => 0) b
  let t := resum t b.rows b.cols
  if b.wholeTile then { t with history := [], replayable := true } else { t with history := t.history ++ [.clear b.row0 b.m b.col0 b.n] }

/-- The format of a DFMT code that is a floating format narrower than fp32. -/
def dfmtFloat : Nat → Option FFmt
  | 1 => some bf16
  | 2 => some e5m2
  | 3 => some e4m3
  | _ => none

/-- The element that LOAD forms from the bits in memory (R241). -/
def loadElem (dfmt bits : Nat) : Word :=
  match dfmtFloat dfmt with
  | some f => toF32 .rne (f.decode bits)
  | none => if dfmt = 5 then (BitVec.ofNat 8 bits).signExtend 32 else BitVec.ofNat 32 bits

/-- LOAD with its data read (R243). -/
def loadTile (b : Block) (vals : List (List Nat)) (bad : NMap Word) (free : Nat → Nat → Word) (t : Tile) : Tile :=
  let t := cleanRows t b
  let t := tileFill t b.rows b.cols fun i j => loadElem b.dfmt (((rowAt vals (i - b.row0))[j - b.col0]?).getD 0)
  let t := resum (spoilRows b bad free t) b.rows b.cols
  { t with replayable := false }

/-! ## The compare at a DRAIN (R250) -/

def isFinite32 (x : Word) : Bool :=
  match f32 x with
  | .fin .. => true
  | _ => false

/-- An fp32 value in units of 2^-149. -/
def fixed32 (x : Word) : Int :=
  match f32 x with
  | .fin neg m e => FVal.intAt neg m e (-149)
  | _ => 0

/-- |x|. -/
def abs32 (x : Word) : Word := x &&& 0x7FFFFFFF#32

/-- Whether a line mismatches its checksum (R250). -/
def lineMismatch (integer : Bool) (xs : List Word) (c : Word) : Bool :=
  if integer then lineSum true xs ≠ c
  else
    let s := lineSum false xs
    let a := lineSum false (xs.map abs32)
    if !(xs.all isFinite32 && isFinite32 c && isFinite32 s && isFinite32 a) then false
    else decide (fixed32 a < 4096 * (fixed32 s - fixed32 c).natAbs)

def badRows (t : Tile) : List Nat := (List.range 128).filter fun i => lineMismatch t.integer (tileRow t i) (lookD t.cc i 0)
def badCols (t : Tile) : List Nat := (List.range 128).filter fun j => lineMismatch t.integer (tileCol t j) (lookD t.cr j 0)

/-- Whether a tile's history lets an element be recomputed (R249). -/
def correctable (t : Tile) : Bool := t.replayable && decide (t.history.length ≤ 8)

/-- What the compare asks for (R250). -/
inductive Comparison
  | clean
  | recompute (i j : Nat)
  | repair (rows cols : List Nat)
  | abft (rows : List Nat)
  deriving DecidableEq, Repr

def compareTile (t : Tile) : Comparison :=
  match badRows t, badCols t with
  | [], [] => .clean
  | [i], [j] => if correctable t then .recompute i j else .abft [i]
  | [i], [] => .repair [i] []
  | [], [j] => .repair [] [j]
  | [], _ => .abft (List.range 128)
  | rows, _ => .abft rows

/-! ## DRAIN's conversion (R241, R242, R248) -/

/-- The element that DRAIN writes at tile coordinates (i, j), as its bits. -/
def drainBits (b : Block) (phase i j : Nat) (x : Word) : Nat :=
  match dfmtFloat b.dfmt with
  | some f => if b.dither then dither f (ditherAt phase i j) x else f.round b.rnd (f32 x)
  | none => if b.dfmt = 5 then (BitVec.ofInt 8 (saturate .i8 x.toInt)).toNat else x.toNat

/-- The down-converter (R239). -/
def chainElem (b : Block) (x : Word) : Nat :=
  if b.fmt = 2 then (BitVec.ofInt 8 (saturate .i8 x.toInt)).toNat
  else (if b.fmt = 1 then bf16 else e4m3).round b.rnd (f32 (fmul .rne x b.cscale))

/-! ## Zero blocks (R251) -/

/-- Whether an operand element is ±0, and whether it is finite. -/
def isZeroElem (fmt bits : Nat) : Bool :=
  if fmt = 2 then bits = 0
  else match mxVal fmt bits with
    | .fin _ 0 _ => true
    | _ => false

def isFiniteElem (fmt bits : Nat) : Bool :=
  fmt = 2 || match mxVal fmt bits with
    | .fin .. => true
    | _ => false

/-- Whether the 16 k-steps from 16 q on are a zero block, beside finite elements of B. -/
def zeroBlock (b : Block) (x : Operands) (q : Nat) : Bool :=
  let part (r : List Nat) : List Nat := (r.drop (16 * q)).take 16
  decide (16 * q + 16 ≤ b.k) && x.a.all (fun a => (part a).all (isZeroElem b.fmt)) && x.bt.all fun c => (part c).all (isFiniteElem b.fmt)

/-- The products of element (i, j) in period n, without those of some blocks. -/
def keptProducts (b : Block) (x : Operands) (n i j : Nat) (skip : List Nat) : List (FVal × FVal) :=
  ((List.range' (n * b.period) b.period).filter fun k => decide (k < b.k) && !skip.contains (k / 16)).map fun k =>
    (mxVal b.fmt (((rowAt x.a i)[k]?).getD 0), mxVal b.fmt (((rowAt x.bt j)[k]?).getD 0))

/-- Whether every sum of period n stands, with its sign, when some of its blocks are skipped. A period without a product left is promoted with the
zero of all its products. -/
def skipSafe (b : Block) (x : Operands) (n : Nat) (skip : List Nat) : Bool :=
  b.fmt = 2 || (List.range b.m).all fun i => (List.range b.n).all fun j =>
    let kept := keptProducts b x n i j skip
    kept.isEmpty || toF32 .rne (periodSum kept) = toF32 .rne (periodSum (keptProducts b x n i j []))

/-- The blocks of period n that the engine skips, of those that its prediction names: all of the period, or one by one each whose skip leaves the
sums as they are. -/
def skipsOf (b : Block) (x : Operands) (predicted : Nat → Bool) (n : Nat) : List Nat :=
  let qs := (List.range' (n * b.period / 16) (b.period / 16)).filter fun q => predicted q && zeroBlock b x q
  if skipSafe b x n qs then qs
  else qs.foldl (fun skip q => if skipSafe b x n (skip ++ [q]) then skip ++ [q] else skip) []

/-- The number of zero blocks that an MMA skips. -/
def skipCount (b : Block) (x : Operands) (predicted : Nat → Bool) : Nat :=
  (List.range ((b.k + b.period - 1) / b.period)).foldl (fun c n => c + (skipsOf b x predicted n).length) 0

end Sys2Proof.Machine
end

