-- ==== Sys2Proof/Machine/Matrix.lean ====
section
/-! DEFINITION. The matrix engine: MXGO, MXRD and MXWR, and the engine's steps (R227 to R257). -/

namespace Sys2Proof.Machine

/-! ## MXGO, MXRD and MXWR (R254, R256, R257) -/

def MxResult.none : MxResult :=
  { token := 0, prows := 0, corr := 0, zblk := 0, paused := false, gskip := false, partner := false, mismatch := false, fused := false }

def Operands.none : Operands := { a := [], bt := [], sa := [], sb := [], bad := [], first := Option.none }

/-- An entry of the matrix queue (R230). -/
def pushMx (s : State) (t : Nat) (th : Thread) (w : Workgroup) (issue : Nat) (kind : MxKind) : State :=
  let k := freshId s
  let e : MxEntry :=
    { kind := kind, wg := wgOf t, th := t, serial := th.serial, issue := issue, since := s.now, span := th.span, off := th.off, stage := .queued,
      got := Operands.none, res := MxResult.none, block := none, fault := none, word0 := false, crec := none, event := none, index := none, guideTile := none,
      fusedWith := none, fetched := [] }
  modCore k.2 w.core fun c => { c with mxq := put c.mxq k.1 e }

/-- MXGO for one thread (R254). An operation makes its records as an issue of its own (R146). -/
def mxgoThread (d a : Reg) (tl : BitVec 3) (issue : Nat) (s : State) (t : Nat) (th : Thread) (w : Workgroup) : State :=
  let v := readReg th a.toNat
  let x := v.data.toNat
  if v.poison then suppress s t v.data [(d.toNat, 2)]
  else if x % 128 ≠ 0 then suppressWith s issue t (.make (why .invalid (up v.data))) [(d.toNat, 2)]
  else if 128 * w.hdr.scratch < x + 128 then suppressWith s issue t (.make (why .spadBounds (up v.data))) [(d.toNat, 2)]
  else
    let n := nextNumber s (wgOf t) tl.toNat
    let s := modTh n.2 t fun th => { th with mxc := th.mxc + 1 }
    let own := s.nextIssue
    let s := pushMx { s with nextIssue := own + 1 } t th w own (.go x tl.toNat n.1)
    writeD s t d 2 (cleanVal (BitVec.ofNat 64 n.1))

/-- MXGO (R254). -/
def execMxgo (d a : Reg) (tl : BitVec 3) (s : State) : Host.Outcome State Fault Refusal :=
  threadWord (.mxgo d a tl) (fun issue s t th w => mxgoThread d a tl issue s t th w) s

/-- The token of an index above 127: one record for a workgroup's threads of the issue, whose FADDR is that of the first (R256). -/
def indexToken (s : State) (issue t : Nat) (th : Thread) (core : Nat) (x y : Word) : State × Word :=
  let o := orgOf s issue t th
  let f : Why := ⟨.invalid, none, false, false⟩
  let old := s.issueFaults.any fun z => z.issue = issue && z.core = core && z.wg = wgOf t && z.cause = .invalid && z.page.isNone
  let k := makeToken s o f
  let i := tokIndex k.2
  if old || i = 0 then k
  else (setRec k.1 core i { recAt k.1 core i with faddr := BitVec.ofNat 64 (256 * x.toNat + y.toNat) }, k.2)

/-- MXC rises for an access that goes to the engine. -/
def mxRise (s : State) (t : Nat) (dst : List Nat) : State :=
  modTh s t fun th => { th with mxc := th.mxc + 1, pending := th.pending ++ dst.filter fun r => !th.pending.contains r }

/-- One thread of an MXRD: an operand's poison or an index above 127 answers at once; otherwise the engine reads the element (R256). -/
def mxrdThread (d a b : Reg) (issue : Nat) (x : State × List MxElem) (t : Nat) : State × List MxElem :=
  let s := x.1
  match thOf s t, wgAt s (wgOf t) with
  | some th, some w =>
    let i := readReg th a.toNat
    let j := readReg th b.toNat
    match firstTok [i, j] with
    | some k => (suppress s t k [(d.toNat, 1)], x.2)
    | none =>
      if 127 < i.data.toNat || 127 < j.data.toNat then
        let k := indexToken s issue t th w.core i.data j.data
        (writeD k.1 t d 1 (badVal k.2), x.2)
      else
        let e : MxElem := { th := t, serial := th.serial, dst := d.toNat, row := i.data.toNat, col := j.data.toNat, data := 0 }
        (mxRise s t (if d = 0 then [] else [d.toNat]), x.2 ++ [e])
  | _, _ => x

/-- One thread of an MXWR: an operand's poison or an index above 127 suppresses it; otherwise the engine writes the element (R257). -/
def mxwrThread (d a b : Reg) (issue : Nat) (x : State × List MxElem) (t : Nat) : State × List MxElem :=
  let s := x.1
  match thOf s t, wgAt s (wgOf t) with
  | some th, some w =>
    let i := readReg th a.toNat
    let j := readReg th b.toNat
    let v := readReg th d.toNat
    match firstTok [i, j, v] with
    | some k => (suppress s t k [], x.2)
    | none =>
      if 127 < i.data.toNat || 127 < j.data.toNat then
        let k := indexToken s issue t th w.core i.data j.data
        (suppress k.1 t k.2 [], x.2)
      else
        let e : MxElem := { th := t, serial := th.serial, dst := d.toNat, row := i.data.toNat, col := j.data.toNat, data := v.data }
        (mxRise s t [], x.2 ++ [e])
  | _, _ => x

/-- The operation of one workgroup's threads of an issue, if any of them goes to the engine. -/
def pushElemsOf (issue : Nat) (es : List MxElem) (kind : List MxElem → MxKind) (s : State) (wg : Nat) : State :=
  let own := es.filter fun e => wgOf e.th = wg
  match own with
  | [] => s
  | e :: _ =>
    match thOf s e.th, wgAt s wg with
    | some th, some w => pushMx s e.th th w issue (kind own)
    | _, _ => s

/-- The operations of an issue's threads: one for each workgroup of the group, on its own tiles and in its own order; they share the issue's one
entry (R228, R230, R231). -/
def pushElems (s : State) (issue : Nat) (es : List MxElem) (kind : List MxElem → MxKind) : State :=
  ((es.map fun e => wgOf e.th).eraseDups).foldl (pushElemsOf issue es kind) s

/-- MXRD (R256). -/
def execMxrd (d a b : Reg) (acc : BitVec 2) (s : State) : Host.Outcome State Fault Refusal :=
  runWord (.mxrd d a b acc) (fun issue ts s =>
    let x := ts.foldl (mxrdThread d a b issue) (s, [])
    pushElems x.1 issue x.2 (.rd acc.toNat)) s

/-- MXWR (R257). -/
def execMxwr (d a b : Reg) (acc : BitVec 2) (s : State) : Host.Outcome State Fault Refusal :=
  runWord (.mxwr d a b acc) (fun issue ts s =>
    let x := ts.foldl (mxwrThread d a b issue) (s, [])
    pushElems x.1 issue x.2 (.wr acc.toNat)) s

/-! ## Tandem pairs (R88, R245) -/

/-- Whether a workgroup is a partner of a Tandem pair. -/
def isPaired (w : Workgroup) : Bool := w.hdr.tandem && !w.forked && isMatrixKernel w.hdr

/-- Whether it is the conditional stream: F1 is even. -/
def isCond (w : Workgroup) : Bool := isPaired w && decide (w.g % 2 = 0)

/-- The partner's work identifier above F0: F1 differs in its lowest bit. -/
def partnerG (w : Workgroup) : Nat := if w.g % 2 = 0 then w.g + 1 else w.g - 1

/-- The partner of a workgroup, retired or not: operations that it issued before still pair (R245). -/
def partnerOf (s : State) (w : Workgroup) : Option (Nat × Workgroup) :=
  if isPaired w then s.wgs.find? fun p => p.2.launch = w.launch && p.2.core = w.core && isPaired p.2 && p.2.g = partnerG w else none

/-- The first operation of a workgroup that is not complete (R231). -/
def headOp (s : State) (core wg : Nat) : Option (Nat × MxEntry) := (coreAt s core).mxq.find? fun p => p.2.wg = wg

/-- Whether the partner has exited (R245). -/
def partnerGone (s : State) (w : Workgroup) : Bool :=
  match partnerOf s w with
  | none => true
  | some (p, _) => (liveOf s p).isEmpty && (headOp s w.core p).isNone

def modMx (s : State) (core k : Nat) (f : MxEntry → MxEntry) : State := modCore s core fun c => { c with mxq := alter c.mxq k f }

/-- What a workgroup may do with a block (R237). -/
def rightsOf (w : Workgroup) : MxRights := { tiles := w.tiles.length, cond := isCond w, size := 128 * w.hdr.scratch }

/-! ## Which operation starts (R231) -/

def isQueued (e : MxEntry) : Bool := e.stage = .queued || e.stage = .ready

/-- Whether a workgroup's earlier operations are complete and its partition runs. -/
def isHead (s : State) (core k : Nat) (e : MxEntry) : Bool :=
  (match headOp s core e.wg with
    | some h => h.1 = k
    | none => false)
  && match wgAt s e.wg with
    | some w => wgActive s w
    | none => false

/-- How far an operation has come, if it has started and k-steps or rows of it are left. -/
def MxEntry.pos (e : MxEntry) : Option Nat :=
  match e.stage with
  | .running n => some n
  | _ => none

/-- Whether an operation's workgroup works: the engine passes over one that a pre-emption has paused (R252). -/
def mxActive (s : State) (e : MxEntry) : Bool :=
  match wgAt s e.wg with
  | some w => wgActive s w
  | none => false

/-- Whether an operation is between its start and its completion. -/
def mxRunning (s : State) (core : Nat) : Bool :=
  (coreAt s core).mxq.any fun p => (p.2.stage = .started || p.2.pos.isSome) && mxActive s p.2

/-- The operation whose k-steps or rows the engine performs. -/
def mxCurrent (s : State) (core : Nat) : Option (Nat × MxEntry) := (coreAt s core).mxq.find? fun p => p.2.pos.isSome && mxActive s p.2

/-- The operation that starts next: one whose block is read, else the oldest of the workgroups' next operations; one that waits for its
partner lets others pass (R231, R246). -/
def mxNext (s : State) (core : Nat) : Option (Nat × MxEntry) :=
  if mxRunning s core then none
  else
    let heads := (coreAt s core).mxq.filter fun p => isHead s core p.1 p.2
    match heads.find? fun p => p.2.stage = .ready with
    | some p => some p
    | none => heads.find? fun p => p.2.stage = .queued

/-! ## Reading the block (R233, R237, R245) -/

def mxOrg (s : State) (core : Nat) (e : MxEntry) : Org := engineOrg s e.issue core e.wg e.th e.span e.off

/-- The token of an engine operation. -/
def mxToken (s : State) (core : Nat) (e : MxEntry) (y : Why) : State × Word := makeToken s (mxOrg s core e) y

/-- The first poison token of an operation's completion record (R236). -/
def mxMet (s : State) (core k : Nat) (tok : Word) : State :=
  modMx s core k fun e => { e with res := { e.res with token := if e.res.token = 0 then tok else e.res.token } }

/-- Whether word 0 of a block can be read (R245). -/
def word0Ok (w : Workgroup) (a : Nat) : Bool := (look w.spadPoison (a / 64)).isNone

/-- Whether the issuing thread's stores that were released before an operation are performed (R255). -/
def storesDone (s : State) (k : Nat) (e : MxEntry) : Bool :=
  !(s.ops.any fun (j, o) => decide (j < k) && isStoreOp o && ownedBy o e.th e.serial)

/-- The block read and checked: its fault, its completion record's address, and the Tandem index that it takes (R233, R237, R245). -/
def readBlock (s : State) (core k : Nat) (e : MxEntry) (w : Workgroup) (a : Nat) : State :=
  let bs := memGetN w.spad a 128
  let b := blockOf bs
  let fault := match poisonIn w.spadPoison a 128 with
    | some c => some c
    | none => blockFault b (rightsOf w)
  let crec : Option Nat :=
    if (look w.spadPoison (a / 64 + 1)).isSome || b.crec = 0xFFFFFFFF || !b.crecOk (128 * w.hdr.scratch) then none else some b.crec
  let mma : Bool := word0Ok w a && b.isMma
  let indexed : Bool := mma && !b.gskip && isPaired w
  let s := modMx s core k fun e =>
    { e with
      block := some bs, fault := fault, word0 := word0Ok w a, crec := crec, stage := .ready, index := if indexed then some (w.tandemIdx + 1) else none
      res := { e.res with gskip := mma && b.gskip } }
  if indexed then
    let s := modWg s e.wg fun w => { w with tandemIdx := w.tandemIdx + 1 }
    match fault, partnerOf s w with
    | some _, some (p, _) => modWg s p fun x => { x with soloMismatch := x.soloMismatch ++ [w.tandemIdx + 1] }
    | _, _ => s
  else s

/-! ## Tandem's decision (R245, R246) -/

/-- An operation that runs solo. -/
def runSolo (s : State) (core k : Nat) (partner mismatch : Bool) : State :=
  modMx s core k fun e => { e with stage := .ready, res := { e.res with partner := partner, mismatch := mismatch } }

/-- The partner's operation of an index, where its block has been read and it has not started. -/
def partnerOp (s : State) (core p n : Nat) : Option (Nat × MxEntry) :=
  match headOp s core p with
  | some (j, q) => if q.index = some n && q.stage ≠ .started && q.pos.isNone && q.fault.isNone then some (j, q) else none
  | none => none

/-- Whether the operations of a pair came together: neither was issued 4,096 cycles or more after the other began to wait (R246). -/
def cameInTime (e q : MxEntry) : Bool :=
  let within (x y : MxEntry) : Bool := match x.stage with
    | .held c => decide (y.since < c + 4096)
    | _ => true
  within e q && within q e

/-- What Tandem decides for an MMA whose block has been read: solo, fused with the partner's operation, both solo, or a wait. -/
def decideTandem (s : State) (core k : Nat) (e : MxEntry) (w : Workgroup) : State :=
  match e.index with
  | none => s
  | some n =>
    if e.fault.isSome || e.res.partner || e.res.mismatch || e.fusedWith.isSome then s
    else if w.soloMismatch.contains n then runSolo s core k false true
    else if partnerGone s w || w.soloPartner.contains n then runSolo s core k true false
    else match partnerOf s w with
      | none => s
      | some (p, _) =>
        match partnerOp s core p n with
        | none => modMx s core k fun e => { e with stage := .held s.now }
        | some (j, q) =>
          if !cameInTime e q then runSolo (runSolo s core k true false) core j true false
          else if tandemMatch (blockOf (e.block.getD [])) (blockOf (q.block.getD [])) then
            let s := modMx s core k fun e => { e with stage := .ready, fusedWith := some j, res := { e.res with fused := true } }
            modMx s core j fun e => { e with stage := .ready, fusedWith := some k, res := { e.res with fused := true } }
          else runSolo (runSolo s core k false true) core j false true

/-- Waiting operations whose partner has exited, or whose partner's operation has faulted, stop waiting (R245, R246). -/
def releaseHeld (s : State) (core : Nat) : State :=
  (coreAt s core).mxq.foldl (fun s (k, e) =>
    match e.stage, e.index, wgAt s e.wg with
    | .held _, some n, some w =>
      if !wgActive s w then s
      else if w.soloMismatch.contains n then runSolo s core k false true
      else if partnerGone s w then runSolo s core k true false
      else s
    | _, _, _ => s) s

/-- The operations of a workgroup in its core's queue that will take a Tandem index, as their blocks now stand, in order (R245). -/
def unreadMmas (s : State) (core p : Nat) (w : Workgroup) : List MxEntry :=
  ((coreAt s core).mxq.filter fun x => x.2.wg = p && x.2.block.isNone && match x.2.kind with
    | .go a _ _ =>
      let b := blockOf (memGetN w.spad a 128)
      word0Ok w a && b.isMma && !b.gskip
    | _ => false).map (·.2)

/-- Whether the partner issued its operation of an index before a cycle, though the engine may not have come to it (R245, R246). -/
def partnerArrived (s : State) (core p n limit : Nat) : Bool :=
  (match partnerOp s core p n with
    | some (_, q) => decide (q.since < limit)
    | none => false)
  || match wgAt s p with
    | some w => decide (w.tandemIdx < n) && match (unreadMmas s core p w)[n - w.tandemIdx - 1]? with
      | some q => decide (q.since < limit)
      | none => false
    | none => false

/-- TANDEM_TIMEOUT: an operation has waited 4,096 cycles; it runs solo, and so will the partner's operation of its index (R246). -/
def execTandemTimeout (core k : Nat) (s : State) : Host.Outcome State Fault Refusal :=
  .next (match look (coreAt s core).mxq k with
    | none => s
    | some e =>
      match e.stage, e.index, wgAt s e.wg with
      | .held c, some n, some w =>
        if !wgActive s w || s.now < c + 4096 then s
        else match partnerOf s w with
          | none => runSolo s core k true false
          | some (p, _) =>
            if partnerArrived s core p n (c + 4096) then s
            else modWg (runSolo s core k true false) p fun x => { x with soloPartner := x.soloPartner ++ [n] }
      | _, _, _ => s)

/-! ## Operands (R235, R239, R240) -/

/-- The rows of a map's element addresses. -/
def gridRows (g : Grid) : List (List Nat) := (List.range g.p).map fun p => (List.range g.q).map (cellAddr g p)

/-- The columns of a map's element addresses. -/
def gridCols (g : Grid) : List (List Nat) := (List.range g.q).map fun q => (List.range g.p).map fun p => cellAddr g p q

/-- A place in scratchpad, or in memory. -/
def spadCells (space : Nat) (rows : List (List Nat)) : List Nat := if space = 0 then rows.flatten else []
def memCells (space : Nat) (rows : List (List Nat)) : List Nat := if space = 1 then rows.flatten else []

def scaleCells (b : Block) : List Nat :=
  if b.scaled then (List.range b.scnt).flatMap fun q => sbAddr b q :: (List.range b.m).map fun i => saAddr b i q else []

/-- Scratchpad bytes that an operation reads, by address. -/
def spadReads (b : Block) : List Nat :=
  match b.kind with
  | 0 => (if b.chains then [] else spadCells b.amap.space (gridRows b.gridA)) ++ spadCells b.bmap.space (gridRows b.gridB) ++ scaleCells b
  | 2 => spadCells b.amap.space (gridRows b.gridD)
  | _ => []

/-- Memory addresses that an operation reads. -/
def memReads (b : Block) : List Nat :=
  match b.kind with
  | 0 => memCells b.bmap.space (gridRows b.gridB)
  | 2 => memCells b.amap.space (gridRows b.gridD)
  | _ => []

/-- The checked location of a byte of memory that the engine reads or writes (R210). -/
def mxPlace (s : State) (core : Nat) (w : Workgroup) (x : Nat) (acc : AccKind) : Except Why Loc × State :=
  flatChecks s core w.part (BitVec.ofNat 64 x) 1 acc 0

/-- A fetched sector of an operation; the operations of a fused pair share what either has fetched (R247). -/
def fetchedAt (s : State) (core : Nat) (e : MxEntry) (sec : Nat) : Option (List Byte × Option (Cause × Option FlowKey)) :=
  match look e.fetched sec with
  | some x => some x
  | none => (e.fusedWith.bind fun j => look (coreAt s core).mxq j).bind fun q => look q.fetched sec

/-- Whether the fetch of a sector for an operation or for the one that it runs fused with is under way (R247). -/
def fetchOnWay (s : State) (core k : Nat) (e : MxEntry) (sec : Nat) : Bool :=
  s.ops.any fun (_, o) => o.core = core && (o.eng = some (.matrix, k) || (e.fusedWith.any fun j => o.eng = some (.matrix, j))) && match o.kind with
    | .engineRead va => va.toNat / 64 = sec
    | _ => false

/-- Fabric sectors that an operation reads and that are not fetched yet, with their locations; a fused pair fetches each of them once (R247). -/
def missingSectors (s : State) (core k : Nat) (e : MxEntry) (w : Workgroup) : List Nat → List (Nat × Loc) × State
  | [] => ([], s)
  | x :: xs =>
    let sec := x % 2 ^ 64 / 64
    let r := missingSectors s core k e w xs
    if (fetchedAt s core e sec).isSome || fetchOnWay s core k e sec || r.1.any (fun p => p.1 = sec) then r
    else
      let y := mxPlace r.2 core w (64 * sec) .read
      match y.1 with
      | .ok l => if isRemote (locHome y.2 l) then ((sec, l) :: r.1, y.2) else (r.1, y.2)
      | .error _ => (r.1, y.2)

/-- The engine's fetch of a fabric sector put on its way. -/
def pushFetch (core k : Nat) (e : MxEntry) (w : Workgroup) (s : State) (x : Nat × Loc) : State :=
  let j := freshId s
  let o : Op :=
    { kind := .engineRead (BitVec.ofNat 64 (64 * x.1)), core := core, wg := e.wg, launch := w.launch, issue := e.issue, span := e.span,
      off := e.off, loc := x.2, n := 64, pol := .norm, parts := [], acq := none, rel := false, blocking := false, phase := .waiting,
      eng := some (.matrix, k), entered := j.2.now, sent := false, reply := none }
  { j.2 with ops := put j.2.ops j.1 o }

/-- Whether an access of an operation is outstanding: once its writes are acknowledged the core's self-invalidating copies are current, so that an engine
acquire of its number finds what it wrote (R208, R261, R320). -/
def mxOutstanding (s : State) (core k : Nat) : Bool :=
  let mine (o : Op) : Bool := o.core = core && o.eng = some (.matrix, k)
  s.ops.any (fun p => mine p.2) || s.acks.any fun p => mine p.2

/-- One element read: its bits, or why it cannot be read, with the flow whose reply told it (R240, R243). -/
def readCell (s : State) (core : Nat) (e : MxEntry) (w : Workgroup) (space eb x : Nat) : Except (Why × Option FlowKey) Nat × State :=
  let va := BitVec.ofNat 64 x
  let at' (s : State) (l : Loc) : Except (Why × Option FlowKey) Nat × State :=
    match poisonAt s l eb with
    | some c => (.error (why c va, none), s)
    | none =>
      let r := readLoc s l eb
      (.ok (leNat r.1), r.2)
  if space = 0 then at' s (.spad e.wg x)
  else
    let r := mxPlace s core w x .read
    match r.1 with
    | .error y => (.error (y, none), r.2)
    | .ok l =>
      if isRemote (locHome r.2 l) then
        match fetchedAt r.2 core e (va.toNat / 64) with
        | some (bs, none) => (.ok (leNat ((bs.drop (va.toNat % 64)).take eb)), r.2)
        | some (_, some c) => (.error (why c.1 va, if c.1 = .remoteFault then c.2 else none), r.2)
        | none => (.error (why .remoteFault va, none), r.2)
      else at' r.2 l

/-- Elements read in order: their bits, one for an element that cannot be read, which is no zero block's (R251), and the first token among them. -/
def readCells (core : Nat) (e : MxEntry) (w : Workgroup) (space eb : Nat) : List Nat → State → List Nat × Option Word × State
  | [], s => ([], none, s)
  | x :: xs, s =>
    let r := readCell s core e w space eb x
    match r.1 with
    | .ok v =>
      let y := readCells core e w space eb xs r.2
      (v :: y.1, y.2.1, y.2.2)
    | .error f =>
      let t := mxToken r.2 core e f.1
      let y := readCells core e w space eb xs (noteFlowRec t.1 f.2 core t.2)
      (1 :: y.1, some t.2, y.2.2)

/-- Rows of elements read, with the first token of each row. -/
def readRows (core : Nat) (e : MxEntry) (w : Workgroup) (space eb : Nat) : List (List Nat) → State → List (List Nat) × List (Option Word) × State
  | [], s => ([], [], s)
  | r :: rs, s =>
    let x := readCells core e w space eb r s
    let y := readRows core e w space eb rs x.2.2
    (x.1 :: y.1, x.2.1 :: y.2.1, y.2.2)

/-- The first of some tokens. -/
def firstWord (xs : List (Option Word)) : Option Word := xs.findSome? id

/-- A relative row's token kept, unless the row has one. -/
def addBad (m : NMap Word) (i : Nat) : Option Word → NMap Word
  | some t => if (look m i).isSome then m else put m i t
  | none => m

/-- The tile of a workgroup. -/
def tileOf (w : Workgroup) (k : Nat) : Tile := (w.tiles[k]?).getD Tile.fresh

/-- The k-steps ks of some rows of A and columns of B read, with the scales of the k blocks that begin among them: those of an MMA, or the one row
and column of a correction (R235, R239, R240). The rows of the tokens count from 0. An MMA of K = 0 reads nothing, a chain source's rows either, and so
leaves the accumulator unchanged (R58; log 109). The spec gives no order of the reads, and with it not which of several tokens a row takes: the model
reads, for the k-steps of one turn, A or the chain source, the scales of A, B and the scales of B (DESIGN CHOICE, log 121). -/
def readOperands (s : State) (core : Nat) (e : MxEntry) (w : Workgroup) (b : Block) (rows cols ks : List Nat) : Operands × State :=
  let a : List (List Nat) × List (Option Word) × State :=
    if b.chains then
      let t := tileOf w b.chainacc
      (rows.map fun i => ks.map fun k => chainElem b (tileGet t (b.row0 + i) k),
        rows.map fun i => if ks = [] then none else rowTok t (b.row0 + i), s)
    else readRows core e w b.amap.space b.opBytes (rows.map fun i => ks.map (cellAddr b.gridA i)) s
  let qs := if b.scaled then (ks.filter fun k => k % 128 = 0).map (· / 128) else []
  let sa := readRows core e w 0 4 (rows.map fun i => qs.map (saAddr b i)) a.2.2
  let c := readRows core e w b.bmap.space b.opBytes (cols.map fun j => ks.map fun k => cellAddr b.gridB k j) sa.2.2
  let sb := readCells core e w 0 4 (qs.map (sbAddr b)) c.2.2
  let btok := firstWord (c.2.1 ++ [sb.2.1])
  let bad := (a.2.1.zip sa.2.1).zipIdx.foldl (fun m (x, i) => addBad (addBad (addBad m i x.1) i x.2) i btok) []
  ({ a := a.1, bt := c.1, sa := sa.1.map (·.map (BitVec.ofNat 32)), sb := sb.1.map (BitVec.ofNat 32), bad := bad,
     first := firstWord (a.2.1 ++ sa.2.1 ++ [btok]) }, sb.2.2)

/-- The earlier of two tokens, where both were met. -/
def earlierTok (x y : Option Word) : Option Word :=
  match x with
  | some _ => x
  | none => y

/-- Operands with those of later k-steps of the same rows and columns; a row keeps its first token. -/
def Operands.join (x y : Operands) : Operands :=
  { a := x.a.zipWith (· ++ ·) y.a, bt := x.bt.zipWith (· ++ ·) y.bt, sa := x.sa.zipWith (· ++ ·) y.sa, sb := x.sb ++ y.sb,
    bad := y.bad.foldl (fun m p => addBad m p.1 (some p.2)) x.bad, first := earlierTok x.first y.first }

/-- Free words for the undefined elements of poisoned rows (R240, log 10). -/
def freeElems (s : State) : Nat → Nat → Word := fun i j => Config.freeWord (s.freeCtr + 128 * i + j)
def drewElems (s : State) : State := { s with freeCtr := s.freeCtr + 16384 }

def setTile (s : State) (wg k : Nat) (t : Tile) : State := modWg s wg fun w => { w with tiles := w.tiles.set k t }

/-! ## The operations -/

/-- A block fault (R237). -/
def blockFaulted (s : State) (core k : Nat) (e : MxEntry) (w : Workgroup) (a : Nat) (c : Cause) : State :=
  let b := blockOf (e.block.getD [])
  let y := mxToken s core e (why c (BitVec.ofNat 64 a))
  let s := mxMet y.1 core k y.2
  if !e.word0 then s
  else if b.isDrain then engineEvent s core (.matrix, k) 0 y.2
  else if w.tiles.length ≤ b.acc then s
  else
    let rows := if 1 ≤ b.m && b.row0 + b.m ≤ 128 then b.rows else List.range 128
    let t := resum (rows.foldl (fun t i => poisonRow t i y.2) (tileOf w b.acc)) rows []
    let s := modMx s core k fun e => { e with res := { e.res with prows := rows.length } }
    setTile s e.wg b.acc t

/-- The number of zero blocks that the engine skips; which of them its prediction names is free (R251). -/
def skippedBlocks (s : State) (b : Block) (x : Operands) : Nat × State :=
  if b.zskip then (skipCount b x fun q => Config.freeBool (s.freeCtr + q), { s with freeCtr := s.freeCtr + b.k / 16 }) else (0, s)

/-- An MMA's effect, with its operands read (R238 to R240). -/
def doMma (s : State) (core k : Nat) (e : MxEntry) (w : Workgroup) (b : Block) (x : Operands) : State :=
  let z := skippedBlocks s b x
  let t := mmaTile b (e.block.getD []) x (freeElems z.2) (tileOf w b.acc)
  let s := setTile (drewElems z.2) e.wg b.acc t
  let s := modMx s core k fun e => { e with res := { e.res with zblk := min 255 z.1, prows := x.bad.length } }
  x.first.toList.foldl (fun s tok => mxMet s core k tok) s

/-- A LOAD's effect, with its data read (R243). -/
def doLoad (s : State) (core k : Nat) (e : MxEntry) (w : Workgroup) (b : Block) (x : Operands) : State :=
  let t := loadTile b x.a x.bad (freeElems s) (tileOf w b.acc)
  let s := setTile (drewElems s) e.wg b.acc t
  let s := modMx s core k fun e => { e with res := { e.res with prows := x.bad.length } }
  x.first.toList.foldl (fun s tok => mxMet s core k tok) s

/-- A CLEAR's effect (R243). -/
def doClear (s : State) (e : MxEntry) (w : Workgroup) (b : Block) : State := setTile s e.wg b.acc (clearTile b (tileOf w b.acc))

/-! ### Rows in error (R379) -/

/-- The rows of a tile that an operation is the first to use since an error has struck them: they are poisoned with a token of cause ECC that the
operation makes (R229, R379). -/
def meetRows (core k : Nat) (e : MxEntry) (wg tile : Nat) (rows : List Nat) (s : State) : State :=
  match wgAt s wg with
  | none => s
  | some w =>
    let t := tileOf w tile
    let hit := t.struck.filter rows.contains
    if hit = [] then s
    else
      let y := mxToken s core e ⟨.ecc, some 0, false, false⟩
      let t := { hit.foldl (fun t i => poisonRow t i y.2) t with struck := t.struck.filter fun i => !rows.contains i }
      setTile (mxMet y.1 core k y.2) wg tile t

/-- The rows that an operation uses: those of its tile that it does not write whole, and all of them for the compare of a DRAIN; those of its chain
source; and those of the partner's tile that a DRAIN is guided by. -/
def meetOpRows (s : State) (core k : Nat) (e : MxEntry) (w : Workgroup) (b : Block) : State :=
  if b.isMma then
    let s := if b.chains then meetRows core k e e.wg b.chainacc b.rows s else s
    if b.init && b.wholeRows then s else meetRows core k e e.wg b.acc b.rows s
  else if b.isDrain then
    let s := meetRows core k e e.wg b.acc (List.range 128) s
    match (if b.guided && !partnerGone s w then partnerOf s w else none) with
    | some (p, _) => meetRows core k e p b.acc b.rows s
    | none => s
  else s

/-! ### The compare of a DRAIN (R250) -/

/-- Whether an operation of a history touches an element. -/
def blockHits (b : Block) (i j : Nat) : Bool :=
  decide (b.row0 ≤ i) && decide (i < b.row0 + b.m) && decide (b.col0 ≤ j) && decide (j < b.col0 + b.n)

/-- The memory addresses that a correction of an element reads again. -/
def correctionReads (t : Tile) (i j : Nat) : List Nat :=
  t.history.flatMap fun h => match h with
    | .mma bs =>
      let b := blockOf bs
      if blockHits b i j && b.bmap.space = 1 then (List.range b.k).map fun k => cellAddr b.gridB k (j - b.col0) else []
    | .clear .. => []

/-- An element recomputed from the history; the flag says that an operand could not be read (R249, R250). -/
def recomputeElem (core : Nat) (e : MxEntry) (w : Workgroup) (i j : Nat) : List HistOp → Word × Bool × State → Word × Bool × State
  | [], x => x
  | .clear r m c n :: hs, x =>
    recomputeElem core e w i j hs
      (if r ≤ i && i < r + m && c ≤ j && j < c + n then (0, false, x.2.2) else x)
  | .mma bs :: hs, x =>
    let b := blockOf bs
    if !blockHits b i j then recomputeElem core e w i j hs x
    else
      let o := readOperands x.2.2 core e w b [i - b.row0] [j - b.col0] (List.range b.k)
      let v := if b.init then 0 else x.1
      recomputeElem core e w i j hs (if b.k = 0 then v else mmaElem b o.1 0 0 v, (x.2.1 && !b.init) || !o.1.bad.isEmpty, o.2)

/-- The address of FADDR for an ABFT token: that of the first element drained of the lowest drained row that is poisoned (R250). -/
def abftAddr (b : Block) (rows : List Nat) : DWord :=
  match rows.find? fun i => decide (b.row0 ≤ i) && decide (i < b.row0 + b.m) with
  | some i => BitVec.ofNat 64 (cellAddr b.gridD (i - b.row0) 0)
  | none => 0

/-- The compare and what it asks for (R250). An element recomputed from operands that cannot be read is free. -/
def compareDrain (s : State) (core k : Nat) (e : MxEntry) (w : Workgroup) (b : Block) : State :=
  let t := tileOf w b.acc
  match compareTile t with
  | .clean => s
  | .repair rows cols => setTile (countCorrected s structArray) e.wg b.acc (resum t rows cols)
  | .recompute i j =>
    let x := recomputeElem core e w i j t.history (0, false, s)
    let v := if x.2.1 then Config.freeWord x.2.2.freeCtr else x.1
    let s := setTile { countCorrected x.2.2 structArray with freeCtr := x.2.2.freeCtr + 1 } e.wg b.acc (resum (tileSet t i j v) [i] [j])
    modMx s core k fun e => { e with res := { e.res with corr := 1 } }
  | .abft rows =>
    let y := mxToken (countUncorrected s structArray) core e ⟨.abft, some (abftAddr b rows), false, false⟩
    let s := setTile y.1 e.wg b.acc (rows.foldl (fun t i => poisonRow t i y.2) t)
    mxMet (modMx s core k fun e => { e with res := { e.res with prows := rows.length } }) core k y.2

/-! ### The rows of a DRAIN (R242, R248) -/

/-- Bytes by address gathered into runs, none of which leaves its sector. -/
def runsOf : List (Nat × Byte) → List (Nat × List Byte)
  | [] => []
  | (a, x) :: r =>
    match runsOf r with
    | (c, bs) :: rs => if c = a + 1 && c % 64 ≠ 0 then (a, x :: bs) :: rs else (a, [x]) :: (c, bs) :: rs
    | [] => [(a, [x])]

/-- The runs of a row of elements. -/
def rowRuns (eb : Nat) (cells : List (Nat × Nat)) : List (Nat × List Byte) :=
  runsOf (cells.foldl (fun m (a, v) => ((leBytes eb (BitVec.ofNat (8 * eb) v).toNat).zipIdx).foldl (fun m (x, i) => put m (a + i) x) m) [])

/-- The runs of a row checked: their locations, or the first fault; a row with a fault is not written (R242). -/
def placeRuns (core : Nat) (w : Workgroup) : List (Nat × List Byte) → State → Except Why (List (Loc × Nat × List Byte)) × State
  | [], s => (.ok [], s)
  | (a, bs) :: rs, s =>
    let r := mxPlace s core w a .write
    match r.1 with
    | .error y => (.error y, r.2)
    | .ok l =>
      if locFrozen r.2 l bs.length then (.error ⟨.writeFrozen, some (BitVec.ofNat 64 a), false, true⟩, r.2)
      else
        let x := placeRuns core w rs r.2
        match x.1 with
        | .error y => (.error y, x.2)
        | .ok ls => (.ok ((l, a, bs) :: ls), x.2)

/-- A run of a row put on its way to its visibility point (R242). -/
def pushRun (core k row : Nat) (e : MxEntry) (w : Workgroup) (p : Option Cause) (s : State) (x : Loc × Nat × List Byte) : State :=
  let j := freshId s
  let o : Op :=
    { kind := .engineWrite (BitVec.ofNat 64 x.2.1) x.2.2 p row, core := core, wg := e.wg, launch := w.launch, issue := e.issue, span := e.span,
      off := e.off, loc := x.1, n := x.2.2.length, pol := .norm, parts := [], acq := none, rel := false, blocking := false,
      phase := .waiting, eng := some (.matrix, k), entered := j.2.now, sent := false, reply := none }
  { j.2 with ops := put j.2.ops j.1 o }

/-- One run written to scratchpad. -/
def spadRun (wg : Nat) (p : Option Cause) (s : State) (x : Nat × List Byte) : State :=
  match p with
  | some c => poisonLoc s (.spad wg x.1) x.2.length c
  | none => writeLoc s true (.spad wg x.1) x.2

/-- The cause that a token names. -/
def causeOf (tok : Word) : Cause :=
  ([.pageMiss, .perm, .bounds, .spadBounds, .ecc, .illegal, .invalid, .writeFrozen, .scaleCount, .format, .abft, .remoteUnacked, .remoteFault,
    .swmLost, .txConflict, .txLocal, .txCapacity, .txPreempt, .noncanon, .overflow] : List Cause).find? (fun c => causeCode c = tokCause tok)
    |>.getD .user

/-- One row of a DRAIN written, as data or as poison, or left unwritten by a fault of its destination (R242). -/
def drainRow (core k : Nat) (e : MxEntry) (w : Workgroup) (b : Block) (u : Option Tile) (phase : Nat) (s : State) (i : Nat) : State :=
  let t := match wgAt s e.wg with
    | some w => tileOf w b.acc
    | none => Tile.fresh
  let tok := match rowTok t i with
    | some y => some y
    | none => u.bind fun u => rowTok u i
  let value (j : Nat) : Nat :=
    if tok.isSome then 0
    else
      let c := tileGet t i j
      drainBits b phase i j (match u with
        | some u => guide b.gscale c (tileGet u i j)
        | none => c)
  let runs := rowRuns (dfmtBytes b.dfmt) (b.cols.map fun j => (cellAddr b.gridD (i - b.row0) (j - b.col0), value j))
  let event (s : State) : State := match tok with
    | some y => engineEvent s core (.matrix, k) i y
    | none => s
  let p := tok.map causeOf
  if b.amap.space = 0 then event (runs.foldl (spadRun e.wg p) s)
  else
    let r := placeRuns core w runs s
    match r.1 with
    | .error y =>
      let x := mxToken r.2 core e y
      engineEvent x.1 core (.matrix, k) i x.2
    | .ok ls => event (ls.foldl (pushRun core k i e w p) r.2)

/-- The start of a DRAIN: its compare, and whether it is guided, by the partner's tile as it stands at the start; the engine runs no operation of the
partner while the DRAIN is in progress (R231, R242, R248). -/
def startDrain (s : State) (core k : Nat) (e : MxEntry) (w : Workgroup) (b : Block) : State :=
  let s := compareDrain s core k e w b
  let gone := partnerGone s w
  let u : Option Tile := if gone then none else (partnerOf s w).map fun p => tileOf p.2 b.acc
  if b.guided then modMx s core k fun e => { e with guideTile := u, res := { e.res with partner := gone, fused := !gone } } else s

/-- Rows of a DRAIN written, up to the visibility of the writes (R242, R248). -/
def drainRows (s : State) (core k : Nat) (e : MxEntry) (w : Workgroup) (b : Block) (rows : List Nat) : State :=
  rows.foldl (drainRow core k e w b e.guideTile (tileOf w b.acc).phase) s

/-! ## The start of an operation -/

/-- Whether an operand or the block lies in a scratchpad line that is absent (R206, R240). -/
def operandsAbsent (s : State) (wg : Nat) (b : Block) : Bool := (spadReads b).any fun x => lineAbsent s (.spad wg x) 1

/-- Memory that an operation reads, the operands of a correction among it. -/
def allReads (w : Workgroup) (b : Block) : List Nat :=
  memReads b ++ (if b.isDrain then match compareTile (tileOf w b.acc) with
    | .recompute i j => correctionReads (tileOf w b.acc) i j
    | _ => [] else [])

/-- The k-steps of an MMA, or the rows of another operation. -/
def opLength (b : Block) : Nat := if b.isMma then b.k else b.m

/-- What the k-steps or rows from pos on, n of them, read (R240, R243). -/
def readSteps (s : State) (core : Nat) (e : MxEntry) (w : Workgroup) (b : Block) (pos n : Nat) : Operands × State :=
  match b.kind with
  | 0 => readOperands s core e w b (List.range b.m) (List.range b.n) (List.range' pos (min n (b.k - pos)))
  | 2 =>
    let x := readRows core e w b.amap.space (dfmtBytes b.dfmt) (((gridRows b.gridD).drop pos).take n) s
    ({ Operands.none with a := x.1, bad := x.2.1.zipIdx.foldl (fun m (t, i) => addBad m (pos + i) t) [],
                           first := firstWord x.2.1 }, x.2.2)
  | _ => (Operands.none, s)

/-- The operands of the steps done, with those of the next. -/
def joinSteps (b : Block) (pos : Nat) (x y : Operands) : Operands :=
  if pos = 0 then y
  else if b.isMma then x.join y
  else { y with a := x.a ++ y.a, bad := y.bad.foldl (fun m p => addBad m p.1 (some p.2)) x.bad, first := earlierTok x.first y.first }

/-- The effect of an operation whose steps are all done; the rows of a DRAIN have been written as they came. -/
def doOp (s : State) (core k : Nat) (e : MxEntry) (w : Workgroup) (b : Block) (x : Operands) : State :=
  match b.kind with
  | 0 => doMma s core k e w b x
  | 1 => s
  | 2 => doLoad s core k e w b x
  | _ => doClear s e w b

/-- Up to n k-steps or rows of an operation that has started, from pos on (R252). -/
def stepOp (s : State) (core k pos n : Nat) (e : MxEntry) (w : Workgroup) : State :=
  let b := blockOf (e.block.getD [])
  let s := if b.isMma then countActivity s e.wg { noActivity with steps := min n (b.k - pos) } else s
  let x := readSteps s core e w b pos n
  let s := if b.isDrain then drainRows x.2 core k e w b ((b.rows.drop pos).take n) else x.2
  let got := joinSteps b pos e.got x.1
  if pos + n < opLength b then modMx s core k fun e => { e with stage := .running (pos + n), got := got }
  else doOp (modMx s core k fun e => { e with stage := .started, got := Operands.none }) core k e w b got

/-- The next n k-steps or rows of an operation in progress. -/
def goOn (n core : Nat) (s : State) (k : Nat) : State :=
  match look (coreAt s core).mxq k with
  | none => s
  | some e =>
    match e.pos, wgAt s e.wg with
    | some pos, some w => stepOp s core k pos n e w
    | _, _ => s

/-- The operations of a fused pair, or the one operation. -/
def pairOf (e : MxEntry) (k : Nat) : List Nat :=
  match e.fusedWith with
  | none => [k]
  | some j => [min k j, max k j]

/-- An operation starts. -/
def startOp (core : Nat) (s : State) (k : Nat) : State :=
  match look (coreAt s core).mxq k with
  | none => s
  | some e =>
    match wgAt s e.wg with
    | none => s
    | some w =>
      let b := blockOf (e.block.getD [])
      let s := meetOpRows (modMx s core k fun e => { e with stage := .running 0 }) core k e w b
      if b.isDrain then startDrain s core k e ((wgAt s e.wg).getD w) b else s

/-- Whether an operation's operands are there; if fabric operands are not, their fetch is put on its way. -/
def operandsReady (s : State) (core k : Nat) : Bool × State :=
  match look (coreAt s core).mxq k with
  | none => (false, s)
  | some e =>
    match wgAt s e.wg with
    | none => (false, s)
    | some w =>
      let b := blockOf (e.block.getD [])
      if operandsAbsent s e.wg b || mxOutstanding s core k || (e.fusedWith.any fun j => mxOutstanding s core j) then (false, s)
      else
        let r := missingSectors s core k e w (allReads w b)
        if r.1.isEmpty then (true, r.2) else (false, r.1.foldl (pushFetch core k e w) r.2)

/-- The start of an operation whose block has been read and for which Tandem has decided, and its first steps (R231, R237, R247). -/
def beginOp (s : State) (core k a n : Nat) : State :=
  match look (coreAt s core).mxq k with
  | none => s
  | some e =>
    match e.stage, wgAt s e.wg with
    | .ready, some w =>
      match e.fault with
      | some c => blockFaulted (modMx s core k fun e => { e with stage := .started }) core k e w a c
      | none =>
        let x := (pairOf e k).foldl (fun x j =>
          let y := operandsReady x.2 core j
          (x.1 && y.1, y.2)) (true, s)
        if x.1 then (pairOf e k).foldl (goOn n core) ((pairOf e k).foldl (startOp core) x.2) else x.2
    | _, _ => s

/-- The kind of an operation whose block stands at an address: an unreadable block counts as an MMA's, and faults (R245). -/
def kindAt (w : Workgroup) (e : MxEntry) (a : Nat) : Nat :=
  match e.block with
  | some bs => if e.word0 then (blockOf bs).kind else 0
  | none => if word0Ok w a then (blockOf (memGetN w.spad a 128)).kind else 0

/-- The start of the engine's next operation, if it is of a kind and Bridle gives its partition the cycle (R231, R233, R351). -/
def startKind (kind core n : Nat) (s : State) : State :=
  match mxNext s core with
  | none => s
  | some (k, e) =>
    match e.kind, wgAt s e.wg with
    | .go a _ _, some w =>
      if kindAt w e a ≠ kind || !wgIssues s w then s
      else if e.block.isSome then beginOp s core k a n
      else if lineAbsent s (.spad e.wg a) 128 || !storesDone s k e then s
      else
        let s := readBlock s core k e w a
        match look (coreAt s core).mxq k, wgAt s e.wg with
        | some e, some w => beginOp (decideTandem s core k e w) core k a n
        | _, _ => s
    | _, _ => s

/-- Whether an operation's workgroup may perform k-steps or rows in this cycle (R351). -/
def mxSteps (s : State) (e : MxEntry) : Bool :=
  match wgAt s e.wg with
  | some w => wgIssues s w
  | none => false

/-- The engine works on an operation of a kind: it goes on with the one in progress, or starts the next, and performs up to n of its k-steps or
rows (R231, R252, R351). -/
def workKind (kind core n : Nat) (s : State) : State :=
  let s := releaseHeld s core
  match mxCurrent s core with
  | some (k, e) =>
    if (blockOf (e.block.getD [])).kind = kind && mxSteps s e then (pairOf e k).foldl (goOn n core) s else s
  | none => startKind kind core n s

/-- MX_MMA: the engine starts an MMA, or goes on with it, for up to its turn's k-steps (R238, R252). -/
def execMxMma (turn : MxTurn) (s : State) : Host.Outcome State Fault Refusal := .next (workKind 0 turn.core turn.n s)

/-- MX_DRAIN: the engine starts a DRAIN, or goes on with it, for up to its turn's rows (R242, R252). -/
def execMxDrain (turn : MxTurn) (s : State) : Host.Outcome State Fault Refusal := .next (workKind 1 turn.core turn.n s)

/-- MX_LOAD: the engine starts a LOAD, or goes on with it, for up to its turn's rows (R243, R252). -/
def execMxLoad (turn : MxTurn) (s : State) : Host.Outcome State Fault Refusal := .next (workKind 2 turn.core turn.n s)

/-- MX_CLEAR: the engine starts a CLEAR, or goes on with it, for up to its turn's rows (R243, R252). -/
def execMxClear (turn : MxTurn) (s : State) : Host.Outcome State Fault Refusal := .next (workKind 3 turn.core turn.n s)

/-! ## MXRD and MXWR in the engine's order (R256, R257) -/

/-- A thread's register receives an MXRD's element, and MXC falls. -/
def landElem (s : State) (x : MxElem) (v : RegVal) : State :=
  match liveTh s x.th x.serial with
  | none => s
  | some _ => modTh s x.th fun th =>
      let th := setReg th x.dst v
      { th with pending := th.pending.filter (· ≠ x.dst), mxc := th.mxc - 1 }

def readElem (wg tile : Nat) (s : State) (x : MxElem) : State :=
  match wgAt s wg with
  | none => s
  | some w =>
    let t := tileOf w tile
    landElem s x (match rowTok t x.row with
      | some k => .bad k
      | none => .clean (tileGet t x.row x.col))

def writeElem (wg tile : Nat) (s : State) (x : MxElem) : State :=
  match wgAt s wg with
  | none => s
  | some w =>
    let t := resum (tileSet (tileOf w tile) x.row x.col x.data) [x.row] [x.col]
    let s := setTile s wg tile { t with replayable := false }
    match liveTh s x.th x.serial with
    | none => s
    | some _ => modTh s x.th fun th => { th with mxc := th.mxc - 1 }

/-- An operation leaves the queue; with the last one of a workgroup that has retired, its tiles return (R228, R230). -/
def dropMx (s : State) (core k wg : Nat) : State :=
  let s := modCore s core fun c => { c with mxq := del c.mxq k }
  match wgAt s wg with
  | some w => if w.retired && (headOp s core wg).isNone then setWg s wg { w with tiles := [] } else s
  | none => s

/-- MX_ELEMENT_ACCESS: the engine performs an MXRD or MXWR, which completes with it (R231, R256, R257). -/
def execMxElementAccess (core : Nat) (s : State) : Host.Outcome State Fault Refusal :=
  .next (
    let s := releaseHeld s core
    match mxNext s core with
    | none => s
    | some (k, e) =>
      let done (s : State) : State := endIssue (dropMx s core k e.wg) e.issue
      match e.kind with
      | .rd tile xs => done (xs.foldl (readElem e.wg tile) (meetRows core k e e.wg tile (xs.map (·.row)) s))
      | .wr tile xs => done (xs.foldl (writeElem e.wg tile) s)
      | .go .. => s)

/-! ## Completion (R232, R236) -/

/-- A completion record's bits (R236). -/
def recordBits (num : Nat) (r : MxResult) : BitVec 128 :=
  let bit (x : Bool) : BitVec 1 := if x then 1#1 else 0#1
  BitVec.ofNat 64 num ++ r.token ++ BitVec.ofNat 8 r.prows ++ BitVec.ofNat 8 r.corr ++ BitVec.ofNat 8 r.zblk ++ 0#3 ++ bit r.paused
    ++ bit r.gskip ++ bit r.partner ++ bit r.mismatch ++ bit r.fused

/-- The dither phase of a DRAIN's tile advances (R53). -/
def advancePhase (s : State) (e : MxEntry) : State :=
  match e.kind, wgAt s e.wg with
  | .go .., some w =>
    let b := blockOf (e.block.getD [])
    if b.isDrain && e.word0 && decide (b.acc < w.tiles.length) then
      let t := tileOf w b.acc
      setTile s e.wg b.acc { t with phase := (t.phase + 1) % 256 }
    else s
  | _, _ => s

/-- An operation's result with the token of its event, where it met none before its rows (R236, R242). -/
def withEvent (e : MxEntry) : MxResult :=
  match e.event with
  | some (_, tok) => if e.res.token = 0 then { e.res with token := tok } else e.res
  | none => e.res

/-- One operation complete: its phase, its event, its completion record, MXC, and its number (R232). -/
def completeMx (s : State) (core k : Nat) : State :=
  match look (coreAt s core).mxq k with
  | none => s
  | some e =>
    match e.kind with
    | .go _ tl num =>
      let launch := ((wgAt s e.wg).map (·.launch)).getD 0
      let s := advancePhase s e
      let s := match e.crec with
        | some a => writeLoc s true (.spad e.wg a) (leBytes 16 (recordBits num (withEvent e)).toNat)
        | none => s
      let s := match e.event with
        | some (_, tok) => recordEvent s e.wg launch (some 48) tok
        | none => s
      let s := dropMx s core k e.wg
      let s := match liveTh s e.th e.serial with
        | some _ => modTh s e.th fun th => { th with mxc := th.mxc - 1 }
        | none => s
      endIssue (completeNumber s e.wg tl num) e.issue
    | _ => s

/-- Whether an operation has started and every write of it has reached its visibility point. -/
def mxDone (s : State) (core k : Nat) : Bool :=
  match look (coreAt s core).mxq k with
  | none => true
  | some e => e.stage = .started && !mxOutstanding s core k

/-- MX_OP_COMPLETE: an operation completes; a fused pair completes as one (R231, R232, R246). -/
def execMxOpComplete (core k : Nat) (s : State) : Host.Outcome State Fault Refusal :=
  .next (match look (coreAt s core).mxq k with
    | none => s
    | some e =>
      if wgSaved s e.wg || !mxDone s core k then s
      else match e.fusedWith with
        | none => completeMx s core k
        | some j => if mxDone s core j then completeMx (completeMx s core k) core j else s)

end Sys2Proof.Machine
end

