-- ==== Sys2Proof/Machine/Boot.lean ====
section
/-! DEFINITION. Reset, power, boot, attestation, the management port, and errors (R8, R376 to R384). -/

namespace Sys2Proof.Machine

/-! ## Reset and power (R8, R376, R383) -/

/-- The module as reset leaves it: what lies outside the module, the inputs still to come, and a staged image are kept. -/
def resetModule (s : State) (p : Power) : State :=
  { State.reset with
    agenda := s.agenda, turn := s.turn, freeCtr := s.freeCtr, net := s.net, switches := s.switches, mirrorUpds := s.mirrorUpds,
    lostDevs := s.lostDevs, stagedFw := s.stagedFw, firmware := s.firmware, portOut := s.portOut, power := p, clkOff := s.clkOff }

/-- MODULE_RESET: every register takes its reset value (R8); a module that is not ON stays as it is. -/
def execModuleReset (s : State) : Host.Outcome State Fault Refusal :=
  .next (if s.power = .on then { resetModule s .on with cxlsz := s.cxlsz } else s)

/-- Reports of the management port, by code: a failed boot, a thermal shutdown. -/
def portBootFailed : Nat := 1
def portThermal : Nat := 2

def report (s : State) (x : PortOut) : State := { s with portOut := s.portOut ++ [x] }

/-- A CXL link's memory: a multiple of 64 KiB, at most 4 TiB (R365). -/
def cxlSize (n : Nat) : Nat := min (n / 65536 * 65536) (4 * 2 ^ 40)

/-- The stages of a boot: the first-stage firmware, the hub firmware, the training of stacked DRAM and LPDDR 6, the training of the links, the
control cores' boot image, and the manager (R376). -/
def bootStages : Nat := 6

/-- A module that is OFF begins to boot (R383). -/
def startBoot (s : State) : State := if s.power = .off then resetModule s .booting else s

/-- The image that a stage of a boot loads: the staged one, where that is the stage's; else the one that the stage's latest verified boot loaded, or, where
none is known, what is there (R384; log 93). -/
def bootImage (s : State) (image : List Byte) : List Byte :=
  if s.stagedFw = some image then image else lookD s.firmware s.bootStage image

/-- The next stage of a boot: its image is measured in the stage's register and verified with the signature that comes with it; one that fails halts the module with its compute dies
unpowered, which the port reports; a staged image that is verified takes effect, for this boot and those after it; and after the last stage the module
is ON (R376, R377, R384). -/
def bootNext (s : State) (image signature : List Byte) (cxl : List Nat) : State :=
  let x := bootImage s image
  let s := extendAt s s.bootStage x
  if !Config.bootVerifies s.bootStage x signature then report { s with bootHalted := true } (.event portBootFailed)
  else
    let s := { s with
      bootStage := s.bootStage + 1, firmware := put s.firmware s.bootStage x, stagedFw := if s.stagedFw = some x then none else s.stagedFw }
    if s.bootStage < bootStages then s
    else { s with power := .on, cxlsz := (List.range 4).map fun k => cxlSize ((cxl[k]?).getD 0) }

/-- POWER_ON: an OFF module begins to boot, and each further step takes a booting one through the next stage with the image that is there, up to a
failure (R376, R383). -/
def execPowerOn (image signature : List Byte) (cxl : List Nat) (s : State) : Host.Outcome State Fault Refusal :=
  .next (match s.power with
    | .off => startBoot s
    | .booting => if s.bootHalted then s else bootNext s image signature cxl
    | .on => s)

/-- POWER_OFF (R383). -/
def execPowerOff (s : State) : Host.Outcome State Fault Refusal := .next (resetModule s .off)

/-! ## Attestation and the management port (R378, R384) -/

/-- The number of an SPDM request. -/
def spdmCode : Spdm → Nat
  | .version => 0 | .capabilities => 1 | .algorithms => 2 | .digests => 3 | .certificate => 4 | .challenge => 5 | .measurements => 6
  | .keyExchange => 7

/-- Bytes of a signature (R378). -/
def signatureSize : Nat := 29792

/-- Requests whose answer is signed with the alias key: the measurements, by R378, and challenge and key exchange, by DMTF's protocol (log 30). -/
def isSigned : Spdm → Bool
  | .challenge | .measurements | .keyExchange => true
  | _ => false

/-- Whether an SPDM request arrives: at the port, or from another device while this one is joined to the fabric (R378). -/
def spdmReaches (s : State) : Option Nat → Bool
  | none => true
  | some n => s.joined && n ≠ s.pkg && !s.lostDevs.contains n

/-- SPDM_REQUEST: the device answers. A measurement response returns registers 0 to 31; the algorithms are the only ones that it offers (R378; log
30). -/
def execSpdmRequest (call : SpdmCall) (s : State) : Host.Outcome State Fault Refusal :=
  .next (
    if s.power ≠ .on || !spdmReaches s call.peer then s
    else
      let req := call.req
      let ms := if req = .measurements then s.measure else []
      let algs : List SpdmAlg := if req = .algorithms then [.slhDsaShake256s, .shake256] else []
      let signature := if isSigned req then (List.range signatureSize).map (Config.signature (spdmCode req) s.measure) else []
      report s (.spdm call.peer req ms algs (Config.attest (spdmCode req) s.measure) signature))

/-- Error counts by structure, corrected and uncorrected (R381). -/
def countsOf (m : NMap Nat) : List Nat := (List.range 7).map fun k => lookD m k 0

/-- REDFISH_REQUEST: inventory, firmware update, power control, telemetry, error counts and COREOFF (R381, R384). -/
def execRedfishRequest (req : Redfish) (s : State) : Host.Outcome State Fault Refusal :=
  .next (match req with
    | .firmware image => { s with stagedFw := some image }
    | .power true => report (startBoot s) (.redfish req [])
    | .power false => report (resetModule s .off) (.redfish req [])
    | .errorCounts => report s (.redfish req (countsOf s.eccCorrected ++ countsOf s.eccUncorrected))
    | .coreOff => report s (.redfish req ((List.range 4).map fun k => (lookD s.coreoff k 0).toNat))
    | .inventory => report s (.redfish req (Config.report 0))
    | .telemetry => report { s with freeCtr := s.freeCtr + 1 } (.redfish req (Config.report (s.freeCtr + 1))))

/-- DEBUG_UNLOCK: an unlock that the root of trust verifies enables the debug port and is recorded in register 15 (R377, R384). -/
def execDebugUnlock (valid : Bool) (token : List Byte) (s : State) : Host.Outcome State Fault Refusal :=
  .next (if valid && s.power = .on then { extendAt s 15 token with debugUnlocked := true } else s)

/-! ## Errors (R379 to R381) -/

/-- Structures of R379's table, in its order. -/
def siteStructure : EccSite → Nat
  | .reg .. | .fifo .. => 0
  | .spad .. | .l1 .. | .cluster .. | .slice .. | .tileRow .. | .icache .. => 1
  | .memory _ => 2
  | .array .. => structArray
  | .pipe .. => 4
  | .corrected k => k

/-- A token of cause ECC with address 0 for a thread (R379). -/
def eccToken (s : State) (t : Nat) (th : Thread) : State × Word :=
  let issue := s.nextIssue
  let k := makeToken { s with nextIssue := issue + 1 } (orgOf s issue t th) ⟨.ecc, some 0, false, false⟩
  (endIssue k.1 issue, k.2)

/-- A register that an uncorrectable error has struck; the word that first reads it makes the token (R379). -/
def poisonReg (s : State) (t r : Nat) : State := modTh s t fun th => setReg th r RegVal.hit

/-- A result of a thread's latest word that the residue check refuses: poison with a token of that word (R379). -/
def poisonResult (s : State) (t r : Nat) : State :=
  match thOf s t with
  | none => s
  | some th =>
    if r = 0 || th.regs.length ≤ r then s
    else
      let k := eccToken s t { th with off := th.off - 1 }
      modTh k.1 t fun th => setReg th r (.bad k.2)

/-- A word of a queue FIFO that an uncorrectable error has struck; the word that pops it makes the token (R379). -/
def poisonFifo (s : State) (wg key j : Nat) : State :=
  modWg s wg fun w =>
    let q := lookD w.fifos key []
    if q.length ≤ j then w else { w with fifos := put w.fifos key (q.set j RegVal.hit) }

/-- A cache's copy of a sector in error. -/
def poisonCopy (m : NMap CacheSector) (sec : Nat) : NMap CacheSector := alter m sec fun c => { c with poison := some .ecc, struck := true }

/-- A tile row in error; the operation that first uses it makes the token (R229, R379). -/
def poisonTileRow (s : State) (wg tile row : Nat) : State :=
  match wgAt s wg with
  | none => s
  | some w =>
    if w.tiles.length ≤ tile || 128 ≤ row then s
    else
      let t := tileOf w tile
      if t.struck.contains row || (rowTok t row).isSome then s else setTile s wg tile { t with struck := t.struck ++ [row] }

/-- An uncorrectable error where it lies (R150, R379). -/
def strike (s : State) : EccSite → State
  | .reg t r => poisonReg s t r
  | .pipe t r => poisonResult s t r
  | .fifo wg key k => poisonFifo s wg key k
  | .spad wg sec => match wgAt s wg with
    | some w => if 64 * sec < 128 * w.hdr.scratch then poisonLoc s (.spad wg (64 * sec)) 64 .ecc else s
    | none => s
  | .l1 core sec => if core < 256 then modCore s core fun c => { c with l1 := poisonCopy c.l1 sec } else s
  | .cluster cl sec => if cl < 32 then setCluster s cl (poisonCopy (clusterAt s cl) sec) else s
  | .memory sec =>
    if hubReaches s (.phys (64 * sec) .uncached 0 0) then
      let r := poisonSector s.mem s.poison sec .ecc
      { s with mem := r.1, poison := r.2 }
    else s
  | .slice sec => if isPkgMem (homeOf s (64 * sec)) then strikeSlice s sec else s
  | .tileRow wg tile row => poisonTileRow s wg tile row
  | .icache core pa => if core < 256 then modCore s core fun c => { c with icPoison := c.icPoison ++ [pa / 64] } else s
  | .array wg tile row col bits => match wgAt s wg with
    | some w =>
      if w.tiles.length ≤ tile || 128 ≤ row || 128 ≤ col then s
      else setTile s wg tile (tileSet (tileOf w tile) row col (tileGet (tileOf w tile) row col ^^^ bits))
    | none => s
  | .corrected _ => s

/-- ECC_ERROR: an error is found: an uncorrectable one leaves its value poisoned, one in the matrix array is left to the checksums, which tell whether it counts as
corrected, and one corrected in place changes no result (R249, R379, R381). -/
def execEccError (site : EccSite) (s : State) : Host.Outcome State Fault Refusal :=
  .next (
    let k := siteStructure site
    match site with
    | .corrected _ => countCorrected s k
    | .array .. => strike s site
    | _ => countUncorrected (strike s site) k)

/-- PATROL_SCRUB: all memory is read and corrected in place, which changes no result (R379, R381). -/
def execPatrolScrub (s : State) : Host.Outcome State Fault Refusal := .next s

/-! ## A core offline (R380) -/

/-- Saved tasks whose deque is a core's (R284). -/
def savedOn (s : State) (core : Nat) : List Task := s.parts.flatMap fun p => (p.savedTasks.filter fun t => t.1 = core).map (·.2)

/-- Launches that have work on a core. -/
def launchesOn (s : State) (core : Nat) : List Nat :=
  let ls := (s.wgs.filter fun p => p.2.core = core && !p.2.retired).map (fun p => p.2.launch) ++ (coreAt s core).deque.map (·.launch)
    ++ (savedOn s core).map (·.launch)
  ls.foldl (fun xs l => if xs.contains l then xs else xs ++ [l]) []

/-- Partitions that have work on a core. -/
def partsOn (s : State) (core : Nat) : List Nat :=
  let ps := (s.wgs.filter fun p => p.2.core = core && !p.2.retired).map (fun p => p.2.part) ++ (coreAt s core).deque.map (·.part)
    ++ (savedOn s core).map (·.part)
  ps.foldl (fun xs l => if xs.contains l then xs else xs ++ [l]) []

/-- What a core held is gone: its workgroups, its groups, its engines' operations and their accesses, its caches. -/
def loseCore (s : State) (core : Nat) : State :=
  let mine := (s.wgs.filter fun p => p.2.core = core).map (·.1)
  let s := mine.foldl (fun s w => match wgAt s w with
    | some x => removeWg (modLaunch (chargeWg s w) x.launch fun l => mergeCir l x.cir) w x
    | none => s) s
  { s with
    groups := s.groups.filter fun p => p.2.core ≠ core
    threads := s.threads.filter fun p => !mine.contains (wgOf p.1)
    ops := s.ops.filter fun p => !(p.2.core = core)
    acks := s.acks.filter fun p => !(p.2.core = core)
    late := s.late.filter fun p => !(p.2.core = core)
    xfers := s.xfers.filter fun p => p.2.core ≠ core
    fills := s.fills.filter fun f => f.core ≠ core }

/-- The tracked copies of a core that is gone leave its cluster's vectors (R277). -/
def dropVectors (s : State) (core : Nat) : State :=
  (((coreAt s core).l1).map (·.1)).foldl (fun s sec => setVector s core sec false) s

/-- CORE_OFFLINE: control state is in error. The launches with work on the core are aborted, COREOFF is set, and MCHECK is raised in every
partition that had work there; its granules that are carved for other cores stay (R380). -/
def execCoreOffline (core : Nat) (s : State) : Host.Outcome State Fault Refusal :=
  .next (
    if 256 ≤ core || (coreAt s core).offline then s
    else
      let ps := partsOn s core
      let ls := launchesOn s core
      let t := ls.foldl (fun s l => modLaunch (abortLaunch s l) l fun x => { x with sticky := true }) (countUncorrected s structControl)
      let t := dropVectors (loseCore t core) core
      let t := setCore t core
        { Core.reset with offline := true, recs := (coreAt t core).recs, seq := (coreAt t core).seq, carve := (coreAt t core).carve }
      let k := core / 64
      let t := { t with coreoff := put t.coreoff k (lookD t.coreoff k 0 ||| BitVec.ofNat 64 (2 ^ (core % 64))) }
      ps.foldl (fun s p => raiseIrq s p irqMcheck) t)

/-! ## Thermal shutdown (R382) -/

/-- A compute die without power. -/
def darkCore : Core := { Core.reset with offline := true }

/-- THERMAL_SHUTDOWN: a sensor reads above 110 °C; the compute dies lose power, every launch is lost, and the port reports it (R382). -/
def execThermalShutdown (die temp : Nat) (s : State) : Host.Outcome State Fault Refusal :=
  .next (
    if 4 ≤ die || temp ≤ 110 then s
    else
      let t := { s with
        cores := (List.range 256).map fun c => (c, darkCore)
        threads := [], wgs := [], groups := [], launches := [], pendingStore := [], gone := [], ops := [], acks := [], late := [], fills := [], xfers := [] }
      let t := { t with
        clusters := [], clusterTlb := [], dirs := [], pkgDir := [], msgs := [], freezes := [], freezeOps := [], reqs := [], flows := [],
        dstFlows := [], issueFaults := [], focus := none, queues := t.queues.map (fun q => (q.1, { q.2 with fifo := [] })), parts := t.parts.map fun p => { p with savedTasks := [], pending := [] } }
      report t (.event portThermal))

end Sys2Proof.Machine
end

