-- ==== Sys2Proof/Decode.lean ====
section
/-! DEFINITION. Decoding (R63 to R79): fields, the encoder written from the encoding tables, and the decoder, which answers the
instruction a word names and refuses every other word by name. -/

namespace Sys2Proof

/-- A one-bit field. -/
def bit (b : Bool) : BitVec 1 := if b then 1#1 else 0#1

/-! Field codes (R30, R45, R67 to R69, R114, R119, R198, R200, R202, R220, R345). -/

def Rnd.code : Rnd → BitVec 2
  | .rne => 0#2 | .rz => 1#2 | .rdn => 2#2 | .rup => 3#2

def Rnd.ofCode (c : BitVec 2) : Rnd :=
  match c.toNat with
  | 0 => .rne | 1 => .rz | 2 => .rdn | _ => .rup

def Scope.code : Scope → BitVec 3
  | .grp => 0#3 | .core => 1#3 | .clu => 2#3 | .die => 3#3 | .pkg => 4#3 | .swm => 5#3 | .sys => 6#3

def Scope.ofCode (c : BitVec 3) : Scope :=
  match c.toNat with
  | 0 => .grp | 1 => .core | 2 => .clu | 3 => .die | 4 => .pkg | 5 => .swm | _ => .sys

def MemOrder.ordCode : MemOrder → BitVec 2
  | .none => 0#2 | .acq _ => 1#2 | .rel _ => 2#2 | .acqrel _ => 3#2

def MemOrder.scopeCode : MemOrder → BitVec 3
  | .none => 0#3 | .acq s => s.code | .rel s => s.code | .acqrel s => s.code

def MemOrder.ofCodes (o : BitVec 2) (s : BitVec 3) : MemOrder :=
  match o.toNat with
  | 0 => .none | 1 => .acq (Scope.ofCode s) | 2 => .rel (Scope.ofCode s) | _ => .acqrel (Scope.ofCode s)

def Size.code : Size → BitVec 3
  | .x8 => 0#3 | .x16 => 1#3 | .x32 => 2#3 | .x64 => 3#3 | .x128 => 4#3

def Size.ofCode (c : BitVec 3) : Size :=
  match c.toNat with
  | 0 => .x8 | 1 => .x16 | 2 => .x32 | 3 => .x64 | _ => .x128

def CPol.code : CPol → BitVec 3
  | .norm => 0#3 | .stream => 1#3 | .skipl1 => 2#3 | .skipcc => 3#3 | .keep => 4#3

def CPol.ofCode (c : BitVec 3) : CPol :=
  match c.toNat with
  | 0 => .norm | 1 => .stream | 2 => .skipl1 | 3 => .skipcc | _ => .keep

def ICond.code : ICond → BitVec 4
  | .eq => 0#4 | .ne => 1#4 | .lt => 2#4 | .le => 3#4 | .gt => 4#4 | .ge => 5#4
  | .ltn => 10#4 | .len => 11#4 | .gtn => 12#4 | .gen => 13#4

def ICond.ofCode (c : BitVec 4) : ICond :=
  match c.toNat with
  | 0 => .eq | 1 => .ne | 2 => .lt | 3 => .le | 4 => .gt | 5 => .ge | 10 => .ltn | 11 => .len | 12 => .gtn | _ => .gen

def FCond.code : FCond → BitVec 4
  | .eq => 0#4 | .ne => 1#4 | .lt => 2#4 | .le => 3#4 | .gt => 4#4 | .ge => 5#4 | .un => 6#4 | .ord => 7#4

def FCond.ofCode (c : BitVec 4) : FCond :=
  match c.toNat with
  | 0 => .eq | 1 => .ne | 2 => .lt | 3 => .le | 4 => .gt | 5 => .ge | 6 => .un | _ => .ord

def Fmt.code6 (f : Fmt) : BitVec 6 := (Machine.fmtCode f).setWidth 6

def Fmt.ofCode6 (c : BitVec 6) : Fmt := (Machine.fmtOfCode (c.setWidth 8)).getD .x8

def RedOp.code : RedOp → BitVec 5
  | .add => 0#5 | .fadd => 1#5 | .min => 2#5 | .max => 3#5 | .minn => 4#5 | .maxn => 5#5 | .fmin => 6#5 | .fmax => 7#5
  | .and => 8#5 | .or => 9#5 | .xor => 10#5

def RedOp.ofCode (c : BitVec 5) : RedOp :=
  match c.toNat with
  | 0 => .add | 1 => .fadd | 2 => .min | 3 => .max | 4 => .minn | 5 => .maxn | 6 => .fmin | 7 => .fmax
  | 8 => .and | 9 => .or | _ => .xor

def ShfMode.code : ShfMode → BitVec 2
  | .idx => 0#2 | .up => 1#2 | .down => 2#2 | .xor => 3#2

def ShfMode.ofCode (c : BitVec 2) : ShfMode :=
  match c.toNat with
  | 0 => .idx | 1 => .up | 2 => .down | _ => .xor

def VoteMode.code : VoteMode → BitVec 3
  | .any => 0#3 | .all => 1#3 | .count => 2#3 | .ballot => 3#3 | .uni => 4#3

def VoteMode.ofCode (c : BitVec 3) : VoteMode :=
  match c.toNat with
  | 0 => .any | 1 => .all | 2 => .count | 3 => .ballot | _ => .uni

def AtomOp.code : AtomOp → BitVec 4
  | .add => 0#4 | .fadd => 1#4 | .min => 2#4 | .max => 3#4 | .minn => 4#4 | .maxn => 5#4 | .and => 6#4 | .or => 7#4
  | .xor => 8#4 | .exch => 9#4 | .cas => 10#4 | .fmin => 11#4 | .fmax => 12#4 | .inc => 13#4

def AtomOp.ofCode (c : BitVec 4) : AtomOp :=
  match c.toNat with
  | 0 => .add | 1 => .fadd | 2 => .min | 3 => .max | 4 => .minn | 5 => .maxn | 6 => .and | 7 => .or
  | 8 => .xor | 9 => .exch | 10 => .cas | 11 => .fmin | 12 => .fmax | _ => .inc

def SReg.code : SReg → BitVec 4
  | .lane => 0#4 | .tidx => 1#4 | .widlo => 2#4 | .widhi => 3#4 | .gwidth => 4#4 | .core => 5#4 | .clu => 6#4 | .die => 7#4
  | .pkg => 8#4 | .clk => 9#4

def SReg.ofCode (c : BitVec 4) : SReg :=
  match c.toNat with
  | 0 => .lane | 1 => .tidx | 2 => .widlo | 3 => .widhi | 4 => .gwidth | 5 => .core | 6 => .clu | 7 => .die | 8 => .pkg | _ => .clk

def Pk2.code : Pk2 → BitVec 2
  | .bf16 => 0#2 | .x16 => 1#2 | .i16 => 2#2

def Pk2.ofCode (c : BitVec 2) : Pk2 :=
  match c.toNat with
  | 0 => .bf16 | 1 => .x16 | _ => .i16

def QFmt.toBool : QFmt → Bool
  | .e4m3 => false | .e5m2 => true

def QFmt.ofBool (b : Bool) : QFmt := if b then .e5m2 else .e4m3

def Reach.code : Reach → BitVec 2
  | .core => 0#2 | .clu => 1#2 | .die => 2#2

def Reach.ofCode (c : BitVec 2) : Reach :=
  match c.toNat with
  | 0 => .core | 1 => .clu | _ => .die

/-! The fields of a full word (R64, R65). -/

def fD (w : DWord) : Reg := w.extractLsb' 47 8
def fA (w : DWord) : Reg := w.extractLsb' 39 8
def fB (w : DWord) : Reg := w.extractLsb' 31 8
def fC (w : DWord) : Reg := w.extractLsb' 23 8
def fTL (w : DWord) : BitVec 3 := w.extractLsb' 20 3
def fScope (w : DWord) : BitVec 3 := w.extractLsb' 17 3
def fOrd (w : DWord) : BitVec 2 := w.extractLsb' 15 2
def fRnd (w : DWord) : BitVec 2 := w.extractLsb' 0 2
def fImm (w : DWord) : Word := w.extractLsb' 7 32
def fOff (w : DWord) : BitVec 16 := w.extractLsb' 15 16
def fMScope (w : DWord) : BitVec 3 := w.extractLsb' 12 3
def fMOrd (w : DWord) : BitVec 2 := w.extractLsb' 10 2
def fSize (w : DWord) : BitVec 3 := w.extractLsb' 7 3
def fCPol (w : DWord) : BitVec 3 := w.extractLsb' 4 3
def fX4 (w : DWord) : BitVec 4 := w.extractLsb' 0 4
def fDisp (w : DWord) : BitVec 36 := w.extractLsb' 3 36
def fXB0 (w : DWord) : Bool := w.getLsbD 0
def fXB2 (w : DWord) : BitVec 2 := w.extractLsb' 0 2
def fBit2 (w : DWord) : Bool := w.getLsbD 2
def fBit3 (w : DWord) : Bool := w.getLsbD 3
def fBit5 (w : DWord) : Bool := w.getLsbD 5
def fBit7 (w : DWord) : Bool := w.getLsbD 7
def fCC (w : DWord) : BitVec 4 := w.extractLsb' 2 4
def fOpk (w : DWord) : BitVec 5 := w.extractLsb' 2 5
def fSh (w : DWord) : BitVec 3 := w.extractLsb' 2 3
def fX32 (w : DWord) : BitVec 2 := w.extractLsb' 2 2
def fDFmt (w : DWord) : BitVec 6 := w.extractLsb' 9 6
def fSFmt (w : DWord) : BitVec 6 := w.extractLsb' 3 6

/-! The fields of MOD9 (R74). -/

def hMod (h : BitVec 31) : BitVec 9 := h.extractLsb' 0 9
def hBit0 (h : BitVec 31) : Bool := h.getLsbD 0
def hCC (h : BitVec 31) : BitVec 4 := h.extractLsb' 0 4
def hRnd (h : BitVec 31) : BitVec 2 := h.extractLsb' 0 2

/-! The format classes (R64). -/

def encA (op : BitVec 8) (d a b c : BitVec 8) (mod : BitVec 23) : DWord := 0#1 ++ op ++ d ++ a ++ b ++ c ++ mod

def encI (op : BitVec 8) (d a : BitVec 8) (imm : Word) (mod : BitVec 7) : DWord := 0#1 ++ op ++ d ++ a ++ imm ++ mod

def encM (op : BitVec 8) (d a b : BitVec 8) (off : BitVec 16) (sc : BitVec 3) (ord : BitVec 2) (sz cp : BitVec 3)
    (x : BitVec 4) : DWord :=
  0#1 ++ op ++ d ++ a ++ b ++ off ++ sc ++ ord ++ sz ++ cp ++ x

def encB (op : BitVec 8) (d a : BitVec 8) (disp : BitVec 36) (x : BitVec 3) : DWord := 0#1 ++ op ++ d ++ a ++ disp ++ x

/-- The pair opcode of a half (R78). -/
def HalfOp.pop : HalfOp → BitVec 6
  | .iadd => 0x01#6
  | .isub => 0x02#6
  | .imul => 0x03#6
  | .imin _ => 0x04#6
  | .imax _ => 0x05#6
  | .and => 0x06#6
  | .or => 0x07#6
  | .xor => 0x08#6
  | .andn => 0x09#6
  | .shl => 0x0A#6
  | .shr => 0x0B#6
  | .shra => 0x0C#6
  | .rotl => 0x0D#6
  | .icmp _ => 0x0E#6
  | .mov => 0x0F#6
  | .iaddImm _ => 0x10#6
  | .imulImm _ => 0x11#6
  | .andImm _ => 0x12#6
  | .orImm _ => 0x13#6
  | .xorImm _ => 0x14#6
  | .shlImm _ => 0x15#6
  | .shrImm _ => 0x16#6
  | .shraImm _ => 0x17#6
  | .movi _ => 0x18#6
  | .iabs => 0x19#6
  | .clz => 0x1A#6
  | .popc => 0x1B#6
  | .brev => 0x1C#6
  | .fadd _ => 0x20#6
  | .fsub _ => 0x21#6
  | .fmul _ => 0x22#6
  | .fmin => 0x23#6
  | .fmax => 0x24#6
  | .fcmp _ => 0x25#6
  | .hadd2 _ => 0x26#6
  | .hmul2 _ => 0x27#6
  | .frcp _ => 0x28#6
  | .frsq _ => 0x29#6
  | .fsqrt _ => 0x2A#6
  | .fexp2 => 0x2B#6
  | .flog2 => 0x2C#6
  | .fsin => 0x2D#6
  | .fcos => 0x2E#6
  | .ftanh => 0x2F#6
  | .cvtI32Fp32 _ => 0x30#6
  | .cvtFp32I32 _ => 0x31#6

/-- The MOD9 field of a half (R74). -/
def HalfOp.mod9 : HalfOp → BitVec 9
  | .iadd => 0#9
  | .isub => 0#9
  | .imul => 0#9
  | .imin nat => 0#8 ++ bit nat
  | .imax nat => 0#8 ++ bit nat
  | .and => 0#9
  | .or => 0#9
  | .xor => 0#9
  | .andn => 0#9
  | .shl => 0#9
  | .shr => 0#9
  | .shra => 0#9
  | .rotl => 0#9
  | .icmp cc => 0#5 ++ cc.code
  | .mov => 0#9
  | .iaddImm imm => imm
  | .imulImm imm => imm
  | .andImm imm => imm
  | .orImm imm => imm
  | .xorImm imm => imm
  | .shlImm imm => imm
  | .shrImm imm => imm
  | .shraImm imm => imm
  | .movi imm => imm
  | .iabs => 0#9
  | .clz => 0#9
  | .popc => 0#9
  | .brev => 0#9
  | .fadd rm => 0#7 ++ rm.code
  | .fsub rm => 0#7 ++ rm.code
  | .fmul rm => 0#7 ++ rm.code
  | .fmin => 0#9
  | .fmax => 0#9
  | .fcmp cc => 0#5 ++ cc.code
  | .hadd2 rm => 0#7 ++ rm.code
  | .hmul2 rm => 0#7 ++ rm.code
  | .frcp rm => 0#7 ++ rm.code
  | .frsq rm => 0#7 ++ rm.code
  | .fsqrt rm => 0#7 ++ rm.code
  | .fexp2 => 0#9
  | .flog2 => 0#9
  | .fsin => 0#9
  | .fcos => 0#9
  | .ftanh => 0#9
  | .cvtI32Fp32 rm => 0#7 ++ rm.code
  | .cvtFp32I32 rm => 0#7 ++ rm.code

/-- Whether the form reads field B: every form but the immediate ones (R74). -/
def HalfOp.readsB : HalfOp → Bool
  | .iaddImm _ => false
  | .imulImm _ => false
  | .andImm _ => false
  | .orImm _ => false
  | .xorImm _ => false
  | .shlImm _ => false
  | .shrImm _ => false
  | .shraImm _ => false
  | .movi _ => false
  | _ => true

/-- The operation that a half's bits name, if its pair opcode is assigned (R78). -/
def halfOpOf (h : BitVec 31) : Option HalfOp :=
  match (h.extractLsb' 25 6).toNat with
  | 0x01 => some .iadd
  | 0x02 => some .isub
  | 0x03 => some .imul
  | 0x04 => some (.imin (hBit0 h))
  | 0x05 => some (.imax (hBit0 h))
  | 0x06 => some .and
  | 0x07 => some .or
  | 0x08 => some .xor
  | 0x09 => some .andn
  | 0x0A => some .shl
  | 0x0B => some .shr
  | 0x0C => some .shra
  | 0x0D => some .rotl
  | 0x0E => some (.icmp (ICond.ofCode (hCC h)))
  | 0x0F => some .mov
  | 0x10 => some (.iaddImm (hMod h))
  | 0x11 => some (.imulImm (hMod h))
  | 0x12 => some (.andImm (hMod h))
  | 0x13 => some (.orImm (hMod h))
  | 0x14 => some (.xorImm (hMod h))
  | 0x15 => some (.shlImm (hMod h))
  | 0x16 => some (.shrImm (hMod h))
  | 0x17 => some (.shraImm (hMod h))
  | 0x18 => some (.movi (hMod h))
  | 0x19 => some .iabs
  | 0x1A => some .clz
  | 0x1B => some .popc
  | 0x1C => some .brev
  | 0x20 => some (.fadd (Rnd.ofCode (hRnd h)))
  | 0x21 => some (.fsub (Rnd.ofCode (hRnd h)))
  | 0x22 => some (.fmul (Rnd.ofCode (hRnd h)))
  | 0x23 => some .fmin
  | 0x24 => some .fmax
  | 0x25 => some (.fcmp (FCond.ofCode (hCC h)))
  | 0x26 => some (.hadd2 (Rnd.ofCode (hRnd h)))
  | 0x27 => some (.hmul2 (Rnd.ofCode (hRnd h)))
  | 0x28 => some (.frcp (Rnd.ofCode (hRnd h)))
  | 0x29 => some (.frsq (Rnd.ofCode (hRnd h)))
  | 0x2A => some (.fsqrt (Rnd.ofCode (hRnd h)))
  | 0x2B => some .fexp2
  | 0x2C => some .flog2
  | 0x2D => some .fsin
  | 0x2E => some .fcos
  | 0x2F => some .ftanh
  | 0x30 => some (.cvtI32Fp32 (Rnd.ofCode (hRnd h)))
  | 0x31 => some (.cvtFp32I32 (Rnd.ofCode (hRnd h)))
  | _ => none

/-- The 31 bits of a half (R71). -/
def encHalf (h : Half) : BitVec 31 := h.op.pop ++ h.d ++ h.b ++ h.op.mod9

/-- A pair word from its halves (R71). -/
def encPair (x y : BitVec 31) : DWord := 1#1 ++ x ++ 0#1 ++ y

/-- The half that 31 bits hold (R71). -/
def halfOf (h : BitVec 31) : Option Half := (halfOpOf h).map fun op => ⟨op, h.extractLsb' 17 8, h.extractLsb' 9 8⟩

/-- The instruction whose half A is `x` and half B is `y`. -/
def pairInstr (x y : Half) : Instr :=
  match x.op with
  | .iadd => .iaddPair x.d x.b y
  | .isub => .isubPair x.d x.b y
  | .imul => .imulPair x.d x.b y
  | .imin nat => .iminPair nat x.d x.b y
  | .imax nat => .imaxPair nat x.d x.b y
  | .and => .andPair x.d x.b y
  | .or => .orPair x.d x.b y
  | .xor => .xorPair x.d x.b y
  | .andn => .andnPair x.d x.b y
  | .shl => .shlPair x.d x.b y
  | .shr => .shrPair x.d x.b y
  | .shra => .shraPair x.d x.b y
  | .rotl => .rotlPair x.d x.b y
  | .icmp cc => .icmpPair cc x.d x.b y
  | .mov => .movPair x.d x.b y
  | .iaddImm imm => .iaddPairImm x.d imm y
  | .imulImm imm => .imulPairImm x.d imm y
  | .andImm imm => .andPairImm x.d imm y
  | .orImm imm => .orPairImm x.d imm y
  | .xorImm imm => .xorPairImm x.d imm y
  | .shlImm imm => .shlPairImm x.d imm y
  | .shrImm imm => .shrPairImm x.d imm y
  | .shraImm imm => .shraPairImm x.d imm y
  | .movi imm => .moviPair x.d imm y
  | .iabs => .iabsPair x.d x.b y
  | .clz => .clzPair x.d x.b y
  | .popc => .popcPair x.d x.b y
  | .brev => .brevPair x.d x.b y
  | .fadd rm => .faddPair rm x.d x.b y
  | .fsub rm => .fsubPair rm x.d x.b y
  | .fmul rm => .fmulPair rm x.d x.b y
  | .fmin => .fminPair x.d x.b y
  | .fmax => .fmaxPair x.d x.b y
  | .fcmp cc => .fcmpPair cc x.d x.b y
  | .hadd2 rm => .hadd2Pair rm x.d x.b y
  | .hmul2 rm => .hmul2Pair rm x.d x.b y
  | .frcp rm => .frcpPair rm x.d x.b y
  | .frsq rm => .frsqPair rm x.d x.b y
  | .fsqrt rm => .fsqrtPair rm x.d x.b y
  | .fexp2 => .fexp2Pair x.d x.b y
  | .flog2 => .flog2Pair x.d x.b y
  | .fsin => .fsinPair x.d x.b y
  | .fcos => .fcosPair x.d x.b y
  | .ftanh => .ftanhPair x.d x.b y
  | .cvtI32Fp32 rm => .cvtI32Fp32Pair rm x.d x.b y
  | .cvtFp32I32 rm => .cvtFp32I32Pair rm x.d x.b y

/-- The halves of a pair instruction. -/
def Instr.halves? : Instr → Option (Half × Half)
  | .iaddPair d b o => some (⟨.iadd, d, b⟩, o)
  | .isubPair d b o => some (⟨.isub, d, b⟩, o)
  | .imulPair d b o => some (⟨.imul, d, b⟩, o)
  | .iminPair nat d b o => some (⟨.imin nat, d, b⟩, o)
  | .imaxPair nat d b o => some (⟨.imax nat, d, b⟩, o)
  | .andPair d b o => some (⟨.and, d, b⟩, o)
  | .orPair d b o => some (⟨.or, d, b⟩, o)
  | .xorPair d b o => some (⟨.xor, d, b⟩, o)
  | .andnPair d b o => some (⟨.andn, d, b⟩, o)
  | .shlPair d b o => some (⟨.shl, d, b⟩, o)
  | .shrPair d b o => some (⟨.shr, d, b⟩, o)
  | .shraPair d b o => some (⟨.shra, d, b⟩, o)
  | .rotlPair d b o => some (⟨.rotl, d, b⟩, o)
  | .icmpPair cc d b o => some (⟨.icmp cc, d, b⟩, o)
  | .movPair d b o => some (⟨.mov, d, b⟩, o)
  | .iaddPairImm d imm o => some (⟨.iaddImm imm, d, 0⟩, o)
  | .imulPairImm d imm o => some (⟨.imulImm imm, d, 0⟩, o)
  | .andPairImm d imm o => some (⟨.andImm imm, d, 0⟩, o)
  | .orPairImm d imm o => some (⟨.orImm imm, d, 0⟩, o)
  | .xorPairImm d imm o => some (⟨.xorImm imm, d, 0⟩, o)
  | .shlPairImm d imm o => some (⟨.shlImm imm, d, 0⟩, o)
  | .shrPairImm d imm o => some (⟨.shrImm imm, d, 0⟩, o)
  | .shraPairImm d imm o => some (⟨.shraImm imm, d, 0⟩, o)
  | .moviPair d imm o => some (⟨.movi imm, d, 0⟩, o)
  | .iabsPair d b o => some (⟨.iabs, d, b⟩, o)
  | .clzPair d b o => some (⟨.clz, d, b⟩, o)
  | .popcPair d b o => some (⟨.popc, d, b⟩, o)
  | .brevPair d b o => some (⟨.brev, d, b⟩, o)
  | .faddPair rm d b o => some (⟨.fadd rm, d, b⟩, o)
  | .fsubPair rm d b o => some (⟨.fsub rm, d, b⟩, o)
  | .fmulPair rm d b o => some (⟨.fmul rm, d, b⟩, o)
  | .fminPair d b o => some (⟨.fmin, d, b⟩, o)
  | .fmaxPair d b o => some (⟨.fmax, d, b⟩, o)
  | .fcmpPair cc d b o => some (⟨.fcmp cc, d, b⟩, o)
  | .hadd2Pair rm d b o => some (⟨.hadd2 rm, d, b⟩, o)
  | .hmul2Pair rm d b o => some (⟨.hmul2 rm, d, b⟩, o)
  | .frcpPair rm d b o => some (⟨.frcp rm, d, b⟩, o)
  | .frsqPair rm d b o => some (⟨.frsq rm, d, b⟩, o)
  | .fsqrtPair rm d b o => some (⟨.fsqrt rm, d, b⟩, o)
  | .fexp2Pair d b o => some (⟨.fexp2, d, b⟩, o)
  | .flog2Pair d b o => some (⟨.flog2, d, b⟩, o)
  | .fsinPair d b o => some (⟨.fsin, d, b⟩, o)
  | .fcosPair d b o => some (⟨.fcos, d, b⟩, o)
  | .ftanhPair d b o => some (⟨.ftanh, d, b⟩, o)
  | .cvtI32Fp32Pair rm d b o => some (⟨.cvtI32Fp32 rm, d, b⟩, o)
  | .cvtFp32I32Pair rm d b o => some (⟨.cvtFp32I32 rm, d, b⟩, o)
  | _ => none

/-- The word of an instruction, from the encoding tables of the spec; a machine step has none. -/
def encode (i : Instr) : Option DWord :=
  match i with
  | .iadd d a b => some (encA 0x01#8 d a b 0#8 0#23)
  | .iaddImm d a imm => some (encI 0x20#8 d a imm 0#7)
  | .iaddW d a b => some (encA 0xC1#8 d a b 0#8 0#23)
  | .iaddWImm d a imm => some (encI 0xE0#8 d a imm 0#7)
  | .isub d a b => some (encA 0x02#8 d a b 0#8 0#23)
  | .isubW d a b => some (encA 0xC2#8 d a b 0#8 0#23)
  | .imul d a b => some (encA 0x03#8 d a b 0#8 0#23)
  | .imulImm d a imm => some (encI 0x21#8 d a imm 0#7)
  | .imulW d a b => some (encA 0xC3#8 d a b 0#8 0#23)
  | .imulWImm d a imm => some (encI 0xE1#8 d a imm 0#7)
  | .imulhi d a b nat => some (encA 0x04#8 d a b 0#8 (0#20 ++ bit nat ++ 0#2))
  | .imulhiW d a b nat => some (encA 0xC4#8 d a b 0#8 (0#20 ++ bit nat ++ 0#2))
  | .imad d a b c => some (encA 0x05#8 d a b c 0#23)
  | .imadW d a b c => some (encA 0xC5#8 d a b c 0#23)
  | .imin d a b nat => some (encA 0x06#8 d a b 0#8 (0#20 ++ bit nat ++ 0#2))
  | .iminImm d a imm nat => some (encI 0x22#8 d a imm (0#4 ++ bit nat ++ 0#2))
  | .iminW d a b nat => some (encA 0xC6#8 d a b 0#8 (0#20 ++ bit nat ++ 0#2))
  | .iminWImm d a imm nat => some (encI 0xE2#8 d a imm (0#4 ++ bit nat ++ 0#2))
  | .imax d a b nat => some (encA 0x07#8 d a b 0#8 (0#20 ++ bit nat ++ 0#2))
  | .imaxImm d a imm nat => some (encI 0x23#8 d a imm (0#4 ++ bit nat ++ 0#2))
  | .imaxW d a b nat => some (encA 0xC7#8 d a b 0#8 (0#20 ++ bit nat ++ 0#2))
  | .imaxWImm d a imm nat => some (encI 0xE3#8 d a imm (0#4 ++ bit nat ++ 0#2))
  | .iabs d a => some (encA 0x08#8 d a 0#8 0#8 0#23)
  | .iabsW d a => some (encA 0xC8#8 d a 0#8 0#8 0#23)
  | .and d a b => some (encA 0x09#8 d a b 0#8 0#23)
  | .andImm d a imm => some (encI 0x24#8 d a imm 0#7)
  | .andW d a b => some (encA 0xC9#8 d a b 0#8 0#23)
  | .andWImm d a imm => some (encI 0xE4#8 d a imm 0#7)
  | .or d a b => some (encA 0x0A#8 d a b 0#8 0#23)
  | .orImm d a imm => some (encI 0x25#8 d a imm 0#7)
  | .orW d a b => some (encA 0xCA#8 d a b 0#8 0#23)
  | .orWImm d a imm => some (encI 0xE5#8 d a imm 0#7)
  | .xor d a b => some (encA 0x0B#8 d a b 0#8 0#23)
  | .xorImm d a imm => some (encI 0x26#8 d a imm 0#7)
  | .xorW d a b => some (encA 0xCB#8 d a b 0#8 0#23)
  | .xorWImm d a imm => some (encI 0xE6#8 d a imm 0#7)
  | .andn d a b => some (encA 0x0C#8 d a b 0#8 0#23)
  | .andnW d a b => some (encA 0xCC#8 d a b 0#8 0#23)
  | .shl d a b => some (encA 0x0D#8 d a b 0#8 0#23)
  | .shlImm d a imm => some (encI 0x27#8 d a imm 0#7)
  | .shlW d a b => some (encA 0xCD#8 d a b 0#8 0#23)
  | .shlWImm d a imm => some (encI 0xE7#8 d a imm 0#7)
  | .shr d a b => some (encA 0x0E#8 d a b 0#8 0#23)
  | .shrImm d a imm => some (encI 0x28#8 d a imm 0#7)
  | .shrW d a b => some (encA 0xCE#8 d a b 0#8 0#23)
  | .shrWImm d a imm => some (encI 0xE8#8 d a imm 0#7)
  | .shra d a b => some (encA 0x0F#8 d a b 0#8 0#23)
  | .shraImm d a imm => some (encI 0x29#8 d a imm 0#7)
  | .shraW d a b => some (encA 0xCF#8 d a b 0#8 0#23)
  | .shraWImm d a imm => some (encI 0xE9#8 d a imm 0#7)
  | .rotl d a b => some (encA 0x10#8 d a b 0#8 0#23)
  | .rotlImm d a imm => some (encI 0x2A#8 d a imm 0#7)
  | .rotlW d a b => some (encA 0xD0#8 d a b 0#8 0#23)
  | .rotlWImm d a imm => some (encI 0xEA#8 d a imm 0#7)
  | .shf d a b c right => some (encA 0x11#8 d a b c (0#20 ++ bit right ++ 0#2))
  | .shfW d a b c right => some (encA 0xD1#8 d a b c (0#20 ++ bit right ++ 0#2))
  | .bfx d a b nat => some (encA 0x12#8 d a b 0#8 (0#20 ++ bit nat ++ 0#2))
  | .bfxW d a b nat => some (encA 0xD2#8 d a b 0#8 (0#20 ++ bit nat ++ 0#2))
  | .bfi d a b c => some (encA 0x13#8 d a b c 0#23)
  | .bfiW d a b c => some (encA 0xD3#8 d a b c 0#23)
  | .clz d a => some (encA 0x14#8 d a 0#8 0#8 0#23)
  | .clzW d a => some (encA 0xD4#8 d a 0#8 0#8 0#23)
  | .popc d a => some (encA 0x15#8 d a 0#8 0#8 0#23)
  | .popcW d a => some (encA 0xD5#8 d a 0#8 0#8 0#23)
  | .brev d a => some (encA 0x16#8 d a 0#8 0#8 0#23)
  | .brevW d a => some (encA 0xD6#8 d a 0#8 0#8 0#23)
  | .prmt d a b c => some (encA 0x17#8 d a b c 0#23)
  | .prmtW d a b c => some (encA 0xD7#8 d a b c 0#23)
  | .icmp d a b cc => some (encA 0x18#8 d a b 0#8 (0#17 ++ cc.code ++ 0#2))
  | .icmpImm d a imm cc => some (encI 0x2B#8 d a imm (0#1 ++ cc.code ++ 0#2))
  | .icmpW d a b cc => some (encA 0xD8#8 d a b 0#8 (0#17 ++ cc.code ++ 0#2))
  | .icmpWImm d a imm cc => some (encI 0xEB#8 d a imm (0#1 ++ cc.code ++ 0#2))
  | .sel d a b c => some (encA 0x19#8 d a b c 0#23)
  | .selW d a b c => some (encA 0xD9#8 d a b c 0#23)
  | .lea d a b sh => some (encA 0x1A#8 d a b 0#8 (0#18 ++ sh ++ 0#2))
  | .leaW d a b sh nat => some (encA 0xDA#8 d a b 0#8 (0#17 ++ bit nat ++ sh ++ 0#2))
  | .movi d imm => some (encI 0x2C#8 d 0#8 imm 0#7)
  | .moviW d imm => some (encI 0xEC#8 d 0#8 imm 0#7)
  | .fadd d a b rm => some (encA 0x30#8 d a b 0#8 (0#21 ++ rm.code))
  | .faddImm d a imm rm => some (encI 0x50#8 d a imm (0#5 ++ rm.code))
  | .fsub d a b rm => some (encA 0x31#8 d a b 0#8 (0#21 ++ rm.code))
  | .fmul d a b rm => some (encA 0x32#8 d a b 0#8 (0#21 ++ rm.code))
  | .fmulImm d a imm rm => some (encI 0x51#8 d a imm (0#5 ++ rm.code))
  | .ffma d a b c rm => some (encA 0x33#8 d a b c (0#21 ++ rm.code))
  | .fmin d a b => some (encA 0x34#8 d a b 0#8 0#23)
  | .fminImm d a imm => some (encI 0x52#8 d a imm 0#7)
  | .fmax d a b => some (encA 0x35#8 d a b 0#8 0#23)
  | .fmaxImm d a imm => some (encI 0x53#8 d a imm 0#7)
  | .fcmp d a b cc => some (encA 0x36#8 d a b 0#8 (0#17 ++ cc.code ++ 0#2))
  | .fcmpImm d a imm cc => some (encI 0x54#8 d a imm (0#1 ++ cc.code ++ 0#2))
  | .fclass d a => some (encA 0x37#8 d a 0#8 0#8 0#23)
  | .frnd d a rm => some (encA 0x38#8 d a 0#8 0#8 (0#21 ++ rm.code))
  | .frcp d a rm => some (encA 0x39#8 d a 0#8 0#8 (0#21 ++ rm.code))
  | .frsq d a rm => some (encA 0x3A#8 d a 0#8 0#8 (0#21 ++ rm.code))
  | .fsqrt d a rm => some (encA 0x3B#8 d a 0#8 0#8 (0#21 ++ rm.code))
  | .fexp2 d a => some (encA 0x3C#8 d a 0#8 0#8 0#23)
  | .flog2 d a => some (encA 0x3D#8 d a 0#8 0#8 0#23)
  | .fsin d a => some (encA 0x3E#8 d a 0#8 0#8 0#23)
  | .fcos d a => some (encA 0x3F#8 d a 0#8 0#8 0#23)
  | .ftanh d a => some (encA 0x40#8 d a 0#8 0#8 0#23)
  | .hadd2 d a b rm => some (encA 0x41#8 d a b 0#8 (0#21 ++ rm.code))
  | .hadd2Imm d a imm rm => some (encI 0x55#8 d a imm (0#5 ++ rm.code))
  | .hmul2 d a b rm => some (encA 0x42#8 d a b 0#8 (0#21 ++ rm.code))
  | .hmul2Imm d a imm rm => some (encI 0x56#8 d a imm (0#5 ++ rm.code))
  | .hfma2 d a b c rm => some (encA 0x43#8 d a b c (0#21 ++ rm.code))
  | .qdot4 d a b c fa fb rm => some (encA 0x44#8 d a b c (0#19 ++ bit fb.toBool ++ bit fa.toBool ++ rm.code))
  | .idot4 d a b c na nb => some (encA 0x45#8 d a b c (0#19 ++ bit nb ++ bit na ++ 0#2))
  | .cvt d a df sf rm => some (encA 0x46#8 d a 0#8 0#8 (0#8 ++ df.code6 ++ sf.code6 ++ 0#1 ++ rm.code))
  | .cvtPk d a b df sf rm => some (encA 0x4C#8 d a b 0#8 (0#8 ++ df.code6 ++ sf.code6 ++ 0#1 ++ rm.code))
  | .pack2 d a b k rm => some (encA 0x47#8 d a b 0#8 (0#19 ++ k.code ++ rm.code))
  | .unpk2 d a k => some (encA 0x48#8 d a 0#8 0#8 (0#19 ++ k.code ++ 0#2))
  | .mov d a => some (encA 0x49#8 d a 0#8 0#8 0#23)
  | .sysr d sr => some (encA 0x4A#8 d 0#8 0#8 0#8 (0#17 ++ sr.code ++ 0#2))
  | .nop => some (encA 0x4B#8 0#8 0#8 0#8 0#8 0#23)
  | .next disp => some (encB 0x60#8 0#8 0#8 disp 0#3)
  | .br a disp z => some (encB 0x61#8 0#8 a disp (0#2 ++ bit z))
  | .brx a => some (encA 0x62#8 0#8 a 0#8 0#8 0#23)
  | .call d disp => some (encB 0x63#8 d 0#8 disp 0#3)
  | .callx d a => some (encA 0x64#8 d a 0#8 0#8 0#23)
  | .ret a => some (encA 0x65#8 0#8 a 0#8 0#8 0#23)
  | .exit => some (encA 0x66#8 0#8 0#8 0#8 0#8 0#23)
  | .refill d disp => some (encB 0x67#8 d 0#8 disp 0#3)
  | .yield disp => some (encB 0x68#8 0#8 0#8 disp 0#3)
  | .syscall a n disp => some (encB 0x69#8 n a disp 0#3)
  | .bkpt n disp => some (encB 0x6A#8 n 0#8 disp 0#3)
  | .rbegin d disp tx => some (encB 0x70#8 d 0#8 disp (0#2 ++ bit tx))
  | .commit a b replay => some (encA 0x71#8 0#8 a b 0#8 (0#20 ++ bit replay ++ 0#2))
  | .abort a => some (encA 0x72#8 0#8 a 0#8 0#8 0#23)
  | .ptest d a wide => some (encA 0x73#8 d a 0#8 0#8 (0#20 ++ bit wide ++ 0#2))
  | .ptok d a wide => some (encA 0x74#8 d a 0#8 0#8 (0#20 ++ bit wide ++ 0#2))
  | .pread d a => some (encA 0x75#8 d a 0#8 0#8 0#23)
  | .pmake d a tok => some (encA 0x76#8 d a 0#8 0#8 (0#20 ++ bit tok ++ 0#2))
  | .chkerr d keep => some (encA 0x77#8 d 0#8 0#8 0#8 (0#20 ++ bit keep ++ 0#2))
  | .gred d a c op rm => some (encA 0x80#8 d a 0#8 c (0#16 ++ op.code ++ rm.code))
  | .gscan d a c op excl rm => some (encA 0x81#8 d a 0#8 c (0#15 ++ bit excl ++ op.code ++ rm.code))
  | .gshf d a b mode => some (encA 0x82#8 d a b 0#8 (0#19 ++ mode.code ++ 0#2))
  | .gbcast d a b => some (encA 0x83#8 d a b 0#8 0#23)
  | .gredW d a c op rm => some (encA 0x8A#8 d a 0#8 c (0#16 ++ op.code ++ rm.code))
  | .gscanW d a c op excl rm => some (encA 0x8B#8 d a 0#8 c (0#15 ++ bit excl ++ op.code ++ rm.code))
  | .gshfW d a b mode => some (encA 0x8C#8 d a b 0#8 (0#19 ++ mode.code ++ 0#2))
  | .gbcastW d a b => some (encA 0x8D#8 d a b 0#8 0#23)
  | .gvote d a c mode => some (encA 0x84#8 d a 0#8 c (0#18 ++ mode.code ++ 0#2))
  | .regsize d a tryIt => some (encA 0x85#8 d a 0#8 0#8 (0#20 ++ bit tryIt ++ 0#2))
  | .barinit a b c => some (encA 0x86#8 0#8 a b c 0#23)
  | .arrive d a b mo => some (encA 0x87#8 d a b 0#8 (0#3 ++ mo.scopeCode ++ mo.ordCode ++ 0#15))
  | .waitph d a b mo => some (encA 0x88#8 d a b 0#8 (0#3 ++ mo.scopeCode ++ mo.ordCode ++ 0#15))
  | .testph d a b mo => some (encA 0x89#8 d a b 0#8 (0#3 ++ mo.scopeCode ++ mo.ordCode ++ 0#15))
  | .ld d a off sz cp sx mo => some (encM 0x90#8 d a 0#8 off mo.scopeCode mo.ordCode sz.code cp.code (0#3 ++ bit sx))
  | .ldRec d a b off sz cp two mo => some (encM 0x91#8 d a b off mo.scopeCode mo.ordCode sz.code cp.code (0#3 ++ bit two))
  | .st d a off sz cp mo => some (encM 0x92#8 d a 0#8 off mo.scopeCode mo.ordCode sz.code cp.code 0#4)
  | .stRec d a b off sz cp two mo => some (encM 0x93#8 d a b off mo.scopeCode mo.ordCode sz.code cp.code (0#3 ++ bit two))
  | .lds d a off sz sx mo => some (encM 0x94#8 d a 0#8 off mo.scopeCode mo.ordCode sz.code 0#3 (0#3 ++ bit sx))
  | .sts d a off sz mo => some (encM 0x95#8 d a 0#8 off mo.scopeCode mo.ordCode sz.code 0#3 0#4)
  | .ldrec d a off cp spad mo => some (encM 0x96#8 d a 0#8 off mo.scopeCode mo.ordCode 0#3 cp.code (0#3 ++ bit spad))
  | .atom d a b off sz cp op mo => some (encM 0x97#8 d a b off mo.scopeCode mo.ordCode sz.code cp.code op.code)
  | .atomRec d a b off sz cp op mo => some (encM 0x98#8 d a b off mo.scopeCode mo.ordCode sz.code cp.code op.code)
  | .atoms d a b off sz op mo => some (encM 0x99#8 d a b off mo.scopeCode mo.ordCode sz.code 0#3 op.code)
  | .pref a off cp => some (encM 0x9A#8 0#8 a 0#8 off 0#3 0#2 0#3 cp.code 0#4)
  | .prefRec a b off cp two => some (encM 0x9B#8 0#8 a b off 0#3 0#2 0#3 cp.code (0#3 ++ bit two))
  | .waitcnt ldc stc cpc mxc => some (encA 0x9C#8 ldc stc cpc mxc 0#23)
  | .mxgo d a tl => some (encA 0xA0#8 d a 0#8 0#8 (tl ++ 0#20))
  | .mxrd d a b tile => some (encA 0xA1#8 d a b 0#8 (0#19 ++ tile ++ 0#2))
  | .mxwr d a b tile => some (encA 0xA2#8 d a b 0#8 (0#19 ++ tile ++ 0#2))
  | .cpgo d a tl => some (encA 0xA3#8 d a 0#8 0#8 (tl ++ 0#20))
  | .arrivex a b c tl => some (encA 0xA4#8 0#8 a b c (tl ++ 0#20))
  | .tlread d tl iss => some (encA 0xA5#8 d 0#8 0#8 0#8 (tl ++ 0#17 ++ bit iss ++ 0#2))
  | .tlwait a tl => some (encA 0xA6#8 0#8 a 0#8 0#8 (tl ++ 0#20))
  | .cinv a b sc all => some (encA 0xA7#8 0#8 a b 0#8 (0#3 ++ sc.code ++ 0#14 ++ bit all ++ 0#2))
  | .icinv a b sc all => some (encA 0xA8#8 0#8 a b 0#8 (0#3 ++ sc.code ++ 0#14 ++ bit all ++ 0#2))
  | .freeze d a b c tl sc => some (encA 0xA9#8 d a b c (tl ++ sc.code ++ 0#17))
  | .thaw d a tl => some (encA 0xAA#8 d a 0#8 0#8 (tl ++ 0#20))
  | .fence d mo => some (encA 0xAB#8 d 0#8 0#8 0#8 (0#3 ++ mo.scopeCode ++ mo.ordCode ++ 0#15))
  | .fork d a disp reach => some (encB 0xAC#8 d a disp (0#1 ++ reach.code))
  | .join d a => some (encA 0xAD#8 d a 0#8 0#8 0#23)
  | .launch d a c tl => some (encA 0xAE#8 d a 0#8 c (tl ++ 0#20))
  | .xfer d a tl => some (encA 0xB0#8 d a 0#8 0#8 (tl ++ 0#20))
  | .swalloc d a b c => some (encA 0xB1#8 d a b c 0#23)
  | .swfree d a => some (encA 0xB2#8 d a 0#8 0#8 0#23)
  | i => i.halves?.map fun p => encPair (encHalf p.1) (encHalf p.2)

/-- The full words of opcodes 0x00 to 0x0F (R75), before their reserved bits are checked. -/
def fullWord0 (w : DWord) : Option Instr :=
  match (w.extractLsb' 55 4).toNat with
  | 0x1 => some (.iadd (fD w) (fA w) (fB w))
  | 0x2 => some (.isub (fD w) (fA w) (fB w))
  | 0x3 => some (.imul (fD w) (fA w) (fB w))
  | 0x4 => some (.imulhi (fD w) (fA w) (fB w) (fBit2 w))
  | 0x5 => some (.imad (fD w) (fA w) (fB w) (fC w))
  | 0x6 => some (.imin (fD w) (fA w) (fB w) (fBit2 w))
  | 0x7 => some (.imax (fD w) (fA w) (fB w) (fBit2 w))
  | 0x8 => some (.iabs (fD w) (fA w))
  | 0x9 => some (.and (fD w) (fA w) (fB w))
  | 0xA => some (.or (fD w) (fA w) (fB w))
  | 0xB => some (.xor (fD w) (fA w) (fB w))
  | 0xC => some (.andn (fD w) (fA w) (fB w))
  | 0xD => some (.shl (fD w) (fA w) (fB w))
  | 0xE => some (.shr (fD w) (fA w) (fB w))
  | 0xF => some (.shra (fD w) (fA w) (fB w))
  | _ => none

/-- The full words of opcodes 0x10 to 0x1F (R75), before their reserved bits are checked. -/
def fullWord1 (w : DWord) : Option Instr :=
  match (w.extractLsb' 55 4).toNat with
  | 0x0 => some (.rotl (fD w) (fA w) (fB w))
  | 0x1 => some (.shf (fD w) (fA w) (fB w) (fC w) (fBit2 w))
  | 0x2 => some (.bfx (fD w) (fA w) (fB w) (fBit2 w))
  | 0x3 => some (.bfi (fD w) (fA w) (fB w) (fC w))
  | 0x4 => some (.clz (fD w) (fA w))
  | 0x5 => some (.popc (fD w) (fA w))
  | 0x6 => some (.brev (fD w) (fA w))
  | 0x7 => some (.prmt (fD w) (fA w) (fB w) (fC w))
  | 0x8 => some (.icmp (fD w) (fA w) (fB w) (ICond.ofCode (fCC w)))
  | 0x9 => some (.sel (fD w) (fA w) (fB w) (fC w))
  | 0xA => some (.lea (fD w) (fA w) (fB w) (fSh w))
  | _ => none

/-- The full words of opcodes 0x20 to 0x2F (R75), before their reserved bits are checked. -/
def fullWord2 (w : DWord) : Option Instr :=
  match (w.extractLsb' 55 4).toNat with
  | 0x0 => some (.iaddImm (fD w) (fA w) (fImm w))
  | 0x1 => some (.imulImm (fD w) (fA w) (fImm w))
  | 0x2 => some (.iminImm (fD w) (fA w) (fImm w) (fBit2 w))
  | 0x3 => some (.imaxImm (fD w) (fA w) (fImm w) (fBit2 w))
  | 0x4 => some (.andImm (fD w) (fA w) (fImm w))
  | 0x5 => some (.orImm (fD w) (fA w) (fImm w))
  | 0x6 => some (.xorImm (fD w) (fA w) (fImm w))
  | 0x7 => some (.shlImm (fD w) (fA w) (fImm w))
  | 0x8 => some (.shrImm (fD w) (fA w) (fImm w))
  | 0x9 => some (.shraImm (fD w) (fA w) (fImm w))
  | 0xA => some (.rotlImm (fD w) (fA w) (fImm w))
  | 0xB => some (.icmpImm (fD w) (fA w) (fImm w) (ICond.ofCode (fCC w)))
  | 0xC => some (.movi (fD w) (fImm w))
  | _ => none

/-- The full words of opcodes 0x30 to 0x3F (R75), before their reserved bits are checked. -/
def fullWord3 (w : DWord) : Option Instr :=
  match (w.extractLsb' 55 4).toNat with
  | 0x0 => some (.fadd (fD w) (fA w) (fB w) (Rnd.ofCode (fRnd w)))
  | 0x1 => some (.fsub (fD w) (fA w) (fB w) (Rnd.ofCode (fRnd w)))
  | 0x2 => some (.fmul (fD w) (fA w) (fB w) (Rnd.ofCode (fRnd w)))
  | 0x3 => some (.ffma (fD w) (fA w) (fB w) (fC w) (Rnd.ofCode (fRnd w)))
  | 0x4 => some (.fmin (fD w) (fA w) (fB w))
  | 0x5 => some (.fmax (fD w) (fA w) (fB w))
  | 0x6 => some (.fcmp (fD w) (fA w) (fB w) (FCond.ofCode (fCC w)))
  | 0x7 => some (.fclass (fD w) (fA w))
  | 0x8 => some (.frnd (fD w) (fA w) (Rnd.ofCode (fRnd w)))
  | 0x9 => some (.frcp (fD w) (fA w) (Rnd.ofCode (fRnd w)))
  | 0xA => some (.frsq (fD w) (fA w) (Rnd.ofCode (fRnd w)))
  | 0xB => some (.fsqrt (fD w) (fA w) (Rnd.ofCode (fRnd w)))
  | 0xC => some (.fexp2 (fD w) (fA w))
  | 0xD => some (.flog2 (fD w) (fA w))
  | 0xE => some (.fsin (fD w) (fA w))
  | 0xF => some (.fcos (fD w) (fA w))
  | _ => none

/-- The full words of opcodes 0x40 to 0x4F (R75), before their reserved bits are checked. -/
def fullWord4 (w : DWord) : Option Instr :=
  match (w.extractLsb' 55 4).toNat with
  | 0x0 => some (.ftanh (fD w) (fA w))
  | 0x1 => some (.hadd2 (fD w) (fA w) (fB w) (Rnd.ofCode (fRnd w)))
  | 0x2 => some (.hmul2 (fD w) (fA w) (fB w) (Rnd.ofCode (fRnd w)))
  | 0x3 => some (.hfma2 (fD w) (fA w) (fB w) (fC w) (Rnd.ofCode (fRnd w)))
  | 0x4 => some (.qdot4 (fD w) (fA w) (fB w) (fC w) (QFmt.ofBool (fBit2 w)) (QFmt.ofBool (fBit3 w)) (Rnd.ofCode (fRnd w)))
  | 0x5 => some (.idot4 (fD w) (fA w) (fB w) (fC w) (fBit2 w) (fBit3 w))
  | 0x6 => some (.cvt (fD w) (fA w) (Fmt.ofCode6 (fDFmt w)) (Fmt.ofCode6 (fSFmt w)) (Rnd.ofCode (fRnd w)))
  | 0xC => some (.cvtPk (fD w) (fA w) (fB w) (Fmt.ofCode6 (fDFmt w)) (Fmt.ofCode6 (fSFmt w)) (Rnd.ofCode (fRnd w)))
  | 0x7 => some (.pack2 (fD w) (fA w) (fB w) (Pk2.ofCode (fX32 w)) (Rnd.ofCode (fRnd w)))
  | 0x8 => some (.unpk2 (fD w) (fA w) (Pk2.ofCode (fX32 w)))
  | 0x9 => some (.mov (fD w) (fA w))
  | 0xA => some (.sysr (fD w) (SReg.ofCode (fCC w)))
  | 0xB => some .nop
  | _ => none

/-- The full words of opcodes 0x50 to 0x5F (R75), before their reserved bits are checked. -/
def fullWord5 (w : DWord) : Option Instr :=
  match (w.extractLsb' 55 4).toNat with
  | 0x0 => some (.faddImm (fD w) (fA w) (fImm w) (Rnd.ofCode (fRnd w)))
  | 0x1 => some (.fmulImm (fD w) (fA w) (fImm w) (Rnd.ofCode (fRnd w)))
  | 0x2 => some (.fminImm (fD w) (fA w) (fImm w))
  | 0x3 => some (.fmaxImm (fD w) (fA w) (fImm w))
  | 0x4 => some (.fcmpImm (fD w) (fA w) (fImm w) (FCond.ofCode (fCC w)))
  | 0x5 => some (.hadd2Imm (fD w) (fA w) (fImm w) (Rnd.ofCode (fRnd w)))
  | 0x6 => some (.hmul2Imm (fD w) (fA w) (fImm w) (Rnd.ofCode (fRnd w)))
  | _ => none

/-- The full words of opcodes 0x60 to 0x6F (R75), before their reserved bits are checked. -/
def fullWord6 (w : DWord) : Option Instr :=
  match (w.extractLsb' 55 4).toNat with
  | 0x0 => some (.next (fDisp w))
  | 0x1 => some (.br (fA w) (fDisp w) (fXB0 w))
  | 0x2 => some (.brx (fA w))
  | 0x3 => some (.call (fD w) (fDisp w))
  | 0x4 => some (.callx (fD w) (fA w))
  | 0x5 => some (.ret (fA w))
  | 0x6 => some .exit
  | 0x7 => some (.refill (fD w) (fDisp w))
  | 0x8 => some (.yield (fDisp w))
  | 0x9 => some (.syscall (fA w) (fD w) (fDisp w))
  | 0xA => some (.bkpt (fD w) (fDisp w))
  | _ => none

/-- The full words of opcodes 0x70 to 0x7F (R75), before their reserved bits are checked. -/
def fullWord7 (w : DWord) : Option Instr :=
  match (w.extractLsb' 55 4).toNat with
  | 0x0 => some (.rbegin (fD w) (fDisp w) (fXB0 w))
  | 0x1 => some (.commit (fA w) (fB w) (fBit2 w))
  | 0x2 => some (.abort (fA w))
  | 0x3 => some (.ptest (fD w) (fA w) (fBit2 w))
  | 0x4 => some (.ptok (fD w) (fA w) (fBit2 w))
  | 0x5 => some (.pread (fD w) (fA w))
  | 0x6 => some (.pmake (fD w) (fA w) (fBit2 w))
  | 0x7 => some (.chkerr (fD w) (fBit2 w))
  | _ => none

/-- The full words of opcodes 0x80 to 0x8F (R75), before their reserved bits are checked. -/
def fullWord8 (w : DWord) : Option Instr :=
  match (w.extractLsb' 55 4).toNat with
  | 0x0 => some (.gred (fD w) (fA w) (fC w) (RedOp.ofCode (fOpk w)) (Rnd.ofCode (fRnd w)))
  | 0x1 => some (.gscan (fD w) (fA w) (fC w) (RedOp.ofCode (fOpk w)) (fBit7 w) (Rnd.ofCode (fRnd w)))
  | 0x2 => some (.gshf (fD w) (fA w) (fB w) (ShfMode.ofCode (fX32 w)))
  | 0x3 => some (.gbcast (fD w) (fA w) (fB w))
  | 0xA => some (.gredW (fD w) (fA w) (fC w) (RedOp.ofCode (fOpk w)) (Rnd.ofCode (fRnd w)))
  | 0xB => some (.gscanW (fD w) (fA w) (fC w) (RedOp.ofCode (fOpk w)) (fBit7 w) (Rnd.ofCode (fRnd w)))
  | 0xC => some (.gshfW (fD w) (fA w) (fB w) (ShfMode.ofCode (fX32 w)))
  | 0xD => some (.gbcastW (fD w) (fA w) (fB w))
  | 0x4 => some (.gvote (fD w) (fA w) (fC w) (VoteMode.ofCode (fSh w)))
  | 0x5 => some (.regsize (fD w) (fA w) (fBit2 w))
  | 0x6 => some (.barinit (fA w) (fB w) (fC w))
  | 0x7 => some (.arrive (fD w) (fA w) (fB w) (MemOrder.ofCodes (fOrd w) (fScope w)))
  | 0x8 => some (.waitph (fD w) (fA w) (fB w) (MemOrder.ofCodes (fOrd w) (fScope w)))
  | 0x9 => some (.testph (fD w) (fA w) (fB w) (MemOrder.ofCodes (fOrd w) (fScope w)))
  | _ => none

/-- The full words of opcodes 0x90 to 0x9F (R75), before their reserved bits are checked. -/
def fullWord9 (w : DWord) : Option Instr :=
  match (w.extractLsb' 55 4).toNat with
  | 0x0 => some (.ld (fD w) (fA w) (fOff w) (Size.ofCode (fSize w)) (CPol.ofCode (fCPol w)) (fXB0 w) (MemOrder.ofCodes (fMOrd w) (fMScope w)))
  | 0x1 => some (.ldRec (fD w) (fA w) (fB w) (fOff w) (Size.ofCode (fSize w)) (CPol.ofCode (fCPol w)) (fXB0 w) (MemOrder.ofCodes (fMOrd w) (fMScope w)))
  | 0x2 => some (.st (fD w) (fA w) (fOff w) (Size.ofCode (fSize w)) (CPol.ofCode (fCPol w)) (MemOrder.ofCodes (fMOrd w) (fMScope w)))
  | 0x3 => some (.stRec (fD w) (fA w) (fB w) (fOff w) (Size.ofCode (fSize w)) (CPol.ofCode (fCPol w)) (fXB0 w) (MemOrder.ofCodes (fMOrd w) (fMScope w)))
  | 0x4 => some (.lds (fD w) (fA w) (fOff w) (Size.ofCode (fSize w)) (fXB0 w) (MemOrder.ofCodes (fMOrd w) (fMScope w)))
  | 0x5 => some (.sts (fD w) (fA w) (fOff w) (Size.ofCode (fSize w)) (MemOrder.ofCodes (fMOrd w) (fMScope w)))
  | 0x6 => some (.ldrec (fD w) (fA w) (fOff w) (CPol.ofCode (fCPol w)) (fXB0 w) (MemOrder.ofCodes (fMOrd w) (fMScope w)))
  | 0x7 => some (.atom (fD w) (fA w) (fB w) (fOff w) (Size.ofCode (fSize w)) (CPol.ofCode (fCPol w)) (AtomOp.ofCode (fX4 w)) (MemOrder.ofCodes (fMOrd w) (fMScope w)))
  | 0x8 => some (.atomRec (fD w) (fA w) (fB w) (fOff w) (Size.ofCode (fSize w)) (CPol.ofCode (fCPol w)) (AtomOp.ofCode (fX4 w)) (MemOrder.ofCodes (fMOrd w) (fMScope w)))
  | 0x9 => some (.atoms (fD w) (fA w) (fB w) (fOff w) (Size.ofCode (fSize w)) (AtomOp.ofCode (fX4 w)) (MemOrder.ofCodes (fMOrd w) (fMScope w)))
  | 0xA => some (.pref (fA w) (fOff w) (CPol.ofCode (fCPol w)))
  | 0xB => some (.prefRec (fA w) (fB w) (fOff w) (CPol.ofCode (fCPol w)) (fXB0 w))
  | 0xC => some (.waitcnt (fD w) (fA w) (fB w) (fC w))
  | _ => none

/-- The full words of opcodes 0xA0 to 0xAF (R75), before their reserved bits are checked. -/
def fullWordA (w : DWord) : Option Instr :=
  match (w.extractLsb' 55 4).toNat with
  | 0x0 => some (.mxgo (fD w) (fA w) (fTL w))
  | 0x1 => some (.mxrd (fD w) (fA w) (fB w) (fX32 w))
  | 0x2 => some (.mxwr (fD w) (fA w) (fB w) (fX32 w))
  | 0x3 => some (.cpgo (fD w) (fA w) (fTL w))
  | 0x4 => some (.arrivex (fA w) (fB w) (fC w) (fTL w))
  | 0x5 => some (.tlread (fD w) (fTL w) (fBit2 w))
  | 0x6 => some (.tlwait (fA w) (fTL w))
  | 0x7 => some (.cinv (fA w) (fB w) (Scope.ofCode (fScope w)) (fBit2 w))
  | 0x8 => some (.icinv (fA w) (fB w) (Scope.ofCode (fScope w)) (fBit2 w))
  | 0x9 => some (.freeze (fD w) (fA w) (fB w) (fC w) (fTL w) (Scope.ofCode (fScope w)))
  | 0xA => some (.thaw (fD w) (fA w) (fTL w))
  | 0xB => some (.fence (fD w) (MemOrder.ofCodes (fOrd w) (fScope w)))
  | 0xC => some (.fork (fD w) (fA w) (fDisp w) (Reach.ofCode (fXB2 w)))
  | 0xD => some (.join (fD w) (fA w))
  | 0xE => some (.launch (fD w) (fA w) (fC w) (fTL w))
  | _ => none

/-- The full words of opcodes 0xB0 to 0xBF (R75), before their reserved bits are checked. -/
def fullWordB (w : DWord) : Option Instr :=
  match (w.extractLsb' 55 4).toNat with
  | 0x0 => some (.xfer (fD w) (fA w) (fTL w))
  | 0x1 => some (.swalloc (fD w) (fA w) (fB w) (fC w))
  | 0x2 => some (.swfree (fD w) (fA w))
  | _ => none

/-- The full words of opcodes 0xC0 to 0xCF (R75), before their reserved bits are checked. -/
def fullWordC (w : DWord) : Option Instr :=
  match (w.extractLsb' 55 4).toNat with
  | 0x1 => some (.iaddW (fD w) (fA w) (fB w))
  | 0x2 => some (.isubW (fD w) (fA w) (fB w))
  | 0x3 => some (.imulW (fD w) (fA w) (fB w))
  | 0x4 => some (.imulhiW (fD w) (fA w) (fB w) (fBit2 w))
  | 0x5 => some (.imadW (fD w) (fA w) (fB w) (fC w))
  | 0x6 => some (.iminW (fD w) (fA w) (fB w) (fBit2 w))
  | 0x7 => some (.imaxW (fD w) (fA w) (fB w) (fBit2 w))
  | 0x8 => some (.iabsW (fD w) (fA w))
  | 0x9 => some (.andW (fD w) (fA w) (fB w))
  | 0xA => some (.orW (fD w) (fA w) (fB w))
  | 0xB => some (.xorW (fD w) (fA w) (fB w))
  | 0xC => some (.andnW (fD w) (fA w) (fB w))
  | 0xD => some (.shlW (fD w) (fA w) (fB w))
  | 0xE => some (.shrW (fD w) (fA w) (fB w))
  | 0xF => some (.shraW (fD w) (fA w) (fB w))
  | _ => none

/-- The full words of opcodes 0xD0 to 0xDF (R75), before their reserved bits are checked. -/
def fullWordD (w : DWord) : Option Instr :=
  match (w.extractLsb' 55 4).toNat with
  | 0x0 => some (.rotlW (fD w) (fA w) (fB w))
  | 0x1 => some (.shfW (fD w) (fA w) (fB w) (fC w) (fBit2 w))
  | 0x2 => some (.bfxW (fD w) (fA w) (fB w) (fBit2 w))
  | 0x3 => some (.bfiW (fD w) (fA w) (fB w) (fC w))
  | 0x4 => some (.clzW (fD w) (fA w))
  | 0x5 => some (.popcW (fD w) (fA w))
  | 0x6 => some (.brevW (fD w) (fA w))
  | 0x7 => some (.prmtW (fD w) (fA w) (fB w) (fC w))
  | 0x8 => some (.icmpW (fD w) (fA w) (fB w) (ICond.ofCode (fCC w)))
  | 0x9 => some (.selW (fD w) (fA w) (fB w) (fC w))
  | 0xA => some (.leaW (fD w) (fA w) (fB w) (fSh w) (fBit5 w))
  | _ => none

/-- The full words of opcodes 0xE0 to 0xEF (R75), before their reserved bits are checked. -/
def fullWordE (w : DWord) : Option Instr :=
  match (w.extractLsb' 55 4).toNat with
  | 0x0 => some (.iaddWImm (fD w) (fA w) (fImm w))
  | 0x1 => some (.imulWImm (fD w) (fA w) (fImm w))
  | 0x2 => some (.iminWImm (fD w) (fA w) (fImm w) (fBit2 w))
  | 0x3 => some (.imaxWImm (fD w) (fA w) (fImm w) (fBit2 w))
  | 0x4 => some (.andWImm (fD w) (fA w) (fImm w))
  | 0x5 => some (.orWImm (fD w) (fA w) (fImm w))
  | 0x6 => some (.xorWImm (fD w) (fA w) (fImm w))
  | 0x7 => some (.shlWImm (fD w) (fA w) (fImm w))
  | 0x8 => some (.shrWImm (fD w) (fA w) (fImm w))
  | 0x9 => some (.shraWImm (fD w) (fA w) (fImm w))
  | 0xA => some (.rotlWImm (fD w) (fA w) (fImm w))
  | 0xB => some (.icmpWImm (fD w) (fA w) (fImm w) (ICond.ofCode (fCC w)))
  | 0xC => some (.moviW (fD w) (fImm w))
  | _ => none

/-- The instruction that a word's opcode and fields name, before its reserved bits are checked (R63, R64, R75, R78). -/
def candidate (w : DWord) : Option Instr :=
  if w.getLsbD 63 then
    match halfOf (w.extractLsb' 32 31), halfOf (w.extractLsb' 0 31) with
    | some x, some y => some (pairInstr x y)
    | _, _ => none
  else
    match (w.extractLsb' 59 4).toNat with
    | 0x0 => fullWord0 w
    | 0x1 => fullWord1 w
    | 0x2 => fullWord2 w
    | 0x3 => fullWord3 w
    | 0x4 => fullWord4 w
    | 0x5 => fullWord5 w
    | 0x6 => fullWord6 w
    | 0x7 => fullWord7 w
    | 0x8 => fullWord8 w
    | 0x9 => fullWord9 w
    | 0xA => fullWordA w
    | 0xB => fullWordB w
    | 0xC => fullWordC w
    | 0xD => fullWordD w
    | 0xE => fullWordE w
    | _ => none

/-- Why a word is no instruction (R79). -/
inductive DecodeError
  /-- The opcode or a pair opcode is unassigned. -/
  | unassigned
  /-- A reserved field, bit or code is set, or bit 31 of a pair word. -/
  | malformed
  /-- A register field or modifier combination that the entry forbids. -/
  | operand
  /-- Fewer than eight bytes. -/
  | short
  deriving DecidableEq, Repr

/-- The instruction that a word is, or why it is none (R66, R72, R79): the word must be exactly the encoding of the instruction
that its opcode and fields name, and that instruction must obey the rules of its entry. -/
def decode (w : DWord) : Except DecodeError Instr :=
  match candidate w with
  | none => .error .unassigned
  | some i =>
    if encode i ≠ some w then .error .malformed
    else if i.wf then .ok i else .error .operand

/-- A 64-bit word from its eight bytes, little-endian (R63). -/
def wordOfBytes (b0 b1 b2 b3 b4 b5 b6 b7 : Byte) : DWord := b7 ++ b6 ++ b5 ++ b4 ++ b3 ++ b2 ++ b1 ++ b0

/-- The bytes of a word, lowest address first (R6, R63). -/
def bytesOfWord (w : DWord) : List Byte :=
  [w.extractLsb' 0 8, w.extractLsb' 8 8, w.extractLsb' 16 8, w.extractLsb' 24 8,
   w.extractLsb' 32 8, w.extractLsb' 40 8, w.extractLsb' 48 8, w.extractLsb' 56 8]

/-- Decodes the instruction at the head of a list of bytes and gives the bytes that follow it. -/
def decodeBytes : List Byte → Except DecodeError (Instr × List Byte)
  | b0 :: b1 :: b2 :: b3 :: b4 :: b5 :: b6 :: b7 :: rest =>
    match decode (wordOfBytes b0 b1 b2 b3 b4 b5 b6 b7) with
    | .ok i => .ok (i, rest)
    | .error e => .error e
  | _ => .error .short

/-- What the decoder reads from an instruction whose bits are `w`; every KZ instruction is one 64-bit word (R63). -/
def decodeTableWord (_nbits w : Nat) : Option Instr :=
  match decodeBytes (bytesOfWord (BitVec.ofNat 64 w)) with
  | .ok (i, _) => some i
  | .error _ => none

end Sys2Proof
end

