-- ==== Sys2Proof/Machine/Fetch.lean ====
section
/-! DEFINITION. The fetch of an instruction word (R25, R80, R139 to R141), and TLB_WALK (R279, R359). -/

namespace Sys2Proof.Machine

/-- The switch whose banks a fetch reads, and the address there, where the partition's tenant holds it (R404, R406). -/
def fetchSwitch (s : State) (l : Loc) : Option (Switch × Nat) :=
  match l, locHome s l with
  | .phys _ _ _ part, .switch plane sw off =>
    let ftid := (partAt s part).pftid
    match routeSwitch s plane sw ftid off 8 with
    | some k =>
      if ftid ≠ 0 && (allocOf (switchAt s k) (namedBy (swKey plane sw) k) ftid off 8).isSome then some (switchAt s k, off) else none
    | none => none
  | _, _ => none

/-- The cause of an error that a fetch from memory meets: the poison of the word's sector, of switch memory too, or of a copy in the cluster cache
that an error has struck (R80, R150, R379, R403; log 96). -/
def fetchPoison (s : State) (core : Nat) (l : Loc) : Option Cause :=
  match fetchSwitch s l with
  | some (x, a) => poisonIn x.poison a 8
  | none =>
    match poisonAt s l 8 with
    | some c => some c
    | none => ((look (clusterAt s (cluOf core)) (locAddr l / 64)).filter (·.struck)).bind (·.poison)

/-- The word of memory at a location; another device's memory holds what it holds, which is free, and so does switch memory that does not answer
(log 15). -/
def memWord (s : State) (l : Loc) : DWord × State :=
  let r := match fetchSwitch s l with
    | some (x, a) => (memGetN x.mem a 8, s)
    | none => if isRemote (locHome s l) then drawBytes s 8 else readLoc s l 8
  (BitVec.ofNat 64 (leNat r.1), r.2)

/-- A word put into a core's instruction cache of 128 KiB; which word a full one gives up is free (R3; log 107). -/
def icPut (s : State) (core pa : Nat) (w : DWord) : State :=
  let m := (coreAt s core).icache
  if (look m pa).isSome || decide (m.length < 16384) then modCore s core fun c => { c with icache := put c.icache pa w }
  else
    let d := drawNat s m.length
    modCore d.2 core fun c => { c with icache := put (c.icache.eraseIdx d.1) pa w }

/-- A word of the span that a port issues put into the port's loop buffer, which holds 32 of them. -/
def loopPut (m : NMap DWord) (pa : Nat) (w : DWord) : NMap DWord := if (look m pa).isSome || decide (m.length < 32) then put m pa w else m

/-- A word fetched from memory, or the cause of the error that the fetch meets (R80). -/
def memFetch (s : State) (core : Nat) (l : Loc) : Except Cause DWord × State :=
  match fetchPoison s core l with
  | some c => (.error c, s)
  | none =>
    let m := memWord s l
    (.ok m.1, m.2)

/-- The word that a core issues from a physical address: memory's, or a copy that the instruction cache or the port's loop buffer still holds, or one
that an ICINV dropped while the group's span was running; which one is free where they differ, and a held word may issue though the sector in
memory has become poisoned since (R139 to R141; log 131). The core then holds the word, but not one that was dropped: the next span entry fetches
again (R141). The loop buffer is emptied when a port enters another span. -/
def coreWord (s : State) (core port : Nat) (first : Bool) (old : NMap DWord) (l : Loc) : Except Cause DWord × State :=
  let pa := locAddr l
  let m := memFetch s core l
  let c := coreAt m.2 core
  let loop := lookD c.loops port []
  let loop := if first && (look loop pa).isNone then [] else loop
  let fresh (w : DWord) : Bool := match m.1 with
    | .ok x => w ≠ x
    | .error _ => true
  let held := ([look c.icache pa, look loop pa].filterMap id).filter fresh
  let dropped := if first then [] else ([look old pa].filterMap id).filter fresh
  let keep (w : DWord) (s : State) : Except Cause DWord × State :=
    (.ok w, modCore (icPut s core pa w) core fun c => { c with loops := put c.loops port (loopPut loop pa w) })
  let fetched (s : State) : Except Cause DWord × State := match m.1 with
    | .ok w => keep w s
    | .error e => (.error e, s)
  match held ++ dropped with
  | [] => fetched m.2
  | ws =>
    let d := drawNat m.2 (ws.length + 1)
    match ws[d.1]? with
    | some w => if d.1 < held.length then keep w d.2 else (.ok w, d.2)
    | none => fetched d.2

/-- The fetch of a group's next word: translation with fetch permission, and the word, or the cause of an error that it meets in the instruction
cache or below (R80). A word still held clean in the instruction cache or the loop buffer may issue though its sector in memory has become poisoned
since: the spec leaves open whether R80 or the held word counts (DESIGN CHOICE, log 131). An address that is misaligned or not canonical, which only a recovery target can give, is no valid successor (R125, R174). -/
def fetchAt (s : State) (core part port : Nat) (first : Bool) (old : NMap DWord) (va : DWord) : Except XFault DWord × State :=
  if va.toNat % 8 ≠ 0 then (.error ⟨.invalid, false⟩, s)
  else if !canonical va then (.error ⟨.noncanon, false⟩, s)
  else
    let r := translate s core part va.toNat .fetch 0
    match r.1 with
    | .error f => (.error f, r.2)
    | .ok l =>
      if (coreAt r.2 core).icPoison.contains (locAddr l / 64) then (.error ⟨.ecc, false⟩, r.2)
      else match coreWord r.2 core port first old l with
        | (.ok w, t) => (.ok w, t)
        | (.error c, t) => (.error ⟨c, false⟩, t)

/-- The next word of a group: that of its first member, as all stand at one address (R184). -/
def fetchGroup (s : State) (G : Group) : Except XFault DWord × State :=
  match G.members with
  | [] => (.error ⟨.invalid, false⟩, s)
  | t :: _ =>
    match thOf s t, wgAt s (wgOf t) with
    | some th, some w => fetchAt s G.core w.part G.port (th.off = 0) G.old (wordAddr th)
    | _, _ => (.error ⟨.invalid, false⟩, s)

/-- ILLEGAL_WORD: a word that is no instruction executes as ABORT with cause ILLEGAL (R79). -/
def execIllegalWord (s : State) : Host.Outcome State Fault Refusal :=
  runWord .illegalWord (fun issue ts s => ts.foldl (abortWord .illegal false issue) s) s

/-- FETCH_FAULT: a word that cannot be fetched executes as ABORT with the failure's cause (R80). -/
def execFetchFault (cause : Cause) (window : Bool) (s : State) : Host.Outcome State Fault Refusal :=
  runWord (.fetchFault cause window) (fun issue ts s => ts.foldl (abortWord cause window issue) s) s

/-! ## TLB_WALK (R279, R359) -/

/-- The address that a word's own access forms for a thread, and its kind (R210 to R213, R225). -/
def wordAccess (i : Instr) (th : Thread) : Option (DWord × AccKind) :=
  let flat (a : Reg) (off : BitVec 16) (acc : AccKind) : Option (DWord × AccKind) :=
    let v := flatVa th a.toNat off
    if v.tok.isSome then none else some (v.data, acc)
  let rec' (a b : Reg) (two : Bool) (off : BitVec 16) (kind : RecAcc) (fits : Fmt → Bool) (acc : AccKind) : Option (DWord × AccKind) :=
    match recForm th a.toNat b.toNat two off kind fits with
    | .ok (.at va _ _) => some (va, acc)
    | _ => none
  match i with
  | .ld _ a off .. | .pref a off _ => flat a off .read
  | .st _ a off .. => flat a off .write
  | .atom _ a _ off .. => flat a off .atomic
  | .ldrec _ a off _ spad _ => if spad then none else flat a off .read
  | .ldRec _ a b off sz _ two _ => rec' a b two off .load (fun f => sizeOk f sz) .read
  | .stRec _ a b off sz _ two _ => rec' a b two off .store (fun f => sizeOk f sz) .write
  | .atomRec _ a b off sz _ op _ => rec' a b false off .atomic (fun f => atomFmtOk f sz op) .atomic
  | .prefRec a b off _ two => rec' a b two off .pref (fun _ => true) .read
  | _ => none

/-- Whether a group's next word makes an access at an address for a thread of a partition: the fetch of the word, or the word's own access. -/
def groupAccess (s : State) (G : Group) (part : Nat) (va : DWord) (acc : AccKind) : Bool :=
  G.members.any fun t =>
    match thOf s t, wgAt s (wgOf t) with
    | some th, some w =>
      decide (w.part = part) && ((acc = .fetch && wordAddr th = va) || match (fetchGroup s G).1 with
        | .ok x => match decode x with
          | .ok i => wordAccess i th = some (va, acc)
          | .error _ => false
        | .error _ => false)
    | _, _ => false

/-- TLB_WALK: an access of a thread in flight that misses in its core's TLB and then in its cluster's starts a walk, whose entry both TLBs keep
(R279, R359). -/
def execTlbWalk (core part : Nat) (va : DWord) (acc : AccKind) (s : State) : Host.Outcome State Fault Refusal :=
  let hit := tlbHit part (partAt s part).asid va.toNat
  .next (if core < 256 && canonical va && s.groups.any (fun p => p.2.core = core && groupAccess s p.2 part va acc)
      && !((coreAt s core).tlb.any hit) && !((lookD s.clusterTlb (cluOf core) []).any hit)
    then (walkInstall s core part va.toNat acc).2 else s)

end Sys2Proof.Machine
end

