-- ==== Sys2Proof/Machine/FloatAlu.lean ====
section
/-! DEFINITION. Floating point, packed arithmetic and conversion (R108 to R119). -/

namespace Sys2Proof.Machine


/-! ## fp32 arithmetic and functions (R108 to R112) -/

/-- fp32 sum, rounded once (R108). -/
def execFadd (d a b : Reg) (rm : Rnd) (s : State) : Host.Outcome State Fault Refusal :=
  aluWord (.fadd d a b rm) (on32 fun x y _ => fadd rm x y) s

/-- fp32 sum, rounded once (R108), immediate. -/
def execFaddImm (d a : Reg) (imm : Word) (rm : Rnd) (s : State) : Host.Outcome State Fault Refusal :=
  aluWord (.faddImm d a imm rm) (on32 fun x _ _ => fadd rm x imm) s

/-- fp32 difference, rounded once (R108). -/
def execFsub (d a b : Reg) (rm : Rnd) (s : State) : Host.Outcome State Fault Refusal :=
  aluWord (.fsub d a b rm) (on32 fun x y _ => fsub rm x y) s

/-- fp32 product, rounded once (R108). -/
def execFmul (d a b : Reg) (rm : Rnd) (s : State) : Host.Outcome State Fault Refusal :=
  aluWord (.fmul d a b rm) (on32 fun x y _ => fmul rm x y) s

/-- fp32 product, rounded once (R108), immediate. -/
def execFmulImm (d a : Reg) (imm : Word) (rm : Rnd) (s : State) : Host.Outcome State Fault Refusal :=
  aluWord (.fmulImm d a imm rm) (on32 fun x _ _ => fmul rm x imm) s

/-- fp32 A × B + C, rounded once (R108). -/
def execFfma (d a b c : Reg) (rm : Rnd) (s : State) : Host.Outcome State Fault Refusal :=
  aluWord (.ffma d a b c rm) (on32 fun x y z => ffma rm x y z) s

/-- minimumNumber (R48, R108). -/
def execFmin (d a b : Reg) (s : State) : Host.Outcome State Fault Refusal :=
  aluWord (.fmin d a b) (on32 fun x y _ => fmin x y) s

/-- minimumNumber (R48, R108), immediate. -/
def execFminImm (d a : Reg) (imm : Word) (s : State) : Host.Outcome State Fault Refusal :=
  aluWord (.fminImm d a imm) (on32 fun x _ _ => fmin x imm) s

/-- maximumNumber (R48, R108). -/
def execFmax (d a b : Reg) (s : State) : Host.Outcome State Fault Refusal :=
  aluWord (.fmax d a b) (on32 fun x y _ => fmax x y) s

/-- maximumNumber (R48, R108), immediate. -/
def execFmaxImm (d a : Reg) (imm : Word) (s : State) : Host.Outcome State Fault Refusal :=
  aluWord (.fmaxImm d a imm) (on32 fun x _ _ => fmax x imm) s

/-- fp32 compare (R109). -/
def execFcmp (d a b : Reg) (cc : FCond) (s : State) : Host.Outcome State Fault Refusal :=
  aluWord (.fcmp d a b cc) (fun x y _ => predBit (fcond cc (lo x) (lo y))) s

/-- fp32 compare (R109), immediate. -/
def execFcmpImm (d a : Reg) (imm : Word) (cc : FCond) (s : State) : Host.Outcome State Fault Refusal :=
  aluWord (.fcmpImm d a imm cc) (fun x _ _ => predBit (fcond cc (lo x) imm)) s

/-- Class mask (R110). -/
def execFclass (d a : Reg) (s : State) : Host.Outcome State Fault Refusal :=
  aluWord (.fclass d a) (on32 fun x _ _ => fclass x) s

/-- Round to integral (R111). -/
def execFrnd (d a : Reg) (rm : Rnd) (s : State) : Host.Outcome State Fault Refusal :=
  aluWord (.frnd d a rm) (on32 fun x _ _ => frnd rm x) s

/-- Reciprocal (R49, R112). -/
def execFrcp (d a : Reg) (rm : Rnd) (s : State) : Host.Outcome State Fault Refusal :=
  aluWord (.frcp d a rm) (on32 fun x _ _ => frcp rm x) s

/-- Reciprocal square root (R49, R112). -/
def execFrsq (d a : Reg) (rm : Rnd) (s : State) : Host.Outcome State Fault Refusal :=
  aluWord (.frsq d a rm) (on32 fun x _ _ => frsq rm x) s

/-- Square root (R49, R112). -/
def execFsqrt (d a : Reg) (rm : Rnd) (s : State) : Host.Outcome State Fault Refusal :=
  aluWord (.fsqrt d a rm) (on32 fun x _ _ => fsqrt rm x) s

/-- 2 to the x (R49, R112). -/
def execFexp2 (d a : Reg) (s : State) : Host.Outcome State Fault Refusal :=
  aluWord (.fexp2 d a) (on32 fun x _ _ => fexp2 x) s

/-- Binary logarithm (R49, R112). -/
def execFlog2 (d a : Reg) (s : State) : Host.Outcome State Fault Refusal :=
  aluWord (.flog2 d a) (on32 fun x _ _ => flog2 x) s

/-- Sine (R49, R112). -/
def execFsin (d a : Reg) (s : State) : Host.Outcome State Fault Refusal :=
  aluWord (.fsin d a) (on32 fun x _ _ => fsin x) s

/-- Cosine (R49, R112). -/
def execFcos (d a : Reg) (s : State) : Host.Outcome State Fault Refusal :=
  aluWord (.fcos d a) (on32 fun x _ _ => fcos x) s

/-- Hyperbolic tangent (R49, R112). -/
def execFtanh (d a : Reg) (s : State) : Host.Outcome State Fault Refusal :=
  aluWord (.ftanh d a) (on32 fun x _ _ => ftanh x) s


/-! ## Packed and dot-product arithmetic (R113 to R115) -/

/-- Packed bf16 (R113). -/
def execHadd2 (d a b : Reg) (rm : Rnd) (s : State) : Host.Outcome State Fault Refusal :=
  aluWord (.hadd2 d a b rm) (on32 fun x y _ => hadd2 rm x y) s

/-- Packed bf16 (R113), immediate. -/
def execHadd2Imm (d a : Reg) (imm : Word) (rm : Rnd) (s : State) : Host.Outcome State Fault Refusal :=
  aluWord (.hadd2Imm d a imm rm) (on32 fun x _ _ => hadd2 rm x imm) s

/-- Packed bf16 (R113). -/
def execHmul2 (d a b : Reg) (rm : Rnd) (s : State) : Host.Outcome State Fault Refusal :=
  aluWord (.hmul2 d a b rm) (on32 fun x y _ => hmul2 rm x y) s

/-- Packed bf16 (R113), immediate. -/
def execHmul2Imm (d a : Reg) (imm : Word) (rm : Rnd) (s : State) : Host.Outcome State Fault Refusal :=
  aluWord (.hmul2Imm d a imm rm) (on32 fun x _ _ => hmul2 rm x imm) s

/-- Packed bf16 A × B + C (R113). -/
def execHfma2 (d a b c : Reg) (rm : Rnd) (s : State) : Host.Outcome State Fault Refusal :=
  aluWord (.hfma2 d a b c rm) (on32 fun x y z => hfma2 rm x y z) s

/-- 8-bit float dot product (R114). -/
def execQdot4 (d a b c : Reg) (fa fb : QFmt) (rm : Rnd) (s : State) : Host.Outcome State Fault Refusal :=
  aluWord (.qdot4 d a b c fa fb rm) (on32 fun x y z => qdot4 fa fb rm x y z) s

/-- 8-bit integer dot product (R115). -/
def execIdot4 (d a b c : Reg) (na nb : Bool) (s : State) : Host.Outcome State Fault Refusal :=
  aluWord (.idot4 d a b c na nb) (on32 fun x y z => idot4 na nb x y z) s


/-! ## Conversion (R116 to R119) -/

/-- Conversion (R116). -/
def execCvt (d a : Reg) (df sf : Fmt) (rm : Rnd) (s : State) : Host.Outcome State Fault Refusal :=
  aluWord (.cvt d a df sf rm) (fun x _ _ => BitVec.ofNat 64 (cvt df sf rm x.toNat)) s

/-- Packed conversion (R118). -/
def execCvtPk (d a b : Reg) (df sf : Fmt) (rm : Rnd) (s : State) : Host.Outcome State Fault Refusal :=
  aluWord (.cvtPk d a b df sf rm) (fun x y _ => if df = .bf16 then cvtPkWide sf (lo x) else up (cvtPkNarrow df rm (lo x) (lo y))) s

/-- Pack two 16-bit elements (R119). -/
def execPack2 (d a b : Reg) (k : Pk2) (rm : Rnd) (s : State) : Host.Outcome State Fault Refusal :=
  aluWord (.pack2 d a b k rm) (on32 fun x y _ => pack2 k rm x y) s

/-- Unpack two 16-bit elements (R119). -/
def execUnpk2 (d a : Reg) (k : Pk2) (s : State) : Host.Outcome State Fault Refusal :=
  aluWord (.unpk2 d a k) (fun x _ _ => unpk2 k (lo x)) s

end Sys2Proof.Machine
end

