-- ==== Sys2Proof/Machine/Freezing.lean ====
section
/-! DEFINITION. FENCE, CINV and ICINV, and freezing: FREEZE, THAW and the steps of the freeze engine (R298 to R308, R324 to R326). -/

namespace Sys2Proof.Machine

/-! ## FENCE (R325) -/

/-- FENCE, its commit and its waits done (R325). -/
def execFence (d : Reg) (mo : MemOrder) (s : State) : Host.Outcome State Fault Refusal :=
  threadWord (.fence d mo) (fun issue s t _ w =>
    orUnacked (acquireNow s w.core (acqScope mo)) issue t [(d.toNat, 1)] fun s => writeD s t d 1 (cleanVal 0)) s

/-! ## CINV and ICINV (R305, R306) -/

/-- The cores and the clusters whose caches a scope covers (R305). -/
def scopeCores (core : Nat) : Scope → List Nat
  | .grp | .core => [core]
  | .clu => List.range' (8 * cluOf core) 8
  | .die => List.range' (64 * dieOf core) 64
  | _ => List.range 256

def scopeClusters (core : Nat) : Scope → List Nat
  | .grp | .core => []
  | .clu => [cluOf core]
  | .die => List.range' (8 * dieOf core) 8
  | _ => List.range 32

/-- The physical ranges of a virtual range rounded out to sectors, page granule by granule; what is not present or not readable is skipped
(R305). -/
def rangesOf (s : State) (core part va len : Nat) : List (Nat × Nat) × State :=
  let a := va / 64 * 64
  let e := (va + len + 63) / 64 * 64
  if len = 0 then ([], s)
  else
    (List.range' (a / 65536) ((e + 65535) / 65536 - a / 65536)).foldl (fun (x : List (Nat × Nat) × State) g =>
      let lo := max a (65536 * g)
      let r := translate x.2 core part lo .read 0
      match r.1 with
      | .ok l => (x.1 ++ [(locAddr l, locAddr l + (min e (65536 * g + 65536) - lo))], r.2)
      | .error _ => (x.1, r.2)) ([], s)

def inRanges (rs : List (Nat × Nat)) (pa : Nat) : Bool := rs.any fun r => decide (r.1 ≤ pa) && decide (pa < r.2)

/-- The copies that a drop may take: every one, or the self-invalidating ones only. -/
def dropL1Range (s : State) (core : Nat) (hit : Nat → CacheSector → Bool) : State :=
  let gone := (coreAt s core).l1.filter fun p => hit p.1 p.2
  let s := modCore s core fun c => { c with l1 := c.l1.filter fun p => !hit p.1 p.2 }
  let cl := cluOf core
  setCluster s cl ((clusterAt s cl).map fun (sec, c) =>
    (sec, match c.kind with
      | .tracked cores => if gone.any (fun p => p.1 = sec) then { c with kind := .tracked (cores.filter (· ≠ core % 8)) } else c
      | _ => c))

def dropClusterRange (s : State) (cl : Nat) (hit : Nat → CacheSector → Bool) : State :=
  ((clusterAt s cl).filter fun p => hit p.1 p.2).foldl (fun s p =>
    let had := holdsLine s cl (p.1 / 4)
    noticeIfGone (dropSector s cl p.1) cl (p.1 / 4) had) s

/-- The drop of cached copies within a scope (R305, R306). -/
def dropScope (s : State) (core : Nat) (sc : Scope) (hit : Nat → CacheSector → Bool) : State :=
  let s := (scopeCores core sc).foldl (fun s c => dropL1Range s c hit) s
  (scopeClusters core sc).foldl (fun s cl => dropClusterRange s cl hit) s

/-- The range of CINV and ICINV, or what suppresses the thread's operation (R305). -/
def dropOperands (th : Thread) (a b : Reg) : Except AddrFault (Nat × Nat) :=
  match firstTok (readRegs th a.toNat 2 ++ readRegs th b.toNat 1) with
  | some k => .error (.tok k)
  | none =>
    let va := (reg2 th a).data
    let len := (reg1 th b).data.toNat
    if 0 < len && 2 ^ 56 < va.toNat + len then .error (.make (why .noncanon va))
    else if 2 ^ 30 < len then .error (.make (why .invalid va))
    else .ok (va.toNat, len)

/-- A drop for one thread: of every address with .all, else of its range. -/
def dropThread (issue : Nat) (a b : Reg) (all : Bool) (drop : State → (Nat → Bool) → State) (s : State) (t : Nat) (th : Thread)
    (w : Workgroup) : State :=
  if all then drop s fun _ => true
  else match dropOperands th a b with
    | .error f => suppressWith s issue t f []
    | .ok (va, len) =>
      let r := rangesOf s w.core w.part va len
      drop r.2 (inRanges r.1)

/-- CINV (R305). -/
def execCinv (a b : Reg) (sc : Scope) (all : Bool) (s : State) : Host.Outcome State Fault Refusal :=
  threadWord (.cinv a b sc all) (fun issue s t th w =>
    dropThread issue a b all (fun s inR => dropScope s w.core sc fun sec _ => inR (64 * sec)) s t th w) s

/-- Whether a parked group's threads are saved. -/
def groupSaved (s : State) (G : Group) : Bool :=
  G.members.any fun t => match wgAt s (wgOf t) with
    | some w => w.saved
    | none => false

/-- Instruction words dropped from a core, its loop buffers with every word that they hold; a span that is running may still finish from them, but a
saved one fetches its words anew (R141, R142, R306). -/
def dropInstr (inR : Nat → Bool) (s : State) (core : Nat) : State :=
  let c := coreAt s core
  let gone := (c.icache.filter fun p => inR p.1) ++ c.loops.flatMap (·.2)
  let s := modCore s core fun c => { c with
    icache := c.icache.filter (fun p => !inR p.1), loops := [], icPoison := c.icPoison.filter fun p => !inR (64 * p) }
  { s with groups := s.groups.map fun (g, G) =>
      (g, if G.core = core && !groupSaved s G then { G with old := gone.foldl (fun m p => put m p.1 p.2) G.old } else G) }

/-- ICINV (R306). -/
def execIcinv (a b : Reg) (sc : Scope) (all : Bool) (s : State) : Host.Outcome State Fault Refusal :=
  threadWord (.icinv a b sc all) (fun issue s t th w =>
    dropThread issue a b all (fun s inR =>
      (scopeCores w.core sc).foldl (dropInstr inR) (dropScope s w.core sc fun sec c => isSelfInv c && inR (64 * sec))) s t th w) s

/-! ## The freeze table (R298) -/

def FreezeEntry.reset : FreezeEntry :=
  { dvec := [], pgran := 0, count := 0, gen := 0, part := 0, state := .free, sys := false, link := 0, last := false, lvec := [], pend := 0 }

def freezeAt (s : State) (i : Nat) : FreezeEntry := lookD s.freezes i FreezeEntry.reset
def modFreeze (s : State) (i : Nat) (f : FreezeEntry → FreezeEntry) : State := { s with freezes := put s.freezes i (f (freezeAt s i)) }

/-- The lowest-numbered FREE entry (R299). -/
def freeEntry (s : State) : Option Nat := (List.range 256).find? fun i => (freezeAt s i).state = .free

/-- An entry taken for a freeze: its generation advances (R298, R299). -/
def takeEntry (s : State) (i part : Nat) (sys : Bool) : State :=
  modFreeze s i fun f =>
    { FreezeEntry.reset with gen := (f.gen + 1) % 256, part := part, state := .freezing, sys := sys, last := true }

/-- A handle (R298). -/
def handleOf (f : FreezeEntry) (i : Nat) : Word := BitVec.ofNat 32 (65536 + 256 * f.gen + i)

/-- The first entry of the freeze that a live handle of a partition names (R298). -/
def liveHandle (s : State) (part : Nat) (h : Word) : Option Nat :=
  let i := h.toNat % 256
  let f := freezeAt s i
  if h.toNat / 65536 = 1 && f.state ≠ .free && f.gen = h.toNat / 256 % 256 && f.part = part
      && !(s.freezes.any fun p => p.1 ≠ i && p.2.state ≠ .free && !p.2.last && p.2.link = i)
  then some i else none

/-- The entries of a freeze, from its first on. -/
def chainOf (s : State) : Nat → Nat → List Nat
  | 0, _ => []
  | k + 1, i => if (freezeAt s i).last then [i] else i :: chainOf s k (freezeAt s i).link

def freezeChain (s : State) (i : Nat) : List Nat := chainOf s 256 i

/-! ## Completion of freeze operations -/

def freezeOrg (s : State) (o : FreezeOp) (issue : Nat) : Org := engineOrg s issue o.core o.wg o.th o.span o.off

/-- An operation of the freeze engine completes, with an event if it ended with poison (R166, R299, R302). -/
def freezeEnd (s : State) (k : Nat) (o : FreezeOp) (y : Option Why) : State :=
  let s := { s with freezeOps := del s.freezeOps k }
  let s := match y with
    | none => s
    | some y =>
      let issue := s.nextIssue
      let r := makeToken { s with nextIssue := issue + 1 } (freezeOrg s o issue) y
      endIssue (recordEvent r.1 o.wg o.launch (some 51) r.2) issue
  completeNumber s o.wg o.tl o.num

/-- Entries that become FREE, their generation kept. -/
def freeEntries (s : State) (is : List Nat) : State :=
  is.foldl (fun s i => modFreeze s i fun f => { FreezeEntry.reset with gen := f.gen }) s

/-- A freeze fails: its entries become FREE, nothing stays frozen (R299). -/
def freezeFail (s : State) (k : Nat) (o : FreezeOp) (y : Why) : State := freezeEnd (freeEntries s (freezeChain s o.entry)) k o (some y)

/-- A freeze completes: its entries are FROZEN (R299). -/
def freezeDone (s : State) (k : Nat) (o : FreezeOp) : State :=
  freezeEnd ((freezeChain s o.entry).foldl (fun s i => modFreeze s i fun f => { f with state := .frozen }) s) k o none

/-- Whether an access is a part of a DRAIN's row that its home has accepted (R242). -/
def acceptedRow (s : State) (o : Op) : Bool := o.sent && sameRow o o && !remoteOp s o

/-- Whether a write that reached its home before the freeze point still waits to be performed in the freeze's range. -/
def writesPending (s : State) (o : FreezeOp) : Bool :=
  (freezeChain s o.entry).any fun i => s.ops.any fun (_, p) => (isCounting p || acceptedRow s p) && match p.loc with
    | .phys pa _ _ _ => covers (freezeAt s i) pa
    | _ => false

/-- A granule taken: it extends the current entry's run, or starts a further entry's (R299). -/
def takeGranule (s : State) (k : Nat) (o : FreezeOp) (g : Nat) (va : DWord) : State :=
  let f := freezeAt s o.cur
  let next (s : State) (cur : Nat) : State := { s with freezeOps := put s.freezeOps k { o with next := o.next + 1, cur := cur } }
  if f.count = 0 then next (modFreeze s o.cur fun f => { f with pgran := g, count := 1 }) o.cur
  else if f.pgran + f.count = g then next (modFreeze s o.cur fun f => { f with count := f.count + 1 }) o.cur
  else match freeEntry s with
    | none => freezeFail s k o (why .invalid va)
    | some i =>
      let s := takeEntry s i o.part o.sys
      let s := modFreeze s i fun f => { f with pgran := g, count := 1 }
      next (modFreeze s o.cur fun f => { f with last := false, link := i }) i

/-- One step of a freeze: the next granule is translated as a write access and taken; after the last one the freeze completes (R299). -/
def freezeStep (s : State) (k : Nat) (o : FreezeOp) : State :=
  if o.len ≤ 65536 * o.next then (if writesPending s o then s else freezeDone s k o)
  else
    let va := o.va + BitVec.ofNat 64 (65536 * o.next)
    let r := translate s o.core o.part va.toNat .write 0
    match r.1 with
    | .error f => freezeFail r.2 k o ⟨f.cause, some va, f.window, true⟩
    | .ok l => if isPkgMem (locHome r.2 l) then takeGranule r.2 k o (locAddr l / 65536) va else freezeFail r.2 k o (why .invalid va)

/-! ## Thaws (R302) -/

/-- When every acknowledgement of a thaw is in, its entries leave the filters and become FREE, and every THAW of the handle completes. -/
def thawEnd (s : State) (i : Nat) : State :=
  let is := freezeChain s i
  if is.all fun j => (freezeAt s j).state = .thawing && (freezeAt s j).pend = 0 then
    let h := handleOf (freezeAt s i) i
    let part := (freezeAt s i).part
    let s := freeEntries s is
    (s.freezeOps.filter fun p => p.2.isThaw && p.2.handle = h && p.2.part = part).foldl (fun s p => freezeEnd s p.1 p.2 none) s
  else s

/-- A thaw starts: each entry becomes THAWING and sends its invalidations; a device that the fabric has declared lost owes none. -/
def startThaw (s : State) (i : Nat) : State :=
  (freezeChain s i).foldl (fun s j =>
    let f := freezeAt s j
    let devs := f.dvec.filter fun d => !s.noticed.contains (.dev d)
    let s := f.lvec.foldl (fun s d => sendMsg s (.replicaInval j d)) s
    let s := devs.foldl (fun s d => sendMsg s (.replicaInvalDev j d)) s
    modFreeze s j fun f => { f with state := .thawing, pend := f.lvec.length + devs.length }) s

/-- One step of a THAW: stale, waiting for its freeze, starting, or joining a thaw under way (R302). -/
def thawStep (s : State) (k : Nat) (o : FreezeOp) : State :=
  match liveHandle s o.part o.handle with
  | none => freezeEnd s k o (some (why .invalid (up o.handle)))
  | some i =>
    match (freezeAt s i).state with
    | .frozen => thawEnd (startThaw s i) i
    | _ => s

/-- FREEZE_COMPLETE: a step of the freeze engine on one of its operations; the last completes it (R299, R302). -/
def execFreezeComplete (k : Nat) (s : State) : Host.Outcome State Fault Refusal :=
  .next (match look s.freezeOps k with
    | none => s
    | some o => if o.isThaw then thawStep s k o else freezeStep s k o)

/-- Replicas of an entry's granules dropped from the caches of a die (R302). -/
def dropReplicas (s : State) (f : FreezeEntry) (die : Nat) : State :=
  let gone (m : NMap CacheSector) : NMap CacheSector := m.filter fun p => !(isReplica p.2 && covers f (64 * p.1))
  { s with
    cores := s.cores.map fun (c, x) => (c, if dieOf c = die then { x with l1 := gone x.l1 } else x)
    clusters := s.clusters.map fun (cl, m) => (cl, if cl / 8 = die then gone m else m) }

/-- REPLICA_INVALIDATION: a die or a device drops its replicas and acknowledges (R302). -/
def execReplicaInvalidation (m : Nat) (s : State) : Host.Outcome State Fault Refusal :=
  .next (match look s.msgs m with
    | some (.replicaInval i die) => sendMsg (dropReplicas { s with msgs := del s.msgs m } (freezeAt s i) die) (.thawAck i)
    | some (.replicaInvalDev i _) => sendMsg { s with msgs := del s.msgs m } (.thawAck i)
    | _ => s)

/-- The first entry of the freeze that an entry belongs to. -/
def firstOf (s : State) : Nat → Nat → Nat
  | 0, i => i
  | k + 1, i =>
    match s.freezes.find? fun p => p.1 ≠ i && p.2.state ≠ .free && !p.2.last && p.2.link = i with
    | some p => firstOf s k p.1
    | none => i

/-- THAW_ACK: an acknowledgement lowers PEND, and the last one completes the thaw (R302). -/
def execThawAck (m : Nat) (s : State) : Host.Outcome State Fault Refusal :=
  .next (match look s.msgs m with
    | some (.thawAck i) =>
      let t := modFreeze { s with msgs := del s.msgs m } i fun f => { f with pend := f.pend - 1 }
      thawEnd t (firstOf t 256 i)
    | _ => s)

/-- Acknowledgements of a thaw that a lost device owes count as received; the last one completes the thaw (R302, R400). -/
def lostThaws (s : State) (n : Nat) : State :=
  s.msgs.foldl (fun s (k, m) => match m with
    | .replicaInvalDev e d =>
      if d = n then
        let t := modFreeze { s with msgs := del s.msgs k } e fun f => { f with pend := f.pend - 1 }
        thawEnd t (firstOf t 256 e)
      else s
    | _ => s) s

/-- LOSS_NOTICE: requests to a lost device are unanswered at once; those to a lost switch go to the mirror or fail with SWM-LOST (R400, R407). -/
def execLossNotice (dest : Dest) (s : State) : Host.Outcome State Fault Refusal :=
  .next (
    let mine := s.reqs.filter fun p => p.2.flow.dest = dest
    let t := if s.noticed.contains dest then s else { s with noticed := s.noticed ++ [dest] }
    match dest with
    | .dev n => if s.lostDevs.contains n then lostThaws (mine.foldl (fun s (k, r) => delReq (unanswered s k r) k) t) n else s
    | .switch p sw =>
      if (switchAt s (swKey p sw)).lost then
        let t := lostMirror t (swKey p sw)
        mine.foldl (fun s (k, r) =>
          match routeSwitch s p sw r.pkt.ftid r.pkt.addr (max 1 r.pkt.len) with
          | some _ => if r.firstAt.isSome then resend s k r 1 (some s.now) else s
          | none => replied s k r (.fault .swmLost)) t
      else s
    | .peer _ => s)

/-! ## FREEZE and THAW (R307, R308) -/

/-- What suppresses a FREEZE (R307). -/
def freezeFault (a : DWord) (b : Nat) : Option Why :=
  if a.toNat % 65536 ≠ 0 || b = 0 || b % 65536 ≠ 0 then some (why .invalid a)
  else if !canonical a || !canonical (a + BitVec.ofNat 64 (b - 1)) then some (why .noncanon a)
  else none

/-- FREEZE for one thread whose operands are clean (R307). -/
def freezeThread (d c : Reg) (tl : BitVec 3) (sys : Bool) (va : DWord) (len : Nat) (s : State) (t : Nat) (th : Thread) (w : Workgroup) : State :=
  let n := nextNumber s (wgOf t) tl.toNat
  let s := match freeEntry n.2 with
    | none => completeNumber (writeD n.2 t c 1 (cleanVal 0)) (wgOf t) tl.toNat n.1
    | some i =>
      let s := takeEntry n.2 i w.part sys
      let k := freshId s
      let o : FreezeOp :=
        { wg := wgOf t, launch := w.launch, core := w.core, th := t, span := th.span, off := th.off, tl := tl.toNat, num := n.1, part := w.part,
          isThaw := false, va := va, len := len, sys := sys, entry := i, handle := handleOf (freezeAt s i) i, next := 0, cur := i }
      writeD { k.2 with freezeOps := put k.2.freezeOps k.1 o } t c 1 (cleanWord o.handle)
  writeD s t d 2 (cleanVal (BitVec.ofNat 64 n.1))

/-- FREEZE, its release done (R303, R307). -/
def execFreeze (d a b c : Reg) (tl : BitVec 3) (sc : Scope) (s : State) : Host.Outcome State Fault Refusal :=
  threadWord (.freeze d a b c tl sc) (fun issue s t th w =>
    let dsts := [(d.toNat, 2), (c.toNat, 1)]
    let va := (reg2 th a).data
    let len := (reg1 th b).data.toNat
    let s := releaseActs s t
    match firstTok (readRegs th a.toNat 2 ++ readRegs th b.toNat 1) with
    | some k => suppress s t k dsts
    | none => match freezeFault va len with
      | some y => suppressWith s issue t (.make y) dsts
      | none => unlessUnacked th.unacked s issue t dsts fun s => freezeThread d c tl (sc = .sys) va len s t th w) s

/-- THAW (R308). -/
def execThaw (d a : Reg) (tl : BitVec 3) (s : State) : Host.Outcome State Fault Refusal :=
  threadWord (.thaw d a tl) (fun _ s t th w =>
    let v := reg1 th a
    match v.tok with
    | some k => suppress s t k [(d.toNat, 2)]
    | none =>
      let n := nextNumber s (wgOf t) tl.toNat
      let s := writeD n.2 t d 2 (cleanVal (BitVec.ofNat 64 n.1))
      let k := freshId s
      let o : FreezeOp :=
        { wg := wgOf t, launch := w.launch, core := w.core, th := t, span := th.span, off := th.off, tl := tl.toNat, num := n.1, part := w.part, isThaw := true,
          va := 0, len := 0, sys := false, entry := 0, handle := lo v.data, next := 0, cur := 0 }
      let s := { k.2 with freezeOps := put k.2.freezeOps k.1 o }
      thawStep s k.1 o) s

end Sys2Proof.Machine
end

