-- ==== Sys2Proof/Machine/Move.lean ====
section
/-! DEFINITION. Select, move, special registers and NOP (R36, R37, R106, R120, R121). -/

namespace Sys2Proof.Machine

/-- SEL's result (R106): the predicate's token, or the selected operand with its tag; the other operand is not inspected. -/
def selVal (vs : List Val) : Val :=
  match vs with
  | [a, b, c] =>
    match c.tok with
    | some t => badVal t
    | none => if c.data ≠ 0 then a else b
  | _ => ⟨0, none⟩

/-- SEL (R106). -/
def execSel (d a b c : Reg) (s : State) : Host.Outcome State Fault Refusal :=
  runWord (.sel d a b c) (fun _ ts s => ts.foldl (arithThread (usesOf (.sel d a b c)) selVal) s) s

/-- SEL.w (R106). -/
def execSelW (d a b c : Reg) (s : State) : Host.Outcome State Fault Refusal :=
  runWord (.selW d a b c) (fun _ ts s => ts.foldl (arithThread (usesOf (.selW d a b c)) selVal) s) s

/-- MOV: data bits and tag (R120). -/
def execMov (d a : Reg) (s : State) : Host.Outcome State Fault Refusal := aluWord (.mov d a) (fun x _ _ => x) s

/-- The value of a special register for a thread (R36, R37). -/
def sregVal (s : State) (t : Nat) (th : Thread) (w : Workgroup) : SReg → DWord
  | .lane => BitVec.ofNat 64 th.lane
  | .tidx => BitVec.ofNat 64 (idxOf t)
  | .widlo => (lo th.wid).setWidth 64
  | .widhi => (th.wid >>> 32)
  | .gwidth => BitVec.ofNat 64 (gwidth w)
  | .core => BitVec.ofNat 64 (w.core % 8)
  | .clu => BitVec.ofNat 64 (cluOf w.core % 8)
  | .die => BitVec.ofNat 64 (dieOf w.core)
  | .pkg => BitVec.ofNat 64 (if s.joined then s.pkg else 0)
  | .clk => BitVec.ofNat 64 (clkOf s (dieOf w.core))

def sysrThread (d : Reg) (sr : SReg) (s : State) (t : Nat) : State :=
  match thOf s t, wgAt s (wgOf t) with
  | some th, some w => arithThread (usesOf (.sysr d sr)) (fun _ => cleanVal (sregVal s t th w sr)) s t
  | _, _ => s

/-- SYSR (R121). -/
def execSysr (d : Reg) (sr : SReg) (s : State) : Host.Outcome State Fault Refusal :=
  runWord (.sysr d sr) (fun _ ts s => ts.foldl (sysrThread d sr) s) s

/-- NOP: no effect but that the word issues (R121). -/
def execNop (s : State) : Host.Outcome State Fault Refusal := runWord .nop (fun _ _ s => s) s

end Sys2Proof.Machine
end

