-- ==== Sys2Proof/Machine/Pair.lean ====
section
/-! DEFINITION. Pair words: two halves that read before either writes (R71 to R74, R78). -/

namespace Sys2Proof.Machine

/-- What a half computes from D and B; an immediate is sign-extended, a shift count of a half natural (R74, R77). -/
def halfFn : HalfOp → Word → Word → Word
  | .iadd, d, b => d + b
  | .isub, d, b => d - b
  | .imul, d, b => d * b
  | .imin nat, d, b => imin nat d b
  | .imax nat, d, b => imax nat d b
  | .and, d, b => d &&& b
  | .or, d, b => d ||| b
  | .xor, d, b => d ^^^ b
  | .andn, d, b => d &&& ~~~b
  | .shl, d, b => shl d b.toNat
  | .shr, d, b => shr d b.toNat
  | .shra, d, b => shra d b.toNat
  | .rotl, d, b => rotl d b.toNat
  | .icmp cc, d, b => lo (predBit (icond cc d b))
  | .mov, _, b => b
  | .iaddImm imm, d, _ => d + imm.signExtend 32
  | .imulImm imm, d, _ => d * imm.signExtend 32
  | .andImm imm, d, _ => d &&& imm.signExtend 32
  | .orImm imm, d, _ => d ||| imm.signExtend 32
  | .xorImm imm, d, _ => d ^^^ imm.signExtend 32
  | .shlImm imm, d, _ => shl d imm.toNat
  | .shrImm imm, d, _ => shr d imm.toNat
  | .shraImm imm, d, _ => shra d imm.toNat
  | .movi imm, _, _ => imm.signExtend 32
  | .iabs, _, b => iabs b
  | .clz, _, b => BitVec.ofNat 32 (clz b)
  | .popc, _, b => BitVec.ofNat 32 (popc b)
  | .brev, _, b => brev b
  | .fadd rm, d, b => fadd rm d b
  | .fsub rm, d, b => fsub rm d b
  | .fmul rm, d, b => fmul rm d b
  | .fmin, d, b => fmin d b
  | .fmax, d, b => fmax d b
  | .fcmp cc, d, b => lo (predBit (fcond cc d b))
  | .hadd2 rm, d, b => hadd2 rm d b
  | .hmul2 rm, d, b => hmul2 rm d b
  | .frcp rm, _, b => frcp rm b
  | .frsq rm, _, b => frsq rm b
  | .fsqrt rm, _, b => fsqrt rm b
  | .fexp2, _, b => fexp2 b
  | .flog2, _, b => flog2 b
  | .fsin, _, b => fsin b
  | .fcos, _, b => fcos b
  | .ftanh, _, b => ftanh b
  | .cvtI32Fp32 rm, _, b => BitVec.ofNat 32 (cvt .i32 .fp32 rm b.toNat)
  | .cvtFp32I32 rm, _, b => BitVec.ofNat 32 (cvt .fp32 .i32 rm b.toNat)

/-- The registers that a half reads, D before B (R95). -/
def halfSources (h : Half) : List Nat :=
  (if halfReadsD h.op then [h.d.toNat] else []) ++ (if halfIsImm h.op then [] else [h.b.toNat])

/-- The result of a half for a thread: the first token among its sources, or what it computes (R73, R95). -/
def halfVal (th : Thread) (h : Half) : RegVal :=
  match firstTok ((halfSources h).map (readReg th)) with
  | some t => .bad t
  | none => .clean (halfFn h.op (readReg th h.d.toNat).data (readReg th h.b.toNat).data)

/-- Both halves for a thread: both read before either writes (R73). -/
def pairThread (x y : Half) (th : Thread) : Thread := setReg (setReg th x.d.toNat (halfVal th x)) y.d.toNat (halfVal th y)

/-- A pair word (R73). -/
def pairWord (i : Instr) (x y : Half) (s : State) : Host.Outcome State Fault Refusal :=
  runWord i (fun _ ts s => ts.foldl (fun s t => modTh s t (pairThread x y)) s) s


/-- Pair word, half A: iadd (R73, R74). -/
def execIaddPair (d b : Reg) (other : Half) (s : State) : Host.Outcome State Fault Refusal :=
  pairWord (.iaddPair d b other) ⟨.iadd, d, b⟩ other s

/-- Pair word, half A: isub (R73, R74). -/
def execIsubPair (d b : Reg) (other : Half) (s : State) : Host.Outcome State Fault Refusal :=
  pairWord (.isubPair d b other) ⟨.isub, d, b⟩ other s

/-- Pair word, half A: imul (R73, R74). -/
def execImulPair (d b : Reg) (other : Half) (s : State) : Host.Outcome State Fault Refusal :=
  pairWord (.imulPair d b other) ⟨.imul, d, b⟩ other s

/-- Pair word, half A: imin (R73, R74). -/
def execIminPair (nat : Bool) (d b : Reg) (other : Half) (s : State) : Host.Outcome State Fault Refusal :=
  pairWord (.iminPair nat d b other) ⟨.imin nat, d, b⟩ other s

/-- Pair word, half A: imax (R73, R74). -/
def execImaxPair (nat : Bool) (d b : Reg) (other : Half) (s : State) : Host.Outcome State Fault Refusal :=
  pairWord (.imaxPair nat d b other) ⟨.imax nat, d, b⟩ other s

/-- Pair word, half A: and (R73, R74). -/
def execAndPair (d b : Reg) (other : Half) (s : State) : Host.Outcome State Fault Refusal :=
  pairWord (.andPair d b other) ⟨.and, d, b⟩ other s

/-- Pair word, half A: or (R73, R74). -/
def execOrPair (d b : Reg) (other : Half) (s : State) : Host.Outcome State Fault Refusal :=
  pairWord (.orPair d b other) ⟨.or, d, b⟩ other s

/-- Pair word, half A: xor (R73, R74). -/
def execXorPair (d b : Reg) (other : Half) (s : State) : Host.Outcome State Fault Refusal :=
  pairWord (.xorPair d b other) ⟨.xor, d, b⟩ other s

/-- Pair word, half A: andn (R73, R74). -/
def execAndnPair (d b : Reg) (other : Half) (s : State) : Host.Outcome State Fault Refusal :=
  pairWord (.andnPair d b other) ⟨.andn, d, b⟩ other s

/-- Pair word, half A: shl (R73, R74). -/
def execShlPair (d b : Reg) (other : Half) (s : State) : Host.Outcome State Fault Refusal :=
  pairWord (.shlPair d b other) ⟨.shl, d, b⟩ other s

/-- Pair word, half A: shr (R73, R74). -/
def execShrPair (d b : Reg) (other : Half) (s : State) : Host.Outcome State Fault Refusal :=
  pairWord (.shrPair d b other) ⟨.shr, d, b⟩ other s

/-- Pair word, half A: shra (R73, R74). -/
def execShraPair (d b : Reg) (other : Half) (s : State) : Host.Outcome State Fault Refusal :=
  pairWord (.shraPair d b other) ⟨.shra, d, b⟩ other s

/-- Pair word, half A: rotl (R73, R74). -/
def execRotlPair (d b : Reg) (other : Half) (s : State) : Host.Outcome State Fault Refusal :=
  pairWord (.rotlPair d b other) ⟨.rotl, d, b⟩ other s

/-- Pair word, half A: icmp (R73, R74). -/
def execIcmpPair (cc : ICond) (d b : Reg) (other : Half) (s : State) : Host.Outcome State Fault Refusal :=
  pairWord (.icmpPair cc d b other) ⟨.icmp cc, d, b⟩ other s

/-- Pair word, half A: mov (R73, R74). -/
def execMovPair (d b : Reg) (other : Half) (s : State) : Host.Outcome State Fault Refusal :=
  pairWord (.movPair d b other) ⟨.mov, d, b⟩ other s

/-- Pair word, half A: iadd with an immediate (R73, R74). -/
def execIaddPairImm (d : Reg) (imm : BitVec 9) (other : Half) (s : State) : Host.Outcome State Fault Refusal :=
  pairWord (.iaddPairImm d imm other) ⟨.iaddImm imm, d, 0⟩ other s

/-- Pair word, half A: imul with an immediate (R73, R74). -/
def execImulPairImm (d : Reg) (imm : BitVec 9) (other : Half) (s : State) : Host.Outcome State Fault Refusal :=
  pairWord (.imulPairImm d imm other) ⟨.imulImm imm, d, 0⟩ other s

/-- Pair word, half A: and with an immediate (R73, R74). -/
def execAndPairImm (d : Reg) (imm : BitVec 9) (other : Half) (s : State) : Host.Outcome State Fault Refusal :=
  pairWord (.andPairImm d imm other) ⟨.andImm imm, d, 0⟩ other s

/-- Pair word, half A: or with an immediate (R73, R74). -/
def execOrPairImm (d : Reg) (imm : BitVec 9) (other : Half) (s : State) : Host.Outcome State Fault Refusal :=
  pairWord (.orPairImm d imm other) ⟨.orImm imm, d, 0⟩ other s

/-- Pair word, half A: xor with an immediate (R73, R74). -/
def execXorPairImm (d : Reg) (imm : BitVec 9) (other : Half) (s : State) : Host.Outcome State Fault Refusal :=
  pairWord (.xorPairImm d imm other) ⟨.xorImm imm, d, 0⟩ other s

/-- Pair word, half A: shl with an immediate (R73, R74). -/
def execShlPairImm (d : Reg) (imm : BitVec 9) (other : Half) (s : State) : Host.Outcome State Fault Refusal :=
  pairWord (.shlPairImm d imm other) ⟨.shlImm imm, d, 0⟩ other s

/-- Pair word, half A: shr with an immediate (R73, R74). -/
def execShrPairImm (d : Reg) (imm : BitVec 9) (other : Half) (s : State) : Host.Outcome State Fault Refusal :=
  pairWord (.shrPairImm d imm other) ⟨.shrImm imm, d, 0⟩ other s

/-- Pair word, half A: shra with an immediate (R73, R74). -/
def execShraPairImm (d : Reg) (imm : BitVec 9) (other : Half) (s : State) : Host.Outcome State Fault Refusal :=
  pairWord (.shraPairImm d imm other) ⟨.shraImm imm, d, 0⟩ other s

/-- Pair word, half A: movi (R73, R74). -/
def execMoviPair (d : Reg) (imm : BitVec 9) (other : Half) (s : State) : Host.Outcome State Fault Refusal :=
  pairWord (.moviPair d imm other) ⟨.movi imm, d, 0⟩ other s

/-- Pair word, half A: iabs (R73, R74). -/
def execIabsPair (d b : Reg) (other : Half) (s : State) : Host.Outcome State Fault Refusal :=
  pairWord (.iabsPair d b other) ⟨.iabs, d, b⟩ other s

/-- Pair word, half A: clz (R73, R74). -/
def execClzPair (d b : Reg) (other : Half) (s : State) : Host.Outcome State Fault Refusal :=
  pairWord (.clzPair d b other) ⟨.clz, d, b⟩ other s

/-- Pair word, half A: popc (R73, R74). -/
def execPopcPair (d b : Reg) (other : Half) (s : State) : Host.Outcome State Fault Refusal :=
  pairWord (.popcPair d b other) ⟨.popc, d, b⟩ other s

/-- Pair word, half A: brev (R73, R74). -/
def execBrevPair (d b : Reg) (other : Half) (s : State) : Host.Outcome State Fault Refusal :=
  pairWord (.brevPair d b other) ⟨.brev, d, b⟩ other s

/-- Pair word, half A: fadd (R73, R74). -/
def execFaddPair (rm : Rnd) (d b : Reg) (other : Half) (s : State) : Host.Outcome State Fault Refusal :=
  pairWord (.faddPair rm d b other) ⟨.fadd rm, d, b⟩ other s

/-- Pair word, half A: fsub (R73, R74). -/
def execFsubPair (rm : Rnd) (d b : Reg) (other : Half) (s : State) : Host.Outcome State Fault Refusal :=
  pairWord (.fsubPair rm d b other) ⟨.fsub rm, d, b⟩ other s

/-- Pair word, half A: fmul (R73, R74). -/
def execFmulPair (rm : Rnd) (d b : Reg) (other : Half) (s : State) : Host.Outcome State Fault Refusal :=
  pairWord (.fmulPair rm d b other) ⟨.fmul rm, d, b⟩ other s

/-- Pair word, half A: fmin (R73, R74). -/
def execFminPair (d b : Reg) (other : Half) (s : State) : Host.Outcome State Fault Refusal :=
  pairWord (.fminPair d b other) ⟨.fmin, d, b⟩ other s

/-- Pair word, half A: fmax (R73, R74). -/
def execFmaxPair (d b : Reg) (other : Half) (s : State) : Host.Outcome State Fault Refusal :=
  pairWord (.fmaxPair d b other) ⟨.fmax, d, b⟩ other s

/-- Pair word, half A: fcmp (R73, R74). -/
def execFcmpPair (cc : FCond) (d b : Reg) (other : Half) (s : State) : Host.Outcome State Fault Refusal :=
  pairWord (.fcmpPair cc d b other) ⟨.fcmp cc, d, b⟩ other s

/-- Pair word, half A: hadd2 (R73, R74). -/
def execHadd2Pair (rm : Rnd) (d b : Reg) (other : Half) (s : State) : Host.Outcome State Fault Refusal :=
  pairWord (.hadd2Pair rm d b other) ⟨.hadd2 rm, d, b⟩ other s

/-- Pair word, half A: hmul2 (R73, R74). -/
def execHmul2Pair (rm : Rnd) (d b : Reg) (other : Half) (s : State) : Host.Outcome State Fault Refusal :=
  pairWord (.hmul2Pair rm d b other) ⟨.hmul2 rm, d, b⟩ other s

/-- Pair word, half A: frcp (R73, R74). -/
def execFrcpPair (rm : Rnd) (d b : Reg) (other : Half) (s : State) : Host.Outcome State Fault Refusal :=
  pairWord (.frcpPair rm d b other) ⟨.frcp rm, d, b⟩ other s

/-- Pair word, half A: frsq (R73, R74). -/
def execFrsqPair (rm : Rnd) (d b : Reg) (other : Half) (s : State) : Host.Outcome State Fault Refusal :=
  pairWord (.frsqPair rm d b other) ⟨.frsq rm, d, b⟩ other s

/-- Pair word, half A: fsqrt (R73, R74). -/
def execFsqrtPair (rm : Rnd) (d b : Reg) (other : Half) (s : State) : Host.Outcome State Fault Refusal :=
  pairWord (.fsqrtPair rm d b other) ⟨.fsqrt rm, d, b⟩ other s

/-- Pair word, half A: fexp2 (R73, R74). -/
def execFexp2Pair (d b : Reg) (other : Half) (s : State) : Host.Outcome State Fault Refusal :=
  pairWord (.fexp2Pair d b other) ⟨.fexp2, d, b⟩ other s

/-- Pair word, half A: flog2 (R73, R74). -/
def execFlog2Pair (d b : Reg) (other : Half) (s : State) : Host.Outcome State Fault Refusal :=
  pairWord (.flog2Pair d b other) ⟨.flog2, d, b⟩ other s

/-- Pair word, half A: fsin (R73, R74). -/
def execFsinPair (d b : Reg) (other : Half) (s : State) : Host.Outcome State Fault Refusal :=
  pairWord (.fsinPair d b other) ⟨.fsin, d, b⟩ other s

/-- Pair word, half A: fcos (R73, R74). -/
def execFcosPair (d b : Reg) (other : Half) (s : State) : Host.Outcome State Fault Refusal :=
  pairWord (.fcosPair d b other) ⟨.fcos, d, b⟩ other s

/-- Pair word, half A: ftanh (R73, R74). -/
def execFtanhPair (d b : Reg) (other : Half) (s : State) : Host.Outcome State Fault Refusal :=
  pairWord (.ftanhPair d b other) ⟨.ftanh, d, b⟩ other s

/-- Pair word, half A: cvtI32Fp32 (R73, R74). -/
def execCvtI32Fp32Pair (rm : Rnd) (d b : Reg) (other : Half) (s : State) : Host.Outcome State Fault Refusal :=
  pairWord (.cvtI32Fp32Pair rm d b other) ⟨.cvtI32Fp32 rm, d, b⟩ other s

/-- Pair word, half A: cvtFp32I32 (R73, R74). -/
def execCvtFp32I32Pair (rm : Rnd) (d b : Reg) (other : Half) (s : State) : Host.Outcome State Fault Refusal :=
  pairWord (.cvtFp32I32Pair rm d b other) ⟨.cvtFp32I32 rm, d, b⟩ other s

end Sys2Proof.Machine
end

