-- ==== Sys2Proof/Machine/Regions.lean ====
section
/-! DEFINITION. The instructions of regions and poison, and the end of a replay park (R162, R174 to R180). -/

namespace Sys2Proof.Machine

/-- The region that RBEGIN opens for a thread (R174). -/
def rbeginRegion (d : Reg) (disp : BitVec 36) (tx : Bool) (th : Thread) : Region :=
  { cleared th.region with
    start := wordAddr th, target := some (dispTarget th disp), tokReg := d.toNat, mode := if tx then .tx else .plain }

/-- RBEGIN: its implicit commit is done; a new region opens (R174). -/
def execRbegin (d : Reg) (disp : BitVec 36) (tx : Bool) (s : State) : Host.Outcome State Fault Refusal :=
  runWord (.rbegin d disp tx) (fun _ ts s =>
    ts.foldl (fun s t => modTh s t fun th => { th with region := rbeginRegion d disp tx th }) s) s

/-- The live-outs of COMMIT taint the region when poisoned, A before B; v0 names none (R160, R175). -/
def taintLiveOuts (a b : Reg) (s : State) (t : Nat) : State :=
  match thOf s t with
  | none => s
  | some th =>
    let s := match (reg1 th a).tok with
      | some k => taint s t k
      | none => s
    match (reg1 th b).tok with
    | some k => taint s t k
    | none => s

/-- COMMIT (R160, R175). -/
def execCommit (a b : Reg) (replay : Bool) (s : State) : Host.Outcome State Fault Refusal :=
  runWord (.commit a b replay) (fun issue ts s =>
    commitAll (ts.foldl (taintLiveOuts a b) s) issue ts replay fun th => wordAddr th + 8) s

/-- ABORT for one thread: the token of A, or one made of its value (R176). -/
def abortThread (a : Reg) (issue : Nat) (s : State) (t : Nat) : State :=
  match thOf s t with
  | none => s
  | some th =>
    let v := reg1 th a
    match v.tok with
    | some k => abortRegion s t k
    | none => abortWith s issue t (why .user v.data)

/-- ABORT (R176). -/
def execAbort (a : Reg) (s : State) : Host.Outcome State Fault Refusal :=
  runWord (.abort a) (fun issue ts s => ts.foldl (abortThread a issue) s) s

/-- A word that writes one register from a thread's operand, poison included. -/
def probeWord (i : Instr) (d a : Reg) (wide : Bool) (f : Option Word → Word) (s : State) : Host.Outcome State Fault Refusal :=
  runWord i (fun _ ts s => ts.foldl (fun s t =>
    modTh s t fun th => setReg th d.toNat (.clean (f (firstTok (readRegs th a.toNat (if wide then 2 else 1)))))) s) s

/-- PTEST (R177). -/
def execPtest (d a : Reg) (wide : Bool) (s : State) : Host.Outcome State Fault Refusal :=
  probeWord (.ptest d a wide) d a wide (fun k => if k.isSome then 1 else 0) s

/-- PTOK (R177). -/
def execPtok (d a : Reg) (wide : Bool) (s : State) : Host.Outcome State Fault Refusal :=
  probeWord (.ptok d a wide) d a wide (fun k => k.getD 0) s

/-- What PREAD returns for a token: the live record, record 0 as R149 gives, or zeros (R143, R149, R178). -/
def preadBits (s : State) (core slot : Nat) (tok : Word) : BitVec 256 :=
  if tokIndex tok = 0 then
    recBits { PoisonRec.zero with cause := causeCode .overflow, status := stFinal, merges := (recAt s core 0).merges }
  else if tokenLive s core slot tok then recBits (recAt s core (tokIndex tok)) else 0

/-- PREAD for one thread (R178). -/
def preadThread (d a : Reg) (s : State) (t : Nat) : State :=
  match thOf s t, wgAt s (wgOf t) with
  | some th, some w =>
    let bits := preadBits s w.core w.slot (readReg th a.toNat).data
    setTh s t (setRegs th d.toNat (splitRegs 8 bits.toNat))
  | _, _ => s

/-- PREAD (R178). -/
def execPread (d a : Reg) (s : State) : Host.Outcome State Fault Refusal :=
  runWord (.pread d a) (fun _ ts s => ts.foldl (preadThread d a) s) s

/-- PMAKE without .tok joins all threads of a workgroup in one record, whose address is that of the lowest-indexed: the address of the
first thread of the workgroup stands for the others (R179). -/
def pmakeAddr (s : State) (a : Reg) (ts : List Nat) (wg : Nat) : Option DWord :=
  ts.findSome? fun u =>
    if wgOf u = wg then
      match thOf s u with
      | some th => match (reg2 th a).tok with
        | some _ => none
        | none => some (reg2 th a).data
      | none => none
    else none

/-- PMAKE for one thread (R179); `s0` is the state before the word, in which the issue's operands stand. -/
def pmakeThread (d a : Reg) (tok : Bool) (issue : Nat) (ts : List Nat) (s0 s : State) (t : Nat) : State :=
  match thOf s t with
  | none => s
  | some th =>
    if tok then setTh s t (setReg th d.toNat (.bad (readReg th a.toNat).data))
    else
      match (reg2 th a).tok with
      | some k => setTh s t (setReg th d.toNat (.bad k))
      | none =>
        let k := threadToken s issue t ⟨.user, pmakeAddr s0 a ts (wgOf t), false, false⟩
        modTh k.1 t fun th => setReg th d.toNat (.bad k.2)

/-- PMAKE (R179). -/
def execPmake (d a : Reg) (tok : Bool) (s : State) : Host.Outcome State Fault Refusal :=
  runWord (.pmake d a tok) (fun issue ts s => ts.foldl (fun x t =>
    match thOf s t with
    | some _ => pmakeThread d a tok issue ts s x t
    | none => x) s) s

/-- The register as CHKERR leaves it: COUNT, the engine bits and FIRST clear, STICKY kept (R165, R180). -/
def cirCleared (x : DWord) : DWord := x &&& 0x8000000000000000#64

/-- CHKERR: every thread of a workgroup receives the register, and it is cleared once (R180). -/
def execChkerr (d : Reg) (keep : Bool) (s : State) : Host.Outcome State Fault Refusal :=
  runWord (.chkerr d keep) (fun _ ts s =>
    let s1 := ts.foldl (fun s t => match wgAt s (wgOf t) with
      | some w => writeD s t d 2 (cleanVal w.cir)
      | none => s) s
    if keep then s1 else (wgsOf ts).foldl (fun s w => modWg s w fun w => { w with cir := cirCleared w.cir }) s1) s

/-- REPLAY_RESUME: a thread parked in replay restarts once no record of its list is pending, and recovers when one has been refused (R162). Leaving
the park is an acquire at .sys either way (R309, R370). -/
def execReplayResume (th : Nat) (s : State) : Host.Outcome State Fault Refusal :=
  .next (match thOf s th, wgAt s (wgOf th) with
    | some x, some w =>
      match x.cond with
      | .replay late =>
        if !wgActive s w then s
        else if recStatusIn s w.core x.region.list stRefused then 
          late.foldl (fun s k => taint s th k) (recover (dropSelfInv s w.core .sys) th x.region.first)
        else if recStatusIn s w.core x.region.list stPending then s
        else restart (dropSelfInv s w.core .sys) th late
      | _ => s
    | _, _ => s)

end Sys2Proof.Machine
end

