-- ==== Sys2Proof/Machine/Xfers.lean ====
section
/-! DEFINITION. Fabric transfers at their source: XFER, the start of transfers, their packets, and their completion (R409 to R413). -/

namespace Sys2Proof.Machine

/-! ## Descriptors (R410, R411) -/

/-- The fields of a transfer descriptor. -/
def xferDescOf (x : BitVec 256) : XferDesc :=
  let f (lo n : Nat) : Nat := (x.extractLsb' lo n).toNat
  { dslot := f 248 8, dcore := f 240 8, stream := f 236 4, ord := f 235 1 = 1, dkind := f 232 2, sspace := f 230 2, ddev := f 212 12,
    bar := if f 160 32 = 0xFFFFFFFF then none else some (f 160 32), bytes := f 128 32, daddr := f 64 64, saddr := f 0 64 }

/-- Whether reserved bits are zero and codes assigned (R410). -/
def xferCodesOk (x : BitVec 256) : Bool :=
  x.extractLsb' 234 1 = 0 && x.extractLsb' 224 6 = 0 && x.extractLsb' 192 20 = 0 && decide ((xferDescOf x).dkind ≤ 2)
    && decide ((xferDescOf x).sspace ≤ 1)

/-- The first failing check of a descriptor (R411). -/
def xferFault (s : State) (w : Workgroup) (x : BitVec 256) : Option Cause :=
  let d := xferDescOf x
  let needsEnd : Bool := d.dkind = 1 || d.bar.isSome
  if !xferCodesOk x || d.bytes < 16 || 2 ^ 30 < d.bytes || (partAt s w.part).pftid = 0 then some .format
  else if d.bytes % 16 ≠ 0 || d.daddr % 16 ≠ 0 || d.saddr % 16 ≠ 0 || (match d.bar with
      | some a => a % 16 ≠ 0
      | none => false)
      || (d.dkind ≠ 1 && 2 ^ 39 ≤ d.daddr) || (d.dkind = 1 && 2 ^ 32 ≤ d.daddr) || (d.sspace = 0 && 2 ^ 32 ≤ d.saddr)
      || (d.dkind ≠ 2 && (1025 < d.ddev || d.ddev = s.pkg || !s.joined)) || (needsEnd && 255 < d.dslot) then some .invalid
  else if d.sspace = 0 && 128 * w.hdr.scratch < d.saddr + d.bytes then some .spadBounds
  else if d.sspace = 1 && 2 ^ 56 < d.saddr + d.bytes then some .noncanon
  else none

/-- A transfer that a descriptor's fault ends at once: an event, and the number complete; nothing is sent (R411). -/
def xferRefused (s : State) (issue t : Nat) (th : Thread) (w : Workgroup) (tl n : Nat) (c : Cause) (saddr : Nat) : State :=
  let k := makeToken s (orgOf s issue t th) (why c (BitVec.ofNat 64 saddr))
  completeNumber (recordEvent k.1 (wgOf t) w.launch (some 50) k.2) (wgOf t) tl n

/-- XFER for one thread (R411). -/
def xferThread (d a : Reg) (tl : BitVec 3) (issue : Nat) (s : State) (t : Nat) (th : Thread) (w : Workgroup) : State :=
  match firstTok (readRegs th a.toNat 8) with
  | some k => suppress s t k [(d.toNat, 2)]
  | none =>
    let x := octetRec th a.toNat
    let desc := xferDescOf x
    let n := nextNumber s (wgOf t) tl.toNat
    let s := match xferFault n.2 w x with
      | some c => xferRefused n.2 issue t th w tl.toNat n.1 c desc.saddr
      | none =>
        let k := freshId n.2
        let own := k.2.nextIssue
        let e : Xfer :=
          { desc := desc, core := w.core, wg := wgOf t, launch := w.launch, th := t, issue := own, span := th.span, off := th.off, tl := tl.toNat,
            num := n.1, part := w.part, running := false, entry := 0, entered := 0, sent := 0, done := [], event := none }
        { k.2 with nextIssue := own + 1, xfers := put k.2.xfers k.1 e }
    writeD s t d 2 (cleanVal (BitVec.ofNat 64 n.1))

/-- XFER (R411). -/
def execXfer (d a : Reg) (tl : BitVec 3) (s : State) : Host.Outcome State Fault Refusal :=
  threadWord (.xfer d a tl) (fun issue s t th w => xferThread d a tl issue s t th w) s

/-! ## Packets (R412, R413) -/

/-- The destination range of packet j. -/
def packetRange (d : XferDesc) (j : Nat) : Nat × Nat :=
  let lo := max d.daddr (256 * (d.daddr / 256 + j))
  (lo, min (d.daddr + d.bytes) (256 * (d.daddr / 256 + j) + 256) - lo)

/-- What one 16-byte unit of a transfer's source gives (R265, R413). -/
def xferUnit (s : State) (x : Xfer) (a : Nat) : Except Why (List Byte) × State :=
  let va := BitVec.ofNat 64 a
  let at' (s : State) (l : Loc) : Except Why (List Byte) × State :=
    match poisonAt s l 16 with
    | some c => (.error (why c va), s)
    | none =>
      let r := readLoc s l 16
      (.ok r.1, r.2)
  if x.desc.sspace = 0 then at' s (.spad x.wg a)
  else
    let r := flatChecks s x.core x.part va 16 .read 0
    match r.1 with
    | .error y => (.error y, r.2)
    | .ok l => if isRemote (locHome r.2 l) then (.error (why .invalid va), r.2) else at' r.2 l

def xferOrg (s : State) (x : Xfer) : Org :=
  { issue := x.issue, core := x.core, wg := x.wg, span := x.span, off := x.off, lane := laneFor s x.wg x.th, idx := idxOf x.th }

/-- The first fault of a transfer is its event (R413). -/
def xferEvent (s : State) (k : Nat) (tok : Word) : State :=
  { s with xfers := alter s.xfers k fun x => { x with event := match x.event with
      | some e => some e
      | none => some tok } }

/-- The units from an address on: bytes or causes, with a record for each fault. -/
def xferUnits (k : Nat) (x : Xfer) : List Nat → State → List (Except Cause (List Byte)) × State
  | [], s => ([], s)
  | a :: as, s =>
    let r := xferUnit s x a
    match r.1 with
    | .ok bs =>
      let y := xferUnits k x as r.2
      (.ok bs :: y.1, y.2)
    | .error f =>
      let t := makeToken r.2 (xferOrg r.2 x) f
      let y := xferUnits k x as (xferEvent t.1 k t.2)
      (.error f.cause :: y.1, y.2)

/-- The payload of a packet: for each destination sector that it touches its bytes, or zeros and the cause that poisons it (R413). -/
def payloadOf (s : State) (k : Nat) (x : Xfer) (lo n : Nat) : List (List Byte × Option Cause) × State :=
  (sectorParts lo n).foldl (fun (acc : List (List Byte × Option Cause) × State) p =>
    let r := xferUnits k x (unitsOf (x.desc.saddr + (p.1 - x.desc.daddr)) p.2) acc.2
    let c := unitCause r.1
    (acc.1 ++ [(if c.isSome then List.replicate p.2 0#8 else unitBytes r.1, c)], r.2)) ([], s)

/-- Whether the stores that the issuing thread released before the XFER to a source unit have been performed (R265, R411). -/
def xferUnitReady (s : State) (k : Nat) (x : Xfer) (a : Nat) : Bool :=
  let loc : Option Loc :=
    if x.desc.sspace = 0 then some (.spad x.wg a)
    else match (translate s x.core x.part a .read 0).1 with
      | .ok l => some l
      | .error _ => none
  match loc with
  | none => true
  | some l => !(s.ops.any fun (j, o) => decide (j < k) && !isLoad o && o.parts.any (fun m => m.th = x.th) && locsMeet o.loc o.n l 16)

/-- The same for every unit of a source range. -/
def xferSourceReady (s : State) (k : Nat) (x : Xfer) (a n : Nat) : Bool := (List.range (n / 16)).all fun j => xferUnitReady s k x (a + 16 * j)

/-- The next packet of a running transfer is read and given to its flow, in the flow's order of entry (R412, R421); to a device that is declared lost it is unanswered at once
(R400). -/
def sendPacket (s : State) (k : Nat) (x : Xfer) : State :=
  let j := x.sent
  let r := packetRange x.desc j
  if packetCount x.desc ≤ j || !flowTurn s (xferFlow x) (x.entered, x.th, x.entry) || !xferSourceReady s k x (x.desc.saddr + (r.1 - x.desc.daddr)) r.2 then s
  else
    let p := payloadOf s k x r.1 r.2
    let s := { p.2 with xfers := alter p.2.xfers k fun x => { x with sent := j + 1 } }
    let d := xferDest x.desc
    if s.noticed.contains d then packetDone s k j none (some .remoteUnacked)
    else
      let e : Option Endpoint :=
        if x.desc.dkind = 1 || x.desc.bar.isSome
        then some { core := x.desc.dcore, slot := x.desc.dslot, bar := x.desc.bar, spad := x.desc.dkind = 1 } else none
      let pkt : Packet :=
        { ftid := (partAt s x.part).pftid, sdev := s.pkg, score := x.core, dest := d, stream := x.desc.stream, seq := 0, ord := x.desc.ord,
          op := .transfer, addr := r.1, endpoint := e, len := r.2, bytes := p.1.flatMap (·.1), poison := p.1.map (·.2.isSome),
          cause := (p.1.findSome? (·.2)).getD .ecc, key := fabKeyOf s x.part d, fromPeer := none, named := none,
          born := 0 }
      let s := modWg s x.wg fun w => { w with moved := w.moved + r.2 }
      queueReq s (xferFlow x) (.xfer k j) pkt

/-- XFER_START: the hub starts the oldest queued transfer when fewer than 64 run (R411), and every running transfer sends its next packet
(R412; log 23). -/
def execXferStart (s : State) : Host.Outcome State Fault Refusal :=
  .next (
    let running := s.xfers.filter (·.2.running)
    let s := match s.xfers.find? fun p => !p.2.running with
      | some (k, _) =>
        if running.length < 64 then
          let n := freshId s
          { n.2 with xfers := alter n.2.xfers k fun x => { x with running := true, entry := n.1, entered := n.2.now } }
        else s
      | none => s
    (s.xfers.filter (·.2.running)).foldl (fun s (k, _) => match look s.xfers k with
      | some x => sendPacket s k x
      | none => s) s)

/-- XFER_COMPLETE: every packet is delivered or left unanswered; the event is recorded, and the number completes (R413). -/
def execXferComplete (k : Nat) (s : State) : Host.Outcome State Fault Refusal :=
  .next (match look s.xfers k with
    | none => s
    | some x =>
      if !x.running || x.done.length < packetCount x.desc then s
      else
        let t := match x.event with
          | some tok => recordEvent s x.wg x.launch (some 50) tok
          | none => s
        endIssue (completeNumber { t with xfers := del t.xfers k } x.wg x.tl x.num) x.issue)

end Sys2Proof.Machine
end

