-- ==== Sys2Proof/Machine/Dispatch.lean ====
section
/-! DEFINITION. The meaning of every constructor of Instr, one arm each (R3, spec/opcode_table.json). -/

namespace Sys2Proof.Machine

def exec (i : Instr) (s : State) : Host.Outcome State Fault Refusal :=
  match i with
  | .iadd d a b => Sys2Proof.Machine.execIadd d a b s
  | .iaddImm d a imm => Sys2Proof.Machine.execIaddImm d a imm s
  | .iaddW d a b => Sys2Proof.Machine.execIaddW d a b s
  | .iaddWImm d a imm => Sys2Proof.Machine.execIaddWImm d a imm s
  | .isub d a b => Sys2Proof.Machine.execIsub d a b s
  | .isubW d a b => Sys2Proof.Machine.execIsubW d a b s
  | .imul d a b => Sys2Proof.Machine.execImul d a b s
  | .imulImm d a imm => Sys2Proof.Machine.execImulImm d a imm s
  | .imulW d a b => Sys2Proof.Machine.execImulW d a b s
  | .imulWImm d a imm => Sys2Proof.Machine.execImulWImm d a imm s
  | .imulhi d a b nat => Sys2Proof.Machine.execImulhi d a b nat s
  | .imulhiW d a b nat => Sys2Proof.Machine.execImulhiW d a b nat s
  | .imad d a b c => Sys2Proof.Machine.execImad d a b c s
  | .imadW d a b c => Sys2Proof.Machine.execImadW d a b c s
  | .imin d a b nat => Sys2Proof.Machine.execImin d a b nat s
  | .iminImm d a imm nat => Sys2Proof.Machine.execIminImm d a imm nat s
  | .iminW d a b nat => Sys2Proof.Machine.execIminW d a b nat s
  | .iminWImm d a imm nat => Sys2Proof.Machine.execIminWImm d a imm nat s
  | .imax d a b nat => Sys2Proof.Machine.execImax d a b nat s
  | .imaxImm d a imm nat => Sys2Proof.Machine.execImaxImm d a imm nat s
  | .imaxW d a b nat => Sys2Proof.Machine.execImaxW d a b nat s
  | .imaxWImm d a imm nat => Sys2Proof.Machine.execImaxWImm d a imm nat s
  | .iabs d a => Sys2Proof.Machine.execIabs d a s
  | .iabsW d a => Sys2Proof.Machine.execIabsW d a s
  | .and d a b => Sys2Proof.Machine.execAnd d a b s
  | .andImm d a imm => Sys2Proof.Machine.execAndImm d a imm s
  | .andW d a b => Sys2Proof.Machine.execAndW d a b s
  | .andWImm d a imm => Sys2Proof.Machine.execAndWImm d a imm s
  | .or d a b => Sys2Proof.Machine.execOr d a b s
  | .orImm d a imm => Sys2Proof.Machine.execOrImm d a imm s
  | .orW d a b => Sys2Proof.Machine.execOrW d a b s
  | .orWImm d a imm => Sys2Proof.Machine.execOrWImm d a imm s
  | .xor d a b => Sys2Proof.Machine.execXor d a b s
  | .xorImm d a imm => Sys2Proof.Machine.execXorImm d a imm s
  | .xorW d a b => Sys2Proof.Machine.execXorW d a b s
  | .xorWImm d a imm => Sys2Proof.Machine.execXorWImm d a imm s
  | .andn d a b => Sys2Proof.Machine.execAndn d a b s
  | .andnW d a b => Sys2Proof.Machine.execAndnW d a b s
  | .shl d a b => Sys2Proof.Machine.execShl d a b s
  | .shlImm d a imm => Sys2Proof.Machine.execShlImm d a imm s
  | .shlW d a b => Sys2Proof.Machine.execShlW d a b s
  | .shlWImm d a imm => Sys2Proof.Machine.execShlWImm d a imm s
  | .shr d a b => Sys2Proof.Machine.execShr d a b s
  | .shrImm d a imm => Sys2Proof.Machine.execShrImm d a imm s
  | .shrW d a b => Sys2Proof.Machine.execShrW d a b s
  | .shrWImm d a imm => Sys2Proof.Machine.execShrWImm d a imm s
  | .shra d a b => Sys2Proof.Machine.execShra d a b s
  | .shraImm d a imm => Sys2Proof.Machine.execShraImm d a imm s
  | .shraW d a b => Sys2Proof.Machine.execShraW d a b s
  | .shraWImm d a imm => Sys2Proof.Machine.execShraWImm d a imm s
  | .rotl d a b => Sys2Proof.Machine.execRotl d a b s
  | .rotlImm d a imm => Sys2Proof.Machine.execRotlImm d a imm s
  | .rotlW d a b => Sys2Proof.Machine.execRotlW d a b s
  | .rotlWImm d a imm => Sys2Proof.Machine.execRotlWImm d a imm s
  | .shf d a b c right => Sys2Proof.Machine.execShf d a b c right s
  | .shfW d a b c right => Sys2Proof.Machine.execShfW d a b c right s
  | .bfx d a b nat => Sys2Proof.Machine.execBfx d a b nat s
  | .bfxW d a b nat => Sys2Proof.Machine.execBfxW d a b nat s
  | .bfi d a b c => Sys2Proof.Machine.execBfi d a b c s
  | .bfiW d a b c => Sys2Proof.Machine.execBfiW d a b c s
  | .clz d a => Sys2Proof.Machine.execClz d a s
  | .clzW d a => Sys2Proof.Machine.execClzW d a s
  | .popc d a => Sys2Proof.Machine.execPopc d a s
  | .popcW d a => Sys2Proof.Machine.execPopcW d a s
  | .brev d a => Sys2Proof.Machine.execBrev d a s
  | .brevW d a => Sys2Proof.Machine.execBrevW d a s
  | .prmt d a b c => Sys2Proof.Machine.execPrmt d a b c s
  | .prmtW d a b c => Sys2Proof.Machine.execPrmtW d a b c s
  | .icmp d a b cc => Sys2Proof.Machine.execIcmp d a b cc s
  | .icmpImm d a imm cc => Sys2Proof.Machine.execIcmpImm d a imm cc s
  | .icmpW d a b cc => Sys2Proof.Machine.execIcmpW d a b cc s
  | .icmpWImm d a imm cc => Sys2Proof.Machine.execIcmpWImm d a imm cc s
  | .sel d a b c => Sys2Proof.Machine.execSel d a b c s
  | .selW d a b c => Sys2Proof.Machine.execSelW d a b c s
  | .lea d a b sh => Sys2Proof.Machine.execLea d a b sh s
  | .leaW d a b sh nat => Sys2Proof.Machine.execLeaW d a b sh nat s
  | .movi d imm => Sys2Proof.Machine.execMovi d imm s
  | .moviW d imm => Sys2Proof.Machine.execMoviW d imm s
  | .fadd d a b rm => Sys2Proof.Machine.execFadd d a b rm s
  | .faddImm d a imm rm => Sys2Proof.Machine.execFaddImm d a imm rm s
  | .fsub d a b rm => Sys2Proof.Machine.execFsub d a b rm s
  | .fmul d a b rm => Sys2Proof.Machine.execFmul d a b rm s
  | .fmulImm d a imm rm => Sys2Proof.Machine.execFmulImm d a imm rm s
  | .ffma d a b c rm => Sys2Proof.Machine.execFfma d a b c rm s
  | .fmin d a b => Sys2Proof.Machine.execFmin d a b s
  | .fminImm d a imm => Sys2Proof.Machine.execFminImm d a imm s
  | .fmax d a b => Sys2Proof.Machine.execFmax d a b s
  | .fmaxImm d a imm => Sys2Proof.Machine.execFmaxImm d a imm s
  | .fcmp d a b cc => Sys2Proof.Machine.execFcmp d a b cc s
  | .fcmpImm d a imm cc => Sys2Proof.Machine.execFcmpImm d a imm cc s
  | .fclass d a => Sys2Proof.Machine.execFclass d a s
  | .frnd d a rm => Sys2Proof.Machine.execFrnd d a rm s
  | .frcp d a rm => Sys2Proof.Machine.execFrcp d a rm s
  | .frsq d a rm => Sys2Proof.Machine.execFrsq d a rm s
  | .fsqrt d a rm => Sys2Proof.Machine.execFsqrt d a rm s
  | .fexp2 d a => Sys2Proof.Machine.execFexp2 d a s
  | .flog2 d a => Sys2Proof.Machine.execFlog2 d a s
  | .fsin d a => Sys2Proof.Machine.execFsin d a s
  | .fcos d a => Sys2Proof.Machine.execFcos d a s
  | .ftanh d a => Sys2Proof.Machine.execFtanh d a s
  | .hadd2 d a b rm => Sys2Proof.Machine.execHadd2 d a b rm s
  | .hadd2Imm d a imm rm => Sys2Proof.Machine.execHadd2Imm d a imm rm s
  | .hmul2 d a b rm => Sys2Proof.Machine.execHmul2 d a b rm s
  | .hmul2Imm d a imm rm => Sys2Proof.Machine.execHmul2Imm d a imm rm s
  | .hfma2 d a b c rm => Sys2Proof.Machine.execHfma2 d a b c rm s
  | .qdot4 d a b c fa fb rm => Sys2Proof.Machine.execQdot4 d a b c fa fb rm s
  | .idot4 d a b c na nb => Sys2Proof.Machine.execIdot4 d a b c na nb s
  | .cvt d a df sf rm => Sys2Proof.Machine.execCvt d a df sf rm s
  | .cvtPk d a b df sf rm => Sys2Proof.Machine.execCvtPk d a b df sf rm s
  | .pack2 d a b k rm => Sys2Proof.Machine.execPack2 d a b k rm s
  | .unpk2 d a k => Sys2Proof.Machine.execUnpk2 d a k s
  | .mov d a => Sys2Proof.Machine.execMov d a s
  | .sysr d sr => Sys2Proof.Machine.execSysr d sr s
  | .nop => Sys2Proof.Machine.execNop s
  | .next disp => Sys2Proof.Machine.execNext disp s
  | .br a disp z => Sys2Proof.Machine.execBr a disp z s
  | .brx a => Sys2Proof.Machine.execBrx a s
  | .call d disp => Sys2Proof.Machine.execCall d disp s
  | .callx d a => Sys2Proof.Machine.execCallx d a s
  | .ret a => Sys2Proof.Machine.execRet a s
  | .exit => Sys2Proof.Machine.execExit s
  | .refill d disp => Sys2Proof.Machine.execRefill d disp s
  | .yield disp => Sys2Proof.Machine.execYield disp s
  | .syscall a n disp => Sys2Proof.Machine.execSyscall a n disp s
  | .bkpt n disp => Sys2Proof.Machine.execBkpt n disp s
  | .rbegin d disp tx => Sys2Proof.Machine.execRbegin d disp tx s
  | .commit a b replay => Sys2Proof.Machine.execCommit a b replay s
  | .abort a => Sys2Proof.Machine.execAbort a s
  | .ptest d a wide => Sys2Proof.Machine.execPtest d a wide s
  | .ptok d a wide => Sys2Proof.Machine.execPtok d a wide s
  | .pread d a => Sys2Proof.Machine.execPread d a s
  | .pmake d a tok => Sys2Proof.Machine.execPmake d a tok s
  | .chkerr d keep => Sys2Proof.Machine.execChkerr d keep s
  | .gred d a c op rm => Sys2Proof.Machine.execGred d a c op rm s
  | .gscan d a c op excl rm => Sys2Proof.Machine.execGscan d a c op excl rm s
  | .gshf d a b mode => Sys2Proof.Machine.execGshf d a b mode s
  | .gbcast d a b => Sys2Proof.Machine.execGbcast d a b s
  | .gredW d a c op rm => Sys2Proof.Machine.execGredW d a c op rm s
  | .gscanW d a c op excl rm => Sys2Proof.Machine.execGscanW d a c op excl rm s
  | .gshfW d a b mode => Sys2Proof.Machine.execGshfW d a b mode s
  | .gbcastW d a b => Sys2Proof.Machine.execGbcastW d a b s
  | .gvote d a c mode => Sys2Proof.Machine.execGvote d a c mode s
  | .regsize d a tryIt => Sys2Proof.Machine.execRegsize d a tryIt s
  | .barinit a b c => Sys2Proof.Machine.execBarinit a b c s
  | .arrive d a b mo => Sys2Proof.Machine.execArrive d a b mo s
  | .waitph d a b mo => Sys2Proof.Machine.execWaitph d a b mo s
  | .testph d a b mo => Sys2Proof.Machine.execTestph d a b mo s
  | .ld d a off sz cp sx mo => Sys2Proof.Machine.execLd d a off sz cp sx mo s
  | .ldRec d a b off sz cp two mo => Sys2Proof.Machine.execLdRec d a b off sz cp two mo s
  | .st d a off sz cp mo => Sys2Proof.Machine.execSt d a off sz cp mo s
  | .stRec d a b off sz cp two mo => Sys2Proof.Machine.execStRec d a b off sz cp two mo s
  | .lds d a off sz sx mo => Sys2Proof.Machine.execLds d a off sz sx mo s
  | .sts d a off sz mo => Sys2Proof.Machine.execSts d a off sz mo s
  | .ldrec d a off cp spad mo => Sys2Proof.Machine.execLdrec d a off cp spad mo s
  | .atom d a b off sz cp op mo => Sys2Proof.Machine.execAtom d a b off sz cp op mo s
  | .atomRec d a b off sz cp op mo => Sys2Proof.Machine.execAtomRec d a b off sz cp op mo s
  | .atoms d a b off sz op mo => Sys2Proof.Machine.execAtoms d a b off sz op mo s
  | .pref a off cp => Sys2Proof.Machine.execPref a off cp s
  | .prefRec a b off cp two => Sys2Proof.Machine.execPrefRec a b off cp two s
  | .waitcnt ldc stc cpc mxc => Sys2Proof.Machine.execWaitcnt ldc stc cpc mxc s
  | .mxgo d a tl => Sys2Proof.Machine.execMxgo d a tl s
  | .mxrd d a b tile => Sys2Proof.Machine.execMxrd d a b tile s
  | .mxwr d a b tile => Sys2Proof.Machine.execMxwr d a b tile s
  | .cpgo d a tl => Sys2Proof.Machine.execCpgo d a tl s
  | .arrivex a b c tl => Sys2Proof.Machine.execArrivex a b c tl s
  | .tlread d tl iss => Sys2Proof.Machine.execTlread d tl iss s
  | .tlwait a tl => Sys2Proof.Machine.execTlwait a tl s
  | .cinv a b sc all => Sys2Proof.Machine.execCinv a b sc all s
  | .icinv a b sc all => Sys2Proof.Machine.execIcinv a b sc all s
  | .freeze d a b c tl sc => Sys2Proof.Machine.execFreeze d a b c tl sc s
  | .thaw d a tl => Sys2Proof.Machine.execThaw d a tl s
  | .fence d mo => Sys2Proof.Machine.execFence d mo s
  | .fork d a disp reach => Sys2Proof.Machine.execFork d a disp reach s
  | .join d a => Sys2Proof.Machine.execJoin d a s
  | .launch d a c tl => Sys2Proof.Machine.execLaunch d a c tl s
  | .xfer d a tl => Sys2Proof.Machine.execXfer d a tl s
  | .swalloc d a b c => Sys2Proof.Machine.execSwalloc d a b c s
  | .swfree d a => Sys2Proof.Machine.execSwfree d a s
  | .iaddPair d b other => Sys2Proof.Machine.execIaddPair d b other s
  | .isubPair d b other => Sys2Proof.Machine.execIsubPair d b other s
  | .imulPair d b other => Sys2Proof.Machine.execImulPair d b other s
  | .iminPair nat d b other => Sys2Proof.Machine.execIminPair nat d b other s
  | .imaxPair nat d b other => Sys2Proof.Machine.execImaxPair nat d b other s
  | .andPair d b other => Sys2Proof.Machine.execAndPair d b other s
  | .orPair d b other => Sys2Proof.Machine.execOrPair d b other s
  | .xorPair d b other => Sys2Proof.Machine.execXorPair d b other s
  | .andnPair d b other => Sys2Proof.Machine.execAndnPair d b other s
  | .shlPair d b other => Sys2Proof.Machine.execShlPair d b other s
  | .shrPair d b other => Sys2Proof.Machine.execShrPair d b other s
  | .shraPair d b other => Sys2Proof.Machine.execShraPair d b other s
  | .rotlPair d b other => Sys2Proof.Machine.execRotlPair d b other s
  | .icmpPair cc d b other => Sys2Proof.Machine.execIcmpPair cc d b other s
  | .movPair d b other => Sys2Proof.Machine.execMovPair d b other s
  | .iaddPairImm d imm other => Sys2Proof.Machine.execIaddPairImm d imm other s
  | .imulPairImm d imm other => Sys2Proof.Machine.execImulPairImm d imm other s
  | .andPairImm d imm other => Sys2Proof.Machine.execAndPairImm d imm other s
  | .orPairImm d imm other => Sys2Proof.Machine.execOrPairImm d imm other s
  | .xorPairImm d imm other => Sys2Proof.Machine.execXorPairImm d imm other s
  | .shlPairImm d imm other => Sys2Proof.Machine.execShlPairImm d imm other s
  | .shrPairImm d imm other => Sys2Proof.Machine.execShrPairImm d imm other s
  | .shraPairImm d imm other => Sys2Proof.Machine.execShraPairImm d imm other s
  | .moviPair d imm other => Sys2Proof.Machine.execMoviPair d imm other s
  | .iabsPair d b other => Sys2Proof.Machine.execIabsPair d b other s
  | .clzPair d b other => Sys2Proof.Machine.execClzPair d b other s
  | .popcPair d b other => Sys2Proof.Machine.execPopcPair d b other s
  | .brevPair d b other => Sys2Proof.Machine.execBrevPair d b other s
  | .faddPair rm d b other => Sys2Proof.Machine.execFaddPair rm d b other s
  | .fsubPair rm d b other => Sys2Proof.Machine.execFsubPair rm d b other s
  | .fmulPair rm d b other => Sys2Proof.Machine.execFmulPair rm d b other s
  | .fminPair d b other => Sys2Proof.Machine.execFminPair d b other s
  | .fmaxPair d b other => Sys2Proof.Machine.execFmaxPair d b other s
  | .fcmpPair cc d b other => Sys2Proof.Machine.execFcmpPair cc d b other s
  | .hadd2Pair rm d b other => Sys2Proof.Machine.execHadd2Pair rm d b other s
  | .hmul2Pair rm d b other => Sys2Proof.Machine.execHmul2Pair rm d b other s
  | .frcpPair rm d b other => Sys2Proof.Machine.execFrcpPair rm d b other s
  | .frsqPair rm d b other => Sys2Proof.Machine.execFrsqPair rm d b other s
  | .fsqrtPair rm d b other => Sys2Proof.Machine.execFsqrtPair rm d b other s
  | .fexp2Pair d b other => Sys2Proof.Machine.execFexp2Pair d b other s
  | .flog2Pair d b other => Sys2Proof.Machine.execFlog2Pair d b other s
  | .fsinPair d b other => Sys2Proof.Machine.execFsinPair d b other s
  | .fcosPair d b other => Sys2Proof.Machine.execFcosPair d b other s
  | .ftanhPair d b other => Sys2Proof.Machine.execFtanhPair d b other s
  | .cvtI32Fp32Pair rm d b other => Sys2Proof.Machine.execCvtI32Fp32Pair rm d b other s
  | .cvtFp32I32Pair rm d b other => Sys2Proof.Machine.execCvtFp32I32Pair rm d b other s
  | .illegalWord => Sys2Proof.Machine.execIllegalWord s
  | .fetchFault cause window => Sys2Proof.Machine.execFetchFault cause window s
  | .issueOpportunity core port => Sys2Proof.Machine.execIssueOpportunity core port s
  | .yieldEligible th => Sys2Proof.Machine.execYieldEligible th s
  | .groupUnpark g => Sys2Proof.Machine.execGroupUnpark g s
  | .rendezvousComplete wg => Sys2Proof.Machine.execRendezvousComplete wg s
  | .regsizeGrant wg => Sys2Proof.Machine.execRegsizeGrant wg s
  | .replayResume th => Sys2Proof.Machine.execReplayResume th s
  | .loadResult k => Sys2Proof.Machine.execLoadResult k s
  | .storeAck k => Sys2Proof.Machine.execStoreAck k s
  | .lateTaint k => Sys2Proof.Machine.execLateTaint k s
  | .homeStore k => Sys2Proof.Machine.execHomeStore k s
  | .homeAtomic k => Sys2Proof.Machine.execHomeAtomic k s
  | .clusterEviction cl line => Sys2Proof.Machine.execClusterEviction cl line s
  | .clusterInvalidation m => Sys2Proof.Machine.execClusterInvalidation m s
  | .clusterDowngrade m => Sys2Proof.Machine.execClusterDowngrade m s
  | .dirRead cl line => Sys2Proof.Machine.execDirRead cl line s
  | .dirNotice m => Sys2Proof.Machine.execDirNotice m s
  | .dirPkgInvalidation m => Sys2Proof.Machine.execDirPkgInvalidation m s
  | .dirRecall die line => Sys2Proof.Machine.execDirRecall die line s
  | .invalidationAck m => Sys2Proof.Machine.execInvalidationAck m s
  | .pkgDirRead m => Sys2Proof.Machine.execPkgDirRead m s
  | .pkgDirInvalidation m => Sys2Proof.Machine.execPkgDirInvalidation m s
  | .pkgDirNotice m => Sys2Proof.Machine.execPkgDirNotice m s
  | .pkgDirRecall line => Sys2Proof.Machine.execPkgDirRecall line s
  | .tlbWalk core part va acc => Sys2Proof.Machine.execTlbWalk core part va acc s
  | .faultQueueDeliver part => Sys2Proof.Machine.execFaultQueueDeliver part s
  | .serviceQueueDeliver part => Sys2Proof.Machine.execServiceQueueDeliver part s
  | .debugRelease who part reqid target => Sys2Proof.Machine.execDebugRelease who part reqid target s
  | .mxMma turn => Sys2Proof.Machine.execMxMma turn s
  | .mxDrain turn => Sys2Proof.Machine.execMxDrain turn s
  | .mxLoad turn => Sys2Proof.Machine.execMxLoad turn s
  | .mxClear turn => Sys2Proof.Machine.execMxClear turn s
  | .mxElementAccess core => Sys2Proof.Machine.execMxElementAccess core s
  | .mxOpComplete core k => Sys2Proof.Machine.execMxOpComplete core k s
  | .tandemTimeout core k => Sys2Proof.Machine.execTandemTimeout core k s
  | .copyStart core => Sys2Proof.Machine.execCopyStart core s
  | .copyChunkDone core k chunk => Sys2Proof.Machine.execCopyChunkDone core k chunk s
  | .copyComplete core k => Sys2Proof.Machine.execCopyComplete core k s
  | .deferredArrival core k => Sys2Proof.Machine.execDeferredArrival core k s
  | .dequeTake core => Sys2Proof.Machine.execDequeTake core s
  | .dequeSearch core => Sys2Proof.Machine.execDequeSearch core s
  | .freezeComplete k => Sys2Proof.Machine.execFreezeComplete k s
  | .replicaInvalidation m => Sys2Proof.Machine.execReplicaInvalidation m s
  | .thawAck m => Sys2Proof.Machine.execThawAck m s
  | .launchPortPush who q record whole => Sys2Proof.Machine.execLaunchPortPush who q record whole s
  | .launchActivate q device => Sys2Proof.Machine.execLaunchActivate q device s
  | .cohortPlace => Sys2Proof.Machine.execCohortPlace s
  | .cohortReserving l => Sys2Proof.Machine.execCohortReserving l s
  | .workgroupRetire wg => Sys2Proof.Machine.execWorkgroupRetire wg s
  | .launchComplete l => Sys2Proof.Machine.execLaunchComplete l s
  | .persistCharge wg => Sys2Proof.Machine.execPersistCharge wg s
  | .bridleInterval cores weights hub => Sys2Proof.Machine.execBridleInterval cores weights hub s
  | .thermalLimit die temp => Sys2Proof.Machine.execThermalLimit die temp s
  | .thermalShutdown die temp => Sys2Proof.Machine.execThermalShutdown die temp s
  | .queueAbort who q => Sys2Proof.Machine.execQueueAbort who q s
  | .qstatClearDrops who q => Sys2Proof.Machine.execQstatClearDrops who q s
  | .partitionPreempt who part => Sys2Proof.Machine.execPartitionPreempt who part s
  | .partitionSaved part => Sys2Proof.Machine.execPartitionSaved part s
  | .partitionResume who part => Sys2Proof.Machine.execPartitionResume who part s
  | .workgroupRestore wg => Sys2Proof.Machine.execWorkgroupRestore wg s
  | .floorClear who part => Sys2Proof.Machine.execFloorClear who part s
  | .pirqClear who part mask => Sys2Proof.Machine.execPirqClear who part mask s
  | .tlbinvPage who part va asid => Sys2Proof.Machine.execTlbinvPage who part va asid s
  | .tlbinvAsid who part asid => Sys2Proof.Machine.execTlbinvAsid who part asid s
  | .tlbinvPartition who part => Sys2Proof.Machine.execTlbinvPartition who part s
  | .tlbinvComplete part => Sys2Proof.Machine.execTlbinvComplete part s
  | .rsetServiced who part core idx gen => Sys2Proof.Machine.execRsetServiced who part core idx gen s
  | .rsetRefused who part core idx gen => Sys2Proof.Machine.execRsetRefused who part core idx gen s
  | .scompComplete who part reqid mask vals target => Sys2Proof.Machine.execScompComplete who part reqid mask vals target s
  | .scompAbandon who part reqid => Sys2Proof.Machine.execScompAbandon who part reqid s
  | .keyGenerate who slot => Sys2Proof.Machine.execKeyGenerate who slot s
  | .keyErase who slot => Sys2Proof.Machine.execKeyErase who slot s
  | .pinmapWrite who core map => Sys2Proof.Machine.execPinmapWrite who core map s
  | .flowresResume who part sdev score stream => Sys2Proof.Machine.execFlowresResume who part sdev score stream s
  | .flowresAbort who part sdev score stream => Sys2Proof.Machine.execFlowresAbort who part sdev score stream s
  | .signalTimelineWrite who part idx value => Sys2Proof.Machine.execSignalTimelineWrite who part idx value s
  | .registerWrite who off value aligned => Sys2Proof.Machine.execRegisterWrite who off value aligned s
  | .xferStart => Sys2Proof.Machine.execXferStart s
  | .fabricRequest pkt => Sys2Proof.Machine.execFabricRequest pkt s
  | .xferPacket pkt => Sys2Proof.Machine.execXferPacket pkt s
  | .fabricReply r => Sys2Proof.Machine.execFabricReply r s
  | .fabricRetry k => Sys2Proof.Machine.execFabricRetry k s
  | .xferBusyRetry k => Sys2Proof.Machine.execXferBusyRetry k s
  | .xferComplete k => Sys2Proof.Machine.execXferComplete k s
  | .flowResumeMessage f => Sys2Proof.Machine.execFlowResumeMessage f s
  | .flowAbortMessage f => Sys2Proof.Machine.execFlowAbortMessage f s
  | .mirrorUpdate k => Sys2Proof.Machine.execMirrorUpdate k s
  | .switchLost plane sw => Sys2Proof.Machine.execSwitchLost plane sw s
  | .deviceLost n => Sys2Proof.Machine.execDeviceLost n s
  | .lossNotice dest => Sys2Proof.Machine.execLossNotice dest s
  | .packetAgeDiscard pkt => Sys2Proof.Machine.execPacketAgeDiscard pkt s
  | .frameFecDrop pkt => Sys2Proof.Machine.execFrameFecDrop pkt s
  | .linkLaneFailure plane lanes => Sys2Proof.Machine.execLinkLaneFailure plane lanes s
  | .linkTrained plane n => Sys2Proof.Machine.execLinkTrained plane n s
  | .flowStateExpire f sdev => Sys2Proof.Machine.execFlowStateExpire f sdev s
  | .moduleReset => Sys2Proof.Machine.execModuleReset s
  | .powerOn image signature cxl => Sys2Proof.Machine.execPowerOn image signature cxl s
  | .powerOff => Sys2Proof.Machine.execPowerOff s
  | .spdmRequest call => Sys2Proof.Machine.execSpdmRequest call s
  | .redfishRequest req => Sys2Proof.Machine.execRedfishRequest req s
  | .debugUnlock valid token => Sys2Proof.Machine.execDebugUnlock valid token s
  | .eccError site => Sys2Proof.Machine.execEccError site s
  | .patrolScrub => Sys2Proof.Machine.execPatrolScrub s
  | .coreOffline core => Sys2Proof.Machine.execCoreOffline core s
  | .thermalLimitEnd die temps => Sys2Proof.Machine.execThermalLimitEnd die temps s
  | .switchRejoin plane sw => Sys2Proof.Machine.execSwitchRejoin plane sw s
  | .remoteUnackedBound th => Sys2Proof.Machine.execRemoteUnackedBound th s

end Sys2Proof.Machine
end

