-- ==== Sys2Proof/Machine/Outside.lean ====
section
/-! DEFINITION. What comes to the machine from outside its steps: the waking of groups, a control core's store to memory, and a program
placed for a test (log 11). -/

namespace Sys2Proof.Machine

/-- Whether a machine step is the choice of a port, which moves nothing else. -/
def isSelection : Instr → Bool
  | .issueOpportunity .. => true
  | _ => false

/-- The key slot under which a control core's store writes: that of its partition's window, or of the first window of another partition that covers
the address; a page in no VALID window is reachable only by the manager, with slot 0 (R374; log 16). -/
def ccKey (s : State) (who pa : Nat) : Option Nat :=
  if !isKeyed (homeOf s pa) then some 0
  else match windowOf (partAt s (requester s who)) (pa / 65536), s.parts.findSome? fun p => (windowOf p (pa / 65536)).map (·.key) with
    | some w, _ => some w.key
    | none, some k => some k
    | none, none => if isManager s who then some 0 else none

/-- A control core's store within one sector, or none where the physical map lists nothing (R356). In a frozen granule it is refused (R299, R301);
at a granule that is not carved, or at the fabric, it changes nothing here (log 16). -/
def ccSector (s : State) (who pa : Nat) (bs : List Byte) : Option State :=
  match homeOf s pa with
  | .hole => none
  | .pinned c g => some (if (coreAt s c).carve.getLsbD g then writeLoc s false (.phys pa .uncached 0 0) bs else s)
  | .hub | .device .. | .switch .. => some s
  | _ =>
    if locFrozen s (.phys pa .uncached 0 0) bs.length then some s
    else match ccKey s who pa with
      | none => some s
      | some k =>
        let s := writeLoc s false (.phys pa .uncached k 0) bs
        some (invalidateLines { s with perfCtr := s.perfCtr + 1 } pa bs.length)

/-- A control core's store to physical memory, sector by sector; the number bounds the sectors. -/
def ccWrite (s : State) (who pa : Nat) (bs : List Byte) : Nat → Option State
  | 0 => some s
  | k + 1 =>
    if bs = [] then some s
    else
      let n := 64 - pa % 64
      match ccSector s who pa (bs.take n) with
      | none => none
      | some t => ccWrite t who (pa + n) (bs.drop n) k

/-- Whether a control core's store waits: for one that came before it, or for a write to its lines that still counts acknowledgements (R296). -/
def ccWaits (s : State) (pa : Nat) (bs : List Byte) : Bool := !s.ccStores.isEmpty || linesBusy s pa bs.length

/-- The stores of control cores that waited, performed in the order of their arrival as far as their lines are quiet (R296, R297). -/
def flushStores (s : State) : List (Nat × Nat × List Byte) → State
  | [] => { s with ccStores := [] }
  | x :: r => if linesBusy s x.2.1 x.2.2.length then { s with ccStores := x :: r } else flushStores ((ccWrite s x.1 x.2.1 x.2.2 x.2.2.length).getD s) r

/-- Something has moved: the stores of control cores and the arrivals that waited are performed where they may be, and groups that wait try their word
again (R185, R196, R296). -/
def wakeAll (s : State) : State :=
  let s := flushArrivals (flushStores s s.ccStores)
  { s with groups := s.groups.map fun p => (p.1, { p.2 with waiting := false }) }

/-- What a control core's store to hub register space is: a record pushed to a PORT, a completion stored to SCOMP, the write of a register, or a
write of another size (R329, R331, R372). -/
def ccHub (who off : Nat) (bs : List Byte) (s : State) : Host.Outcome State Fault Refusal :=
  match hubReg off with
  | some (.queue q o) =>
    if o < 0x40 then execLaunchPortPush who q (BitVec.ofNat 512 (leNat bs)) (decide (bs.length = 64) && off % 64 = 0) s
    else execRegisterWrite who off (BitVec.ofNat 64 (leNat bs)) (decide (bs.length = 8) && off % 8 = 0) s
  | some (.part p o) =>
    if scompAt ≤ o && decide (o < scompAt + 64) then (if o = scompAt && bs.length = 64 then scompStore who p (BitVec.ofNat 512 (leNat bs)) s else .next s)
    else execRegisterWrite who off (BitVec.ofNat 64 (leNat bs)) (decide (bs.length = 8) && off % 8 = 0) s
  | _ => execRegisterWrite who off (BitVec.ofNat 64 (leNat bs)) (decide (bs.length = 8) && off % 8 = 0) s

/-- A tenant's quota on a switch (R404). -/
def setQuota (s : State) (plane sw ftid granules : Nat) : State :=
  modSwitch s (swKey plane sw) fun x => { x with quota := put x.quota ftid granules }

/-! ## A program placed (log 11) -/

/-- Where a placed program stands: the tables of levels 3 to 0, and the word, whose 64 KiB page the level-0 table maps to itself (R357). -/
def bootRoot : Nat := 0x10000
def bootTable2 : Nat := 0x20000
def bootTable1 : Nat := 0x30000
def bootTable0 : Nat := 0x34000
def bootWord : Nat := 0x40000

/-- Bytes placed in memory, clean. -/
def placeBytes (s : State) (a : Nat) (bs : List Byte) : State :=
  { s with mem := memSetN s.mem a bs, poison := del s.poison (a / 64) }

/-- The partition that a placed program runs in: its window covers the first 1 GiB. -/
def bootPart (p : Partition) : Partition :=
  { p with
    proot := bootRoot, asid := 0, pstate := .running,
    windows := ⟨0, 0, true, 16383⟩ :: p.windows.drop 1 }

/-- The header of a placed program: 8 lanes, one thread deep, 248 registers, 8 KiB of scratchpad, eight queues, and every timeline context
bound to the engine that the word uses. -/
def bootHeader (i : Option Instr) : Header :=
  let e : Engine := match i with
    | some i => match timelineUse i with
      | some (_, some e) => e
      | _ => .copy
    | none => .copy
  { gen := 1, width := 8, depth := 1, regs := 248, scratch := 64, workid := [], tlbind := List.replicate 8 (some (e, Scope.sys)),
    queues := 8, tandem := false, swizzle := 0, persist := false, recover := 0, rectok := 0, entry := BitVec.ofNat 64 bootWord,
    argsize := 0 }

/-- A workgroup on core 0 that holds one thread. -/
def bootWg (s : State) (i : Option Instr) : Workgroup :=
  let h := bootHeader i
  { core := 0, slot := 0, parity := 0, base := 0, age := s.now, launch := s.nextLaunch, g := 0, hdr := h, arg := 0, part := 0,
    regsN := h.regs, vacant := [], released := [], cir := 0, tls := h.tlbind.map fun b => ⟨b, 0, 0, []⟩, spad := [], spadPoison := [],
    absent := [], arrScopes := [], fifos := [], arrivals := [], wantRegs := none, tiles := List.replicate 4 ⟨[], [], [], 0, [], [], [], true, false⟩,
    tandemIdx := 0, soloPartner := [], soloMismatch := [], join := none, forked := false, laneCycles := 0, laneAt := s.now, residency := 0, charges := 0,
    lanesRun := 0, moved := 0,
    saved := false, retired := false }

/-- The state with an instruction word stored where the next step fetches, for one thread of a new workgroup on core 0. -/
def placeWord (s : State) (w : DWord) : State :=
  let i : Option Instr := match decode w with
    | .ok i => some i
    | .error _ => none
  let s := placeBytes s bootRoot (leBytes 8 (bootTable2 + 1))
  let s := placeBytes s bootTable2 (leBytes 8 (bootTable1 + 1))
  let s := placeBytes s bootTable1 (leBytes 8 (bootTable0 + 1))
  let s := placeBytes s (bootTable0 + 8 * (bootWord / 65536)) (leBytes 8 (bootWord + 0x2F))
  let s := placeBytes s bootWord (leBytes 8 w.toNat)
  let s := modPart s 0 bootPart
  let s := modCore s 0 fun c => { c with tlb := [], icache := del c.icache bootWord, loops := [], icPoison := [] }
  let s := { s with clusterTlb := del s.clusterTlb 0 }
  let wg := s.nextWg
  let s := { s with wgs := put s.wgs wg (bootWg s i), nextWg := wg + 1 }
  let s := startThread s wg 0 (BitVec.ofNat 64 bootWord)
  let s := modTh s (tidOf wg 0) fun th => { th with cond := .inFlight }
  let g := s.nextId
  let G : Group := { core := 0, port := 0, members := [tidOf wg 0], formed := s.now, waiting := false, park := none, old := [] }
  { s with groups := put s.groups g G, nextId := g + 1, focus := some g }

end Sys2Proof.Machine
end

