-- ==== Sys2Proof/Machine/Step.lean ====
section
/-! DEFINITION. One step of the module: the word of the group in focus, else the next input of the agenda, else the issue opportunity of
the port whose turn it is (log 9). -/

namespace Sys2Proof.Machine

/-- The word of the group in focus: fetched, decoded and executed; a word that cannot be fetched or is no instruction executes as ABORT
(R79, R80). -/
def stepWord (s : State) (G : Group) : Host.Outcome State Fault Refusal :=
  let f := fetchGroup s G
  match f.1 with
  | .error e => exec (.fetchFault e.cause e.window) f.2
  | .ok w =>
    match decode w with
    | .ok i => exec i f.2
    | .error _ => exec .illegalWord f.2

/-- One input of the agenda. -/
def stepInput (s : State) : Input → Host.Outcome State Fault Refusal
  | .event dt i =>
    let s := { s with now := s.now + dt }
    exec i (if isSelection i then s else wakeAll s)
  | .ccStore dt who pa bs =>
    let s := { s with now := s.now + dt }
    match homeOf s pa with
    | .hub => ccHub who (pa - 0x0F0000000000) bs (wakeAll s)
    | _ => match ccWrite s who pa bs bs.length with
      | some t => .next (wakeAll (if ccWaits s pa bs then { s with ccStores := s.ccStores ++ [(who, pa, bs)] } else t))
      | none => .fault .noMemory
  | .sliceEvict dt line => .next (wakeAll (evictSliceLine { s with now := s.now + dt } line))
  | .fabKey dt who part peer key => .next (wakeAll (installKey { s with now := s.now + dt } who part peer key))
  | .peerEntry dt who idx addrs => .next (wakeAll (fillPeer { s with now := s.now + dt } who idx addrs))
  | .swHearing dt plane sw h => .next (wakeAll (setHearing { s with now := s.now + dt } plane sw h))
  | .swKeyFor dt plane sw sdev ftid key => .next (wakeAll (setSwKey { s with now := s.now + dt } plane sw sdev ftid key))
  | .swQuota dt plane sw ftid n => .next (wakeAll (setQuota { s with now := s.now + dt } plane sw ftid n))

/-- One step. -/
def step (s : State) : Host.Outcome State Fault Refusal :=
  match s.focus with
  | some g =>
    match grpOf s g with
    | some G => stepWord s G
    | none => .next { s with focus := none }
  | none =>
    match s.agenda with
    | x :: rest => stepInput { s with agenda := rest } x
    | [] => exec (.issueOpportunity s.turn.1 s.turn.2) s

/-- The state with an instruction stored where the next step fetches: every KZ instruction is one 64-bit word (R63). -/
def State.withFetchWord (s : State) (_nbits w : Nat) : State := placeWord s (BitVec.ofNat 64 w)

end Sys2Proof.Machine
end

