-- ==== Sys2Proof/Safety.lean ====
section
/-! DEFINITION. What a safe run is, and the words in which statements are made: when a word issues, and what a word leaves as it was. -/

namespace Sys2Proof

/-- A state whose next step is a state. -/
def safeAt (s : Machine.State) : Prop := ∃ t, Machine.step s = .next t

/-- A run of k steps that never stops. -/
def safeFor : Nat → Machine.State → Prop
  | 0, _ => True
  | k + 1, s => ∃ t, Machine.step s = .next t ∧ safeFor k t

namespace Machine

/-! ## When a word issues (R79, R158, R168, R185, R315) -/

/-- The state in which a word takes the next issue number. -/
def entered (s : State) : State := { s with focus := none, nextIssue := s.nextIssue + 1 }

/-- The state in which the effect of word i acts for group G: the implicit commits that go before it are done (R158, R159). -/
def issued (i : Instr) (s : State) (G : Group) : State :=
  noteRelease i (commitBefore (entered s) s.nextIssue (G.members.filter (preCommit i s))) G.members

/-- Group G, of key g, is in focus and word i issues now for all of its members: it is an instruction for each and not forbidden in a
transaction (R79, R168); nothing that it waits for is outstanding (R96, R185, R186), and its engine's queue has an entry for every member (R230);
its implicit commit ends no member's word, and the accesses that a release, a fence or a barrier operation waits for are done (R158, R196, R315);
and no member reads a register or a queue word that an uncorrectable error has struck since it was written (R379). -/
def issuesNow (i : Instr) (s : State) (g : Nat) (G : Group) : Bool :=
  s.focus = some g && grpOf s g = some G
    && G.members.all (fun t => legalHere i s t && !txStops i s t && !hasActed s t)
    && (stallAmong i s G.core G.members).isNone
    && !exceedsQueue i s G.members
    && G.members.all (isInFlight (issued i s G))
    && G.members.all (settled i (issued i s G))
    && (G.members.findSome? (phaseStallHere i (issued i s G))).isNone
    && !G.members.any (meetsErrorHere i (issued i s G))

/-! ## What a word leaves as it was -/

/-- A word that touches only its own threads: every field of the state that is neither a thread nor part of the issue is as it was (the
threads, the groups, the focus, the turn and the cycle of the ports, the records held for the issue, and the activity that Bridle counts). -/
def sameOutside (s u : State) : Prop :=
  u = { s with threads := u.threads, groups := u.groups, focus := u.focus, turn := u.turn, now := u.now, nextIssue := u.nextIssue,
               issueFaults := u.issueFaults, activity := u.activity }

/-- A thread that a word of others leaves: only its wait after a YIELD may count down (R136). -/
def sameButWait (th th' : Thread) : Prop := th' = { th with cond := th'.cond }

/-- A thread's registers other than some, as they were. -/
def regsKept (th th' : Thread) (except : List Nat) : Prop := ∀ r, r ∉ except → readReg th' r = readReg th r

/-- Thread t alone in the group in focus, and word i issues for it now; th and w are its thread and its workgroup once the implicit commits
that go before the word are done. -/
def soleMember (i : Instr) (s : State) (g : Nat) (G : Group) (t : Nat) (th : Thread) (w : Workgroup) : Prop :=
  issuesNow i s g G = true ∧ G.members = [t] ∧ thOf (issued i s G) t = some th ∧ wgAt (issued i s G) (wgOf t) = some w

/-- Every thread but t is as it was, but for its wait. -/
def othersKept (s u : State) (t : Nat) : Prop := ∀ x, x ≠ t → ∀ th, thOf s x = some th → ∃ th', thOf u x = some th' ∧ sameButWait th th'

/-- Word i completes for its sole member t and leaves the state `after`, but for threads and groups and for the turn of the issue: thread t is
th' (none where it has ended), and every other thread is as `after` has it, but for its wait. -/
def wordLeaves (i : Instr) (s : State) (t : Nat) (after : State) (th' : Option Thread) : Prop :=
  ∃ u, exec i s = .next u ∧ sameOutside after u ∧ thOf u t = th' ∧ othersKept after u t

/-- The same, with the frame of a word that touches nothing but thread t itself. -/
def wordLeavesOnly (i : Instr) (s : State) (t : Nat) (th' : Option Thread) : Prop := wordLeaves i s t s th'

/-- Memory, its poison and its keys, and the scratchpads and queues of workgroups are as they were. -/
def memoryKept (s u : State) : Prop := u.mem = s.mem ∧ u.poison = s.poison ∧ u.memKey = s.memKey ∧ u.wgs = s.wgs

/-! ## Arithmetic words (R94, R95) -/

/-- No register field of a word names a queue port for the members of a group (R97). -/
def noPorts (i : Instr) (s : State) (G : Group) : Bool :=
  G.members.all fun t => match wgAt s (wgOf t) with
    | some w => (usesOf i).all fun u => !isPort w u.reg
    | none => true

/-- The values of a word's source fields for a thread, in field order (R94). -/
def sourceVals (i : Instr) (th : Thread) : List Val := ((usesOf i).filter isSrc).map fun u => valOf (readRegs th u.reg u.n)

/-- A thread with a value written to the destination fields of a word (R21, R22). -/
def withResult (i : Instr) (th : Thread) (v : Val) : Thread :=
  ((usesOf i).filter isDst).foldl (fun th u => setRegs th u.reg (resultRegs u.n v)) th

/-- A thread at the next word (R25). -/
def nextWord (th : Thread) : Thread := { th with off := th.off + 1, acted := false }

/-! ## What every step keeps -/

/-- The tables of a state are in order: memory and every scratchpad are in canonical form, tables are sorted by key, and the registers of
partitions, keys and measurements are all there. -/
structure tidy (s : State) : Prop where
  mem : memWf s.mem = true
  poison : rising s.poison = true
  threads : rising s.threads = true
  wgs : rising s.wgs = true
  groups : rising s.groups = true
  ops : rising s.ops = true
  launches : rising s.launches = true
  parts : s.parts.length = 16
  keys : s.keyGen.length = 32
  measures : s.measure.length = 32
  spads : ∀ k w, wgAt s k = some w → memWf w.spad = true ∧ rising w.absent = true
  tiles : ∀ k w, wgAt s k = some w → ∀ t ∈ w.tiles, rising t.elems = true
  l1 : ∀ c, rising (coreAt s c).l1 = true
  clusters : ∀ k, rising (clusterAt s k) = true
  dirs : ∀ d, rising (lookD s.dirs d []) = true

end Machine

end Sys2Proof
end

