-- ==== Sys2Proof/Certificates/Slice0/Obligations.lean ====
section
/-! DEFINITION. The statements that provers are asked to prove, and the tables that they are stated with. Each docstring names the rules of
spec/ that a statement formalises, and the log entries that it rests on. -/

namespace Sys2Proof.Machine

/-- The low register of an operand. -/
def low32 (x : DWord) : Word := x.setWidth 32

/-- A function of 32-bit operands, whose result is one register. -/
def low (f : Word → Word → Word → Word) : DWord → DWord → DWord → DWord := fun a b c => (f (low32 a) (low32 b) (low32 c)).setWidth 64

/-- What an integer word computes from its sources A, B and C, as the tables of R99 to R107 and R120 give it: a 32-bit form of the low halves, a
wide form of the pairs. -/
def integerFn (i : Instr) : Option (DWord → DWord → DWord → DWord) :=
  match i with
  | .iadd _ _ _ => some (low fun x y _ => x + y)
  | .iaddImm _ _ imm => some (low fun x _ _ => x + imm)
  | .iaddW _ _ _ => some (fun x y _ => x + y)
  | .iaddWImm _ _ imm => some (fun x _ _ => x + imm.signExtend 64)
  | .isub _ _ _ => some (low fun x y _ => x - y)
  | .isubW _ _ _ => some (fun x y _ => x - y)
  | .imul _ _ _ => some (low fun x y _ => x * y)
  | .imulImm _ _ imm => some (low fun x _ _ => x * imm)
  | .imulW _ _ _ => some (fun x y _ => x * y)
  | .imulWImm _ _ imm => some (fun x _ _ => x * imm.signExtend 64)
  | .imulhi _ _ _ nat => some (low fun x y _ => imulhi nat x y)
  | .imulhiW _ _ _ nat => some (fun x y _ => imulhi nat x y)
  | .imad _ _ _ _ => some (low fun x y z => x * y + z)
  | .imadW _ _ _ _ => some (fun x y z => x * y + z)
  | .imin _ _ _ nat => some (low fun x y _ => imin nat x y)
  | .iminImm _ _ imm nat => some (low fun x _ _ => imin nat x imm)
  | .iminW _ _ _ nat => some (fun x y _ => imin nat x y)
  | .iminWImm _ _ imm nat => some (fun x _ _ => imin nat x (imm.signExtend 64))
  | .imax _ _ _ nat => some (low fun x y _ => imax nat x y)
  | .imaxImm _ _ imm nat => some (low fun x _ _ => imax nat x imm)
  | .imaxW _ _ _ nat => some (fun x y _ => imax nat x y)
  | .imaxWImm _ _ imm nat => some (fun x _ _ => imax nat x (imm.signExtend 64))
  | .iabs _ _ => some (low fun x _ _ => iabs x)
  | .iabsW _ _ => some (fun x _ _ => iabs x)
  | .and _ _ _ => some (low fun x y _ => x &&& y)
  | .andImm _ _ imm => some (low fun x _ _ => x &&& imm)
  | .andW _ _ _ => some (fun x y _ => x &&& y)
  | .andWImm _ _ imm => some (fun x _ _ => x &&& imm.signExtend 64)
  | .or _ _ _ => some (low fun x y _ => x ||| y)
  | .orImm _ _ imm => some (low fun x _ _ => x ||| imm)
  | .orW _ _ _ => some (fun x y _ => x ||| y)
  | .orWImm _ _ imm => some (fun x _ _ => x ||| imm.signExtend 64)
  | .xor _ _ _ => some (low fun x y _ => x ^^^ y)
  | .xorImm _ _ imm => some (low fun x _ _ => x ^^^ imm)
  | .xorW _ _ _ => some (fun x y _ => x ^^^ y)
  | .xorWImm _ _ imm => some (fun x _ _ => x ^^^ imm.signExtend 64)
  | .andn _ _ _ => some (low fun x y _ => x &&& ~~~y)
  | .andnW _ _ _ => some (fun x y _ => x &&& ~~~y)
  | .shl _ _ _ => some (low fun x y _ => shl x y.toNat)
  | .shlImm _ _ imm => some (low fun x _ _ => shl x imm.toNat)
  | .shlW _ _ _ => some (fun x y _ => shl x y.toNat)
  | .shlWImm _ _ imm => some (fun x _ _ => shl x imm.toNat)
  | .shr _ _ _ => some (low fun x y _ => shr x y.toNat)
  | .shrImm _ _ imm => some (low fun x _ _ => shr x imm.toNat)
  | .shrW _ _ _ => some (fun x y _ => shr x y.toNat)
  | .shrWImm _ _ imm => some (fun x _ _ => shr x imm.toNat)
  | .shra _ _ _ => some (low fun x y _ => shra x y.toNat)
  | .shraImm _ _ imm => some (low fun x _ _ => shra x imm.toNat)
  | .shraW _ _ _ => some (fun x y _ => shra x y.toNat)
  | .shraWImm _ _ imm => some (fun x _ _ => shra x imm.toNat)
  | .rotl _ _ _ => some (low fun x y _ => rotl x y.toNat)
  | .rotlImm _ _ imm => some (low fun x _ _ => rotl x imm.toNat)
  | .rotlW _ _ _ => some (fun x y _ => rotl x y.toNat)
  | .rotlWImm _ _ imm => some (fun x _ _ => rotl x imm.toNat)
  | .shf _ _ _ _ right => some (low fun x y z => shf right x y z.toNat)
  | .shfW _ _ _ _ right => some (fun x y z => shf right x y z.toNat)
  | .bfx _ _ _ nat => some (low fun x y _ => bfx nat x y)
  | .bfxW _ _ _ nat => some (fun x y _ => bfx nat x (low32 y))
  | .bfi _ _ _ _ => some (low fun x y z => bfi x y z)
  | .bfiW _ _ _ _ => some (fun x y z => bfi x (low32 y) z)
  | .clz _ _ => some (low fun x _ _ => BitVec.ofNat 32 (clz x))
  | .clzW _ _ => some (fun x _ _ => BitVec.ofNat 64 (clz x))
  | .popc _ _ => some (low fun x _ _ => BitVec.ofNat 32 (popc x))
  | .popcW _ _ => some (fun x _ _ => BitVec.ofNat 64 (popc x))
  | .brev _ _ => some (low fun x _ _ => brev x)
  | .brevW _ _ => some (fun x _ _ => brev x)
  | .prmt _ _ _ _ => some (low prmt)
  | .prmtW _ _ _ _ => some (fun x y z => prmtW x y (low32 z))
  | .icmp _ _ _ cc => some (fun x y _ => predBit (icond cc (low32 x) (low32 y)))
  | .icmpImm _ _ imm cc => some (fun x _ _ => predBit (icond cc (low32 x) imm))
  | .icmpW _ _ _ cc => some (fun x y _ => predBit (icond cc x y))
  | .icmpWImm _ _ imm cc => some (fun x _ _ => predBit (icond cc x (imm.signExtend 64)))
  | .lea _ _ _ sh => some (low fun x y _ => lea x y sh)
  | .leaW _ _ _ sh nat => some (fun x y _ => leaW x (low32 y) sh nat)
  | .movi _ imm => some (fun _ _ _ => up imm)
  | .moviW _ imm => some (fun _ _ _ => imm.signExtend 64)
  | _ => none

/-- What a floating-point, packed or conversion word computes from its sources (R108 to R119). -/
def floatFn (i : Instr) : Option (DWord → DWord → DWord → DWord) :=
  match i with
  | .fadd _ _ _ rm => some (low fun x y _ => fadd rm x y)
  | .faddImm _ _ imm rm => some (low fun x _ _ => fadd rm x imm)
  | .fsub _ _ _ rm => some (low fun x y _ => fsub rm x y)
  | .fmul _ _ _ rm => some (low fun x y _ => fmul rm x y)
  | .fmulImm _ _ imm rm => some (low fun x _ _ => fmul rm x imm)
  | .ffma _ _ _ _ rm => some (low fun x y z => ffma rm x y z)
  | .fmin _ _ _ => some (low fun x y _ => fmin x y)
  | .fminImm _ _ imm => some (low fun x _ _ => fmin x imm)
  | .fmax _ _ _ => some (low fun x y _ => fmax x y)
  | .fmaxImm _ _ imm => some (low fun x _ _ => fmax x imm)
  | .fcmp _ _ _ cc => some (fun x y _ => predBit (fcond cc (low32 x) (low32 y)))
  | .fcmpImm _ _ imm cc => some (fun x _ _ => predBit (fcond cc (low32 x) imm))
  | .fclass _ _ => some (low fun x _ _ => fclass x)
  | .frnd _ _ rm => some (low fun x _ _ => frnd rm x)
  | .frcp _ _ rm => some (low fun x _ _ => frcp rm x)
  | .frsq _ _ rm => some (low fun x _ _ => frsq rm x)
  | .fsqrt _ _ rm => some (low fun x _ _ => fsqrt rm x)
  | .fexp2 _ _ => some (low fun x _ _ => fexp2 x)
  | .flog2 _ _ => some (low fun x _ _ => flog2 x)
  | .fsin _ _ => some (low fun x _ _ => fsin x)
  | .fcos _ _ => some (low fun x _ _ => fcos x)
  | .ftanh _ _ => some (low fun x _ _ => ftanh x)
  | .hadd2 _ _ _ rm => some (low fun x y _ => hadd2 rm x y)
  | .hadd2Imm _ _ imm rm => some (low fun x _ _ => hadd2 rm x imm)
  | .hmul2 _ _ _ rm => some (low fun x y _ => hmul2 rm x y)
  | .hmul2Imm _ _ imm rm => some (low fun x _ _ => hmul2 rm x imm)
  | .hfma2 _ _ _ _ rm => some (low fun x y z => hfma2 rm x y z)
  | .qdot4 _ _ _ _ fa fb rm => some (low fun x y z => qdot4 fa fb rm x y z)
  | .idot4 _ _ _ _ na nb => some (low fun x y z => idot4 na nb x y z)
  | .cvt _ _ df sf rm => some (fun x _ _ => BitVec.ofNat 64 (cvt df sf rm x.toNat))
  | .cvtPk _ _ _ df sf rm => some (fun x y _ => if df = .bf16 then cvtPkWide sf (low32 x) else up (cvtPkNarrow df rm (low32 x) (low32 y)))
  | .pack2 _ _ _ k rm => some (low fun x y _ => pack2 k rm x y)
  | .unpk2 _ _ k => some (fun x _ _ => unpk2 k (low32 x))
  | _ => none

end Sys2Proof.Machine

open Sys2Proof Sys2Proof.Machine

/-! ## Arithmetic words -/

/-- Word i completes for group G: each member of it stands at the next word, with the value that `f` gives in the destination and nothing else
changed; every other thread is as it was but for its wait after a YIELD; and nothing outside threads and the issue has changed. -/
def Sys2Proof.Machine.wordGives (i : Instr) (s : State) (G : Group) (f : Nat → Thread → Workgroup → Val) : Prop :=
  ∃ u, exec i s = .next u ∧ sameOutside s u
    ∧ (∀ t ∈ G.members, ∀ th w, thOf s t = some th → wgAt s (wgOf t) = some w →
        thOf u t = some (nextWord (withResult i th (f t th w))))
    ∧ ∀ t, t ∉ G.members → ∀ th, thOf s t = some th → ∃ th', thOf u t = some th' ∧ sameButWait th th'

/-- Integer arithmetic, logic, shifts, bit fields, comparisons and immediates; floating point, packed arithmetic and conversion (R94, R95, R99
to R120). The word completes for every group for which it issues and whose fields name no queue port: each member receives, in the
destination, the function of its own sources, or the token of the first poisoned one, and stands at the next word. The approximate functions
hold for any result that a part gives (log 12). FRAME: its other registers, counters, region and queues are unchanged, every other thread is
as it was but for its wait after a YIELD, and nothing outside threads and the issue changes; memory is not touched. -/
def Obligations.ArithmeticWordsCompute : Prop :=
  ∀ (i : Instr) (f : DWord → DWord → DWord → DWord) (s : State) (g : Nat) (G : Group),
    integerFn i = some f ∨ floatFn i = some f → issuesNow i s g G = true → G.members.Nodup → noPorts i s G = true →
    wordGives i s G fun _ th _ => arithVal f (sourceVals i th)

/-- What SEL gives its destination (R106): the predicate's token, or the operand that the predicate selects, with its tag. -/
def Sys2Proof.Machine.selected (a b c : Val) : Val :=
  match c.tok with
  | some k => badVal k
  | none => if c.data = 0 then b else a

/-- What a special register reads as for a thread (R36, R37). -/
def Sys2Proof.Machine.special (s : State) (t : Nat) (th : Thread) (w : Workgroup) : SReg → DWord
  | .lane => BitVec.ofNat 64 th.lane
  | .tidx => BitVec.ofNat 64 (idxOf t)
  | .widlo => (th.wid.setWidth 32).setWidth 64
  | .widhi => th.wid >>> 32
  | .gwidth => BitVec.ofNat 64 (w.hdr.width - 8 * w.released.length)
  | .core => BitVec.ofNat 64 (w.core % 8)
  | .clu => BitVec.ofNat 64 (w.core / 8 % 8)
  | .die => BitVec.ofNat 64 (w.core / 64)
  | .pkg => BitVec.ofNat 64 (if s.joined then s.pkg else 0)
  | .clk => BitVec.ofNat 64 (s.now + (s.clkOff[w.core / 64]?).getD 0)

/-- Register v0 reads as zero with its tag clear and a write to it is discarded; another register of the allocation holds the 32 bits and the tag
last written (R18). SEL, SEL.w, MOV, SYSR and NOP (R36, R37, R106, R120, R121) complete for every group for which they issue and whose fields
name no queue port. SEL gives the predicate's token, or the operand that it selects with its tag; MOV data bits and tag; SYSR the thread's
own special register; NOP only moves on. The frame is that of ArithmeticWordsCompute. -/
def Obligations.MoveWordsCompute : Prop :=
  (∀ (th : Thread) (v : RegVal), readReg th 0 = (.clean 0) ∧ setReg th 0 v = th
      ∧ ∀ r, r ≠ 0 → r < th.regs.length →
          readReg (setReg th r v) r = v ∧ ∀ q, q ≠ r → readReg (setReg th r v) q = readReg th q)
    ∧ ∀ (s : State) (g : Nat) (G : Group), G.members.Nodup →
    (∀ d a b c, issuesNow (.sel d a b c) s g G = true → noPorts (.sel d a b c) s G = true →
        wordGives (.sel d a b c) s G fun _ th _ => selected (reg1 th a) (reg1 th b) (reg1 th c))
      ∧ (∀ d a b c, issuesNow (.selW d a b c) s g G = true → noPorts (.selW d a b c) s G = true →
        wordGives (.selW d a b c) s G fun _ th _ => selected (reg2 th a) (reg2 th b) (reg1 th c))
      ∧ (∀ d a, issuesNow (.mov d a) s g G = true → noPorts (.mov d a) s G = true →
        wordGives (.mov d a) s G fun _ th _ => match (reg1 th a).tok with
          | some k => badVal k
          | none => cleanVal (reg1 th a).data)
      ∧ (∀ d sr, issuesNow (.sysr d sr) s g G = true → noPorts (.sysr d sr) s G = true →
        wordGives (.sysr d sr) s G fun t th w => cleanVal (special s t th w sr))
      ∧ (issuesNow .nop s g G = true → wordGives .nop s G fun _ _ _ => cleanVal 0)

/-- The full word that computes what a half does (R73, R74): D and B as A and B, or B as A in a unary form; an immediate of nine bits extended with
its sign, and a shift count with zeros. -/
def Sys2Proof.Machine.asFull (h : Half) : Instr :=
  match h.op with
  | .iadd => .iadd h.d h.d h.b
  | .isub => .isub h.d h.d h.b
  | .imul => .imul h.d h.d h.b
  | .imin nat => .imin h.d h.d h.b nat
  | .imax nat => .imax h.d h.d h.b nat
  | .and => .and h.d h.d h.b
  | .or => .or h.d h.d h.b
  | .xor => .xor h.d h.d h.b
  | .andn => .andn h.d h.d h.b
  | .shl => .shl h.d h.d h.b
  | .shr => .shr h.d h.d h.b
  | .shra => .shra h.d h.d h.b
  | .rotl => .rotl h.d h.d h.b
  | .icmp cc => .icmp h.d h.d h.b cc
  | .mov => .mov h.d h.b
  | .iaddImm imm => .iaddImm h.d h.d (imm.signExtend 32)
  | .imulImm imm => .imulImm h.d h.d (imm.signExtend 32)
  | .andImm imm => .andImm h.d h.d (imm.signExtend 32)
  | .orImm imm => .orImm h.d h.d (imm.signExtend 32)
  | .xorImm imm => .xorImm h.d h.d (imm.signExtend 32)
  | .shlImm imm => .shlImm h.d h.d (imm.setWidth 32)
  | .shrImm imm => .shrImm h.d h.d (imm.setWidth 32)
  | .shraImm imm => .shraImm h.d h.d (imm.setWidth 32)
  | .movi imm => .movi h.d (imm.signExtend 32)
  | .iabs => .iabs h.d h.b
  | .clz => .clz h.d h.b
  | .popc => .popc h.d h.b
  | .brev => .brev h.d h.b
  | .fadd rm => .fadd h.d h.d h.b rm
  | .fsub rm => .fsub h.d h.d h.b rm
  | .fmul rm => .fmul h.d h.d h.b rm
  | .fmin => .fmin h.d h.d h.b
  | .fmax => .fmax h.d h.d h.b
  | .fcmp cc => .fcmp h.d h.d h.b cc
  | .hadd2 rm => .hadd2 h.d h.d h.b rm
  | .hmul2 rm => .hmul2 h.d h.d h.b rm
  | .frcp rm => .frcp h.d h.b rm
  | .frsq rm => .frsq h.d h.b rm
  | .fsqrt rm => .fsqrt h.d h.b rm
  | .fexp2 => .fexp2 h.d h.b
  | .flog2 => .flog2 h.d h.b
  | .fsin => .fsin h.d h.b
  | .fcos => .fcos h.d h.b
  | .ftanh => .ftanh h.d h.b
  | .cvtI32Fp32 rm => .cvt h.d h.b .i32 .fp32 rm
  | .cvtFp32I32 rm => .cvt h.d h.b .fp32 .i32 rm

/-- The pair words, all 46 of them (R71 to R74, R78): IADD, ISUB, IMUL, IMIN, IMAX, AND, OR, XOR, ANDN, SHL, SHR, SHRA, ROTL, ICMP, MOV, the immediate forms of
IADD, IMUL, AND, OR, XOR, SHL, SHR and SHRA, MOVI, IABS, CLZ, POPC, BREV, FADD, FSUB, FMUL, FMIN, FMAX, FCMP, HADD2, HMUL2, FRCP, FRSQ, FSQRT,
FEXP2, FLOG2, FSIN, FCOS, FTANH, CVT.i32.fp32 and CVT.fp32.i32, in half A with any half B. The word completes for every group for which it
issues: both halves read before either writes, each half computes as the full word would, and the poison of one half is not that of the
other. The destinations of the two halves receive their results, and nothing else changes (frame of ArithmeticWordsCompute). -/
def Obligations.PairWordsCompute : Prop :=
  (∀ (x y : Half) (s : State) (g : Nat) (G : Group), issuesNow (pairInstr x y) s g G = true → G.members.Nodup →
    ∃ u, exec (pairInstr x y) s = .next u ∧ sameOutside s u
      ∧ (∀ t ∈ G.members, ∀ th, thOf s t = some th →
          thOf u t = some (nextWord (setReg (setReg th x.d.toNat (halfVal th x)) y.d.toNat (halfVal th y))))
      ∧ ∀ t, t ∉ G.members → ∀ th, thOf s t = some th → ∃ th', thOf u t = some th' ∧ sameButWait th th')
    ∧ ∀ (x : Half) (th : Thread),
      (x.op = .mov → (readReg th x.b.toNat).struck = false → halfVal th x = readReg th x.b.toNat)
        ∧ (x.op ≠ .mov → ∃ f, (integerFn (asFull x) = some f ∨ floatFn (asFull x) = some f)
            ∧ resultRegs 1 (arithVal f (sourceVals (asFull x) th)) = [halfVal th x])

/-- The values of source fields of a thread and the workgroup after them: a field that names a queue port pops the thread's own FIFO for that
port, in field order (R97, R192). -/
def Sys2Proof.Machine.popSources (th : Thread) : Workgroup → List RegUse → List Val × Workgroup
  | w, [] => ([], w)
  | w, u :: us =>
    if isPort w u.reg then
      let r := popSources th (setFifo w th.lane u.reg (fifoAt w th.lane u.reg).tail) us
      (((fifoAt w th.lane u.reg).head?.map fun v => valOf [v]).getD ⟨0, none⟩ :: r.1, r.2)
    else
      let r := popSources th w us
      (valOf (readRegs th u.reg u.n) :: r.1, r.2)

/-- An arithmetic word of one thread that names queue ports (R97): sources pop in field order, and a destination that is a port receives the
result, with its tag, at its end after all pops; otherwise the registers receive it. Only the thread and its own workgroup's FIFOs change. -/
def Obligations.PortsPopAndPush : Prop :=
  ∀ (i : Instr) (f : DWord → DWord → DWord → DWord) (s : State) (g : Nat) (G : Group) (t : Nat) (th : Thread) (w : Workgroup) (d : RegUse),
    integerFn i = some f ∨ floatFn i = some f → soleMember i s g G t th w → (usesOf i).filter isDst = [d] →
    (∀ r ∈ (usesOf i).filter isSrc, isPort w r.reg = true → fifoAt w th.lane r.reg ≠ []) →
    ∃ u, exec i s = .next u ∧ othersKept s u t ∧ u.mem = s.mem ∧ u.cores = s.cores ∧ u.ops = s.ops
      ∧ (let r := popSources th w ((usesOf i).filter isSrc)
         let v := arithVal f r.1
         if isPort w d.reg then
           wgAt u (wgOf t) = some (setFifo r.2 th.lane d.reg (fifoAt r.2 th.lane d.reg ++ resultRegs 1 v)) ∧ thOf u t = some (nextWord th)
         else wgAt u (wgOf t) = some r.2 ∧ thOf u t = some (nextWord (setRegs th d.reg (resultRegs d.n v))))

/-- A word that cannot issue has no effect: its group waits in flight, or parks as a unit, and the port's opportunity selects again among its other
groups and ready threads (R96, R183, R185, R186; that it selects again is the model's choice, log 43). Memory, workgroups, accesses and cores are as they
were, and every thread keeps all but its condition, which the selection may change. -/
def Obligations.StalledWordChangesNothing : Prop :=
  ∀ (i : Instr) (s : State) (g : Nat) (G : Group),
    (encode i).isSome = true → s.focus = some g → grpOf s g = some G →
    G.members.all (fun t => legalHere i s t && !txStops i s t && !hasActed s t) = true →
    let kept (u : State) : Prop := exec i s = .next u ∧ memoryKept s u ∧ u.ops = s.ops ∧ u.cores = s.cores
      ∧ ∀ t th, thOf s t = some th → ∃ th', thOf u t = some th' ∧ sameButWait th th'
    (stallAmong i s G.core G.members = some .wait → kept (selectWord (waitGroup { s with focus := none } g) G.core G.port))
      ∧ ∀ p, stallAmong i s G.core G.members = some (.park p) →
          kept (selectWord (parkGroup { s with focus := none } g p i) G.core G.port)
/-! ## Span ends -/

/-- The outstanding access that a held store becomes when it is released (R28, R160). -/
def Sys2Proof.Machine.storeOp (now t : Nat) (th : Thread) (w : Workgroup) (h : HeldStore) : Op :=
  { kind := .store h.bytes, core := w.core, wg := wgOf t, launch := w.launch, issue := h.issue, span := h.span, off := h.off, loc := h.loc,
    n := h.bytes.length, pol := h.pol, parts := [⟨t, th.serial, [], h.va, 0, 0, [], false⟩], acq := none, rel := false, blocking := false,
    phase := .waiting, eng := none, entered := now, sent := false, reply := none }

/-- The held stores of a region released in program order (R160). -/
def Sys2Proof.Machine.released (s : State) (t : Nat) (th : Thread) (w : Workgroup) : State :=
  th.region.stores.foldl (fun s h => { s with nextId := s.nextId + 1, ops := put s.ops s.nextId (storeOp s.now t th w h) }) s

/-- A valid successor (R125): not poisoned, a multiple of 8, in canonical form. -/
def Sys2Proof.Machine.goodTarget (v : Val) : Prop := v.tok = none ∧ v.data.toNat % 8 = 0 ∧ v.data.toNat < 2 ^ 56

/-- The address that a displacement of a word names (R64, R126). -/
def Sys2Proof.Machine.targetOf (th : Thread) (disp : BitVec 36) : DWord := wordAddr th + BitVec.ofInt 64 (8 * disp.toInt)

/-- A thread at the first word of a span, ready in the cycle of its word (R123). -/
def Sys2Proof.Machine.atSpan (s : State) (th : Thread) (target : DWord) : Thread :=
  { th with span := target, off := 0, cond := .ready s.now 0 }

/-- A register pair with the address of the word that follows, clean (R128). -/
def Sys2Proof.Machine.linked (th : Thread) (d : Reg) : Thread := setRegs th d.toNat (splitRegs 2 (wordAddr th + 8).toNat)

/-- Word i ends the span of group G: the group dissolves, each member of it is what `f` gives, every other thread is as it was but for its wait,
and nothing outside threads, groups and the issue has changed. -/
def Sys2Proof.Machine.spanEnds (i : Instr) (s : State) (g : Nat) (G : Group) (f : Thread → Thread) : Prop :=
  ∃ u, exec i s = .next u ∧ sameOutside s u ∧ u.groups = del s.groups g
    ∧ (∀ t ∈ G.members, ∀ th, thOf s t = some th → thOf u t = some (f th))
    ∧ ∀ t, t ∉ G.members → ∀ th, thOf s t = some th → ∃ th', thOf u t = some th' ∧ sameButWait th th'

/-- Transfers (R123, R126, R128): NEXT goes to its target; BR to it where A is zero or not as the word says, else to the next word; BRX and RET
to the address in A; CALL and CALLX also write the address of the next word to D, CALLX after it has read A. Each completes for every group
whose members all have a valid successor. FRAME: every register but D, every counter and the region are unchanged. YIELD (R136; log 65 for the count): each member whose port the group issued from goes to its target and then waits for 64 opportunities of
that port, unless a group without it issues there first; nothing else of it changes. -/
def Obligations.TransfersGoToTheirSuccessor : Prop :=
  (∀ (s : State) (g : Nat) (G : Group), G.members.Nodup →
        let all (p : Thread → Val) : Prop := ∀ t ∈ G.members, ∀ th, thOf s t = some th → goodTarget (p th)
        (∀ disp, issuesNow (.next disp) s g G = true → all (fun th => cleanVal (targetOf th disp)) →
            spanEnds (.next disp) s g G fun th => atSpan s th (targetOf th disp))
          ∧ (∀ a disp z, issuesNow (.br a disp z) s g G = true → (∀ t ∈ G.members, ∀ th, thOf s t = some th → (readReg th a.toNat).poison = false) →
            all (fun th => cleanVal (targetOf th disp)) → all (fun th => cleanVal (wordAddr th + 8)) →
            spanEnds (.br a disp z) s g G fun th =>
              atSpan s th (if ((readReg th a.toNat).data = 0) ↔ z = true then targetOf th disp else wordAddr th + 8))
          ∧ (∀ a, issuesNow (.brx a) s g G = true → all (fun th => reg2 th a) → spanEnds (.brx a) s g G fun th => atSpan s th (reg2 th a).data)
          ∧ (∀ a, issuesNow (.ret a) s g G = true → all (fun th => reg2 th a) → spanEnds (.ret a) s g G fun th => atSpan s th (reg2 th a).data)
          ∧ (∀ d disp, issuesNow (.call d disp) s g G = true → all (fun th => cleanVal (targetOf th disp)) →
            spanEnds (.call d disp) s g G fun th => atSpan s (linked th d) (targetOf th disp))
          ∧ (∀ d a, issuesNow (.callx d a) s g G = true → all (fun th => reg2 th a) →
            spanEnds (.callx d a) s g G fun th => atSpan s (linked th d) (reg2 th a).data))
    ∧ (∀ (s : State) (g : Nat) (G : Group) (disp : BitVec 36), G.members.Nodup → issuesNow (.yield disp) s g G = true →
        (∀ t ∈ G.members, ∀ th, thOf s t = some th → goodTarget (cleanVal (targetOf th disp))) →
        (∀ t ∈ G.members, ∀ w, wgAt s (wgOf t) = some w → w.core = G.core ∧ (idxOf t / w.hdr.width + w.parity) % 2 = G.port) →
        spanEnds (.yield disp) s g G fun th => { atSpan s th (targetOf th disp) with cond := .ready s.now 65 })

/-- A thread that the abort of its region with a token has sent to its recovery target (R156, R161): TOKREG holds FIRST as clean data, which is
the token of the abort unless the region was already tainted; the region is cleared and plain, with BEGIN the recovery target. -/
def Sys2Proof.Machine.recovered (s : State) (th : Thread) (target : DWord) (tok : Word) : Thread :=
  let first := if th.region.taint then th.region.first else tok
  { setReg th th.region.tokReg (.clean first) with
    span := target
    off := 0
    cond := .ready s.now 0
    relSince := none
    unacked := none
    recovTok := some (first.toNat / 2 ^ 24, first.toNat / 2 ^ 16 % 256)
    region :=
      { th.region with start := target, mode := .plain, taint := false, first := 0, list := [], full := false, stores := [], reads := [] } }

/-- The outstanding loads of a thread that take no read-set entry any more (R167). -/
def Sys2Proof.Machine.withoutReads (s : State) (t : Nat) : State :=
  { s with ops := s.ops.map fun (k, o) =>
      (k, if isLoad o && o.parts.any (fun m => m.th = t) then { o with parts := o.parts.map fun m => { m with tx := false } } else o) }

/-- The successor that a transfer names for a thread (R125, R126, R128). -/
def Sys2Proof.Machine.successorOf (i : Instr) (th : Thread) : Option Val :=
  match i with
  | .next disp | .call _ disp => some (cleanVal (targetOf th disp))
  | .br a disp z =>
    if (readReg th a.toNat).poison then none
    else some (cleanVal (if ((readReg th a.toNat).data = 0) ↔ z = true then targetOf th disp else wordAddr th + 8))
  | .brx a | .ret a | .callx _ a => some (reg2 th a)
  | _ => none

/-- The token that a clean successor which is not valid makes (R125). Of the two that the table gives for one that is both misaligned and not
canonical, the model makes INVALID (log 123). -/
def Sys2Proof.Machine.successorFault (v : DWord) : Option Why :=
  if v.toNat % 8 ≠ 0 then some ⟨.invalid, some v, false, false⟩ else if 2 ^ 56 ≤ v.toNat then some ⟨.noncanon, some v, false, false⟩ else none

/-- The words that abort (R125, R156, R161, R176). ABORT with a poisoned operand, BR with a poisoned condition, and BRX, RET and CALLX with a poisoned
target enter recovery at once with its token. ABORT with a clean operand makes a token of cause USER with its value, and NEXT, BR, BRX, RET, CALL
and CALLX with a clean successor that is misaligned or not canonical make one of cause INVALID or NONCANON with the successor (INVALID where
it is both: the model's choice, log 123). No link is written, the held stores of the region are discarded, and nothing is stored. A thread without
a recovery target ends (UncaughtAbortsEndTheThread). -/
def Obligations.PoisonedTransfersRecover : Prop :=
  ∀ (i : Instr) (s : State) (g : Nat) (G : Group) (t : Nat) (th : Thread) (w : Workgroup) (target : DWord),
    soleMember i s g G t th w → th.region.target = some target →
    (∀ tok, (∃ a, i = .abort a ∧ (reg1 th a).tok = some tok) ∨ (∃ a disp z, i = .br a disp z ∧ (reg1 th a).tok = some tok)
        ∨ (∃ a, (i = .brx a ∨ i = .ret a ∨ ∃ d, i = .callx d a) ∧ (reg2 th a).tok = some tok) →
        wordLeaves i s t (withoutReads s t) (some (recovered s th target tok)))
      ∧ ∀ f : Why, (∃ a, i = .abort a ∧ (reg1 th a).tok = none ∧ f = ⟨.user, some (reg1 th a).data, false, false⟩)
          ∨ (∃ v, successorOf i th = some v ∧ v.tok = none ∧ successorFault v.data = some f) →
        let k := makeToken (issued i s G) (orgOf (issued i s G) s.nextIssue t th) f
        wordLeaves i s t (withoutReads k.1 t) (some (recovered s th target k.2)) ∧ k.1.mem = s.mem

/-- REFILL (R133, R134). With an item left the thread receives the next item of its launch's distributor in D, in order, and goes on at its target; in
a workgroup that is not persistent nothing else starts. In a persistent one the vacant slots that qualify then start in order, each with the
next item, while items last: the new thread is at the refill point, with registers zero but for the launch's argument pointer in v2:v3 and
its item in D. With no item left the thread ends as EXIT does: a plain untainted region first releases its held stores, and a tainted one
enters recovery; D is not written. -/
def Obligations.RefillTakesTheNextItem : Prop :=
  (∀ (s : State) (g : Nat) (G : Group) (t : Nat) (th : Thread) (w : Workgroup) (d : Reg) (disp : BitVec 36) (l : Launch),
        soleMember (.refill d disp) s g G t th w → goodTarget (cleanVal (targetOf th disp)) → look s.launches w.launch = some l →
        let popped := modLaunch s w.launch fun l => { l with nextItem := l.nextItem + 1 }
        let next := atSpan s (setRegs th d.toNat (splitRegs 2 (BitVec.ofNat 64 l.nextItem).toNat)) (targetOf th disp)
        (l.nextItem < l.recd.nitems → w.hdr.persist = false → wordLeaves (.refill d disp) s t popped (some next))
          ∧ (l.nextItem < l.recd.nitems → w.hdr.persist = true → t ∉ startableSlots s (wgOf t) → (∀ p ∈ w.vacant, p.1 < 2048) →
            let gone := setTh (entered popped) t next
            wordLeaves (.refill d disp) s t
              ((sortThs gone (startableSlots s (wgOf t))).foldl (startSlots d (targetOf th disp)) gone) (some next))
          ∧ (l.recd.nitems ≤ l.nextItem → th.region.mode = .plain → th.region.taint = false → tidy s →
            ∃ u, exec (.refill d disp) s = .next u ∧ thOf u t = none ∧ u.mem = s.mem ∧ u.launches = s.launches
              ∧ u.ops = (withoutReads (released s t th w) t).ops
              ∧ ∃ x, wgAt u (wgOf t) = some x ∧ look x.vacant (idxOf t) = some s.now)
          ∧ (∀ target, l.recd.nitems ≤ l.nextItem → th.region.taint = true → th.region.target = some target →
            wordLeaves (.refill d disp) s t (withoutReads s t) (some (recovered s th target th.region.first))))
    ∧ ∀ (s : State) (d : Reg) (target : DWord) (wg i : Nat) (w : Workgroup) (l : Launch),
        wgAt s wg = some w → look s.launches w.launch = some l → i < 2048 →
        let u := startSlots d target s (tidOf wg i)
        (l.recd.nitems ≤ l.nextItem → u = s)
          ∧ (l.nextItem < l.recd.nitems →
            (∃ th, thOf u (tidOf wg i) = some th ∧ th.span = target ∧ th.off = 0 ∧ th.cond = .ready s.now 0
                ∧ th.lane = laneOf w.base w.hdr.width w.hdr.swizzle i
                ∧ th.regs = (setRegs (setRegs { th with regs := List.replicate w.regsN (RegVal.clean 0) } 2 (splitRegs 2 l.recd.args.toNat)) d.toNat
                    (splitRegs 2 (BitVec.ofNat 64 l.nextItem).toNat)).regs)
              ∧ look u.launches w.launch = some { l with nextItem := l.nextItem + 1 } ∧ u.mem = s.mem
              ∧ ∀ x, x ≠ tidOf wg i → thOf u x = thOf s x)

/-- What a partition holds for a request that a thread sends (R371): the next request number, the thread's place, and the entry that waits for
the service queue. -/
def Sys2Proof.Machine.requested (p : Partition) (t : Nat) (th : Thread) (w : Workgroup) (args : BitVec 256) (octet : Nat) (label : DWord)
    (code : Byte) (bkpt : Bool) : Partition :=
  let id := p.reqs + 1
  { p with
    reqs := id
    pending := put p.pending id
      { th := t, serial := th.serial, octet := octet, isBkpt := bkpt, label := label, origin := th.span, originOff := th.off }
    serviceWait := p.serviceWait ++ [serviceEntry args label th.wid id th.span (BitVec.ofNat 8 th.off) code th.lane w.core bkpt] }

/-- SYSCALL and BKPT (R137, R138, R371; log 42 for the order of the octet's check and the label's): the request, with the arguments of the octet A for SYSCALL, waits for the partition's service queue under
the partition's next number, and the thread is parked until it is answered; where the octet holds poison no request is sent, and the thread enters recovery with the first
token (R156, R161). BKPT with the partition's debug enable clear acts as NEXT. -/
def Obligations.ServiceWordsSendRequests : Prop :=
  ∀ (s : State) (g : Nat) (G : Group) (t : Nat) (th : Thread) (w : Workgroup) (disp : BitVec 36),
    goodTarget (cleanVal (targetOf th disp)) →
    (∀ a n, soleMember (.syscall a n disp) s g G t th w → th.unacked = none → firstTok (readRegs th a.toNat 8) = none →
        let s' := issued (.syscall a n disp) s G
        let p := requested (partAt s' w.part) t th w (octetRec th a.toNat) a.toNat (targetOf th disp) n false
        wordLeaves (.syscall a n disp) s t (modPart s' w.part fun _ => p)
          (some { th with cond := .syscall p.reqs, relSince := none, unacked := none }))
      ∧ (∀ a n tok target, soleMember (.syscall a n disp) s g G t th w → th.unacked = none → firstTok (readRegs th a.toNat 8) = some tok →
        th.region.target = some target →
        wordLeaves (.syscall a n disp) s t (withoutReads (issued (.syscall a n disp) s G) t) (some (recovered s th target tok)))
      ∧ (∀ n, soleMember (.bkpt n disp) s g G t th w → (partAt s w.part).pdbg = true →
        let p := requested (partAt s w.part) t th w 0 0 (targetOf th disp) n true
        wordLeaves (.bkpt n disp) s t (modPart s w.part fun _ => p) (some { th with cond := .bkpt p.reqs }))
      ∧ ∀ n, soleMember (.bkpt n disp) s g G t th w → (partAt s w.part).pdbg = false →
        wordLeavesOnly (.bkpt n disp) s t (some (atSpan s th (targetOf th disp)))
/-! ## Poison records, regions and commits -/

/-- MakeToken (R143, R146, R147, R149). A fault that starts a record of its issue takes the lowest free record, or else the oldest that may be
reclaimed: the token is the record's number, its next generation, the cause and the core's sequence number (the number before the counter advances, and the
counter's first value: the model's choice, log 3), and the record holds the
address, the lane, the word, the slot and the partition, FINAL or PENDING as the cause is serviceable. With no record to take, the fault goes
to record 0, whose count saturates, and the token has cause OVERFLOW. -/
def Obligations.MakeTokenRecords : Prop :=
  ∀ (s : State) (o : Org) (f : Why),
    (∀ x ∈ s.issueFaults, ¬(x.issue = o.issue ∧ x.core = o.core ∧ x.wg = o.wg ∧ x.cause = f.cause)) →
    (∀ i, allocIndex s o.core = some i →
        let old := recAt s o.core i
        let seq := (coreAt s o.core).seq
        (makeToken s o f).2 = BitVec.ofNat 8 i ++ (old.gen + 1) ++ causeCode f.cause ++ seq
          ∧ recAt (makeToken s o f).1 o.core i =
            { faddr := f.addr.getD 0, lmask := 0#64 ||| BitVec.ofNat 64 (2 ^ o.lane), origin := o.span.setWidth 56, offset := BitVec.ofNat 8 o.off,
              wgslot := BitVec.ofNat 8 (slotPart s o.wg).1, part := BitVec.ofNat 4 (slotPart s o.wg).2,
              status := if f.cause = .pageMiss ∨ f.cause = .perm ∨ f.cause = .remoteFault then 2 else 1, gen := old.gen + 1,
              cause := causeCode f.cause, seq := seq, merges := 0 })
      ∧ (allocIndex s o.core = none →
        (makeToken s o f).2 = 0#8 ++ 0#8 ++ 0x1E#8 ++ (coreAt s o.core).seq
          ∧ (recAt (makeToken s o f).1 o.core 0).merges =
            if (recAt s o.core 0).merges = 0xFFFF then 0xFFFF else (recAt s o.core 0).merges + 1)
      ∧ (makeToken s o f).1.threads = s.threads ∧ (makeToken s o f).1.mem = s.mem ∧ (makeToken s o f).1.ops = s.ops

/-- The region that RBEGIN opens (R151, R174). -/
def Sys2Proof.Machine.openedRegion (th : Thread) (d : Reg) (disp : BitVec 36) (tx : Bool) : Region :=
  { start := wordAddr th, target := some (targetOf th disp), tokReg := d.toNat, mode := if tx then .tx else .plain, taint := false, first := 0,
    list := [], full := false, stores := [], reads := [] }

/-- A thread after an untainted commit (R160): a plain region that begins at an address, with its target kept. -/
def Sys2Proof.Machine.committed (th : Thread) (start : DWord) : Thread :=
  { th with
    recovTok := none
    region := { th.region with start := start, mode := .plain, taint := false, first := 0, list := [], full := false, stores := [], reads := [] } }

/-- RBEGIN and COMMIT of one thread (R158, R160, R174, R175): RBEGIN, its implicit commit done, opens a region with its target and token register;
an untainted plain COMMIT with clean live-outs releases every held store in program order, raises STC by their number, and opens a plain
region at the next word; a tainted COMMIT that may not replay enters recovery with FIRST and stores nothing; COMMIT.replay, where every record
of the list allows it, parks the thread and discards the held stores; where the list is full or a record's cause is final, it recovers (R162). -/
def Obligations.RegionWordsAct : Prop :=
  ∀ (s : State) (g : Nat) (G : Group) (t : Nat) (th : Thread) (w : Workgroup),
    (∀ d disp tx, soleMember (.rbegin d disp tx) s g G t th w →
        wordLeaves (.rbegin d disp tx) s t (issued (.rbegin d disp tx) s G) (some (nextWord { th with region := openedRegion th d disp tx })))
      ∧ (∀ a b replay, soleMember (.commit a b replay) s g G t th w → th.region.mode = .plain → th.region.taint = false →
        (reg1 th a).tok = none → (reg1 th b).tok = none →
        wordLeaves (.commit a b replay) s t (withoutReads (released s t th w) t)
          (some (nextWord (committed { th with stc := th.stc + th.region.stores.length } (wordAddr th + 8)))))
      ∧ (∀ a b target, soleMember (.commit a b false) s g G t th w → th.region.taint = true → th.region.target = some target →
        (reg1 th a).tok = none → (reg1 th b).tok = none →
        wordLeaves (.commit a b false) s t (withoutReads s t) (some (recovered s th target th.region.first)))
      ∧ (∀ a b target, soleMember (.commit a b true) s g G t th w → th.region.taint = true → th.region.target = some target →
        (reg1 th a).tok = none → (reg1 th b).tok = none →
        (th.region.full = true ∨ ∃ i n, (i, n) ∈ th.region.list ∧
          (i = 0 ∨ (recAt s w.core i).cause ∉ [0x10#8, 0x11#8, 0x13#8, 0x01#8, 0x02#8, 0x0D#8])) →
        wordLeaves (.commit a b true) s t (withoutReads s t) (some (recovered s th target th.region.first)))
      ∧ ∀ a b, soleMember (.commit a b true) s g G t th w → th.region.taint = true → th.region.full = false →
        (reg1 th a).tok = none → (reg1 th b).tok = none →
        (∀ i n, (i, n) ∈ th.region.list → i ≠ 0 ∧ (recAt s w.core i).gen.toNat = n ∧ (recAt s w.core i).wgslot = BitVec.ofNat 8 w.slot ∧
            (((recAt s w.core i).cause ∈ [0x10#8, 0x11#8, 0x13#8] ∧ (recAt s w.core i).status ≠ 0)
              ∨ ((recAt s w.core i).cause ∈ [0x01#8, 0x02#8, 0x0D#8] ∧ (recAt s w.core i).status ∈ [2#8, 3#8]))) →
        wordLeaves (.commit a b true) s t (withoutReads s t)
          (some { th with recovTok := none, cond := .replay [], region := { th.region with stores := [], reads := [] } })

/-- A thread's transaction may be resolved now: it is untainted, none of its own loads is outstanding, its stores go to sectors of stacked DRAM, each in
one sector, and so do the bytes of its reads. -/
def Sys2Proof.Machine.txReady (s : State) (t : Nat) (th : Thread) : Prop :=
  th.region.mode = .tx ∧ th.region.taint = false
    ∧ (∀ p ∈ s.ops, isLoad p.2 = true → ¬(ownedBy p.2 t th.serial = true ∧ ∃ m ∈ p.2.parts, m.tx = true))
    ∧ (∀ h ∈ th.region.stores, ∃ pa m k p d, h.loc = .phys pa m k p ∧ homeOf s pa = .dram d ∧ pa % 64 + h.bytes.length ≤ 64)
    ∧ ∀ e ∈ th.region.reads, ∃ pa m k p d, e.loc = .phys pa m k p ∧ homeOf s pa = .dram d ∧ pa % 64 + e.vals.length ≤ 64

/-- Every byte that a transaction's loads recorded still stands (R167, R171). -/
def Sys2Proof.Machine.readsStand (s : State) (th : Thread) : Prop :=
  ∀ e ∈ th.region.reads, ∀ j v, e.vals[j]? = some (some v) → memGet s.mem (locAddr e.loc + j) = v

/-- Memory with the stores of a transaction written. -/
def Sys2Proof.Machine.txMem (m : Memory) (th : Thread) : Memory := th.region.stores.foldl (fun m h => memSetN m (locAddr h.loc) h.bytes) m

/-- A transaction that commits (R167, R170, R171): where each byte that its loads recorded still stands, all of its stores to stacked
DRAM are written within the step, and the region becomes plain; where a byte has changed, nothing is written, and the thread recovers with a
token of cause TX-CONFLICT. Of two threads whose transactions commit in one issue and whose sets meet, the one of lower index stays, and the
other recovers with a token of cause TX-LOCAL, without a store. -/
def Obligations.TransactionCommitsAtOnce : Prop :=
  (∀ (s : State) (g : Nat) (G : Group) (t : Nat) (th : Thread) (w : Workgroup) (a b : Reg),
    soleMember (.commit a b false) s g G t th w → txReady s t th → (reg1 th a).tok = none → (reg1 th b).tok = none →
    s.poison = [] → s.freezes = [] →
      (readsStand s th →
        ∃ u, exec (.commit a b false) s = .next u ∧ thOf u t = some (nextWord (committed th (wordAddr th + 8))) ∧ u.mem = txMem s.mem th)
      ∧ ∀ e j v target, th.region.reads = [e] → e.vals[j]? = some (some v) → memGet s.mem (locAddr e.loc + j) ≠ v → th.region.target = some target →
        ∃ u, exec (.commit a b false) s = .next u ∧ u.mem = s.mem
          ∧ let k := makeToken (entered s) (orgOf s s.nextIssue t th) ⟨.txConflict, some e.va, false, false⟩
            thOf u t = some (recovered s th target k.2))
    ∧ ∀ (s : State) (g : Nat) (G : Group) (t x : Nat) (th y : Thread) (w v : Workgroup) (a b : Reg) (target : DWord),
      issuesNow (.commit a b false) s g G = true → G.members = [t, x] → t ≠ x → thOf s t = some th → thOf s x = some y →
      wgAt s (wgOf t) = some w → wgAt s (wgOf x) = some v → txReady s t th → txReady s x y → readsStand s th → s.poison = [] → s.freezes = [] →
      (∀ z ∈ [th, y], (reg1 z a).tok = none ∧ (reg1 z b).tok = none) → y.region.target = some target →
      ((∃ p ∈ readLocs y.region ++ writeLocs y.region, ∃ q ∈ writeLocs th.region, locsMeet p.1 p.2 q.1 q.2 = true)
        ∨ (∃ p ∈ writeLocs y.region, ∃ q ∈ readLocs th.region, locsMeet p.1 p.2 q.1 q.2 = true)) →
      ∃ u, exec (.commit a b false) s = .next u ∧ thOf u t = some (nextWord (committed th (wordAddr th + 8))) ∧ u.mem = txMem s.mem th
        ∧ let k := makeToken (entered s) (orgOf s s.nextIssue x y) ⟨.txLocal, none, false, false⟩
          thOf u x = some (recovered s y target k.2)

/-- The instructions on poison, for one thread (R177 to R180). PTEST and PTOK read whether an operand is poisoned, and its token, clean. PREAD gives
the live record that the bits of A name, record 0 as R149 says, or zeros. PMAKE.tok poisons D with the bits of A; PMAKE passes the token of a
poisoned A on, or makes one of cause USER for the address in A; neither taints. CHKERR gives the workgroup's check-interval register and
leaves of it only STICKY, or all of it with .keep. -/
def Obligations.PoisonWordsAct : Prop :=
  ∀ (s : State) (g : Nat) (G : Group) (t : Nat) (th : Thread) (w : Workgroup) (d a : Reg),
    (∀ wide, soleMember (.ptest d a wide) s g G t th w →
        wordLeavesOnly (.ptest d a wide) s t
          (some (nextWord (setReg th d.toNat (RegVal.clean (if (firstTok (readRegs th a.toNat (if wide then 2 else 1))).isSome then 1 else 0))))))
      ∧ (∀ wide, soleMember (.ptok d a wide) s g G t th w →
        wordLeavesOnly (.ptok d a wide) s t
          (some (nextWord (setReg th d.toNat (RegVal.clean ((firstTok (readRegs th a.toNat (if wide then 2 else 1))).getD 0))))))
      ∧ (soleMember (.pread d a) s g G t th w →
        let tok := (readReg th a.toNat).data
        let i := tok.toNat / 2 ^ 24
        let r := recAt s w.core i
        let bits : BitVec 256 :=
          if i = 0 then recBits ⟨0, 0, 0, 0, 0, 0, 1, 0, 0x1E, 0, (recAt s w.core 0).merges⟩
          else if r.status ≠ 0 ∧ r.gen = tok.extractLsb' 16 8 ∧ r.wgslot = BitVec.ofNat 8 w.slot ∧ tok.extractLsb' 8 8 ≠ 0 then recBits r
          else 0
        wordLeavesOnly (.pread d a) s t (some (nextWord (setRegs th d.toNat (splitRegs 8 bits.toNat)))))
      ∧ (soleMember (.pmake d a true) s g G t th w →
        wordLeavesOnly (.pmake d a true) s t (some (nextWord (setReg th d.toNat (RegVal.bad ((readReg th a.toNat).data))))))
      ∧ (∀ k, soleMember (.pmake d a false) s g G t th w → (reg2 th a).tok = some k →
        wordLeavesOnly (.pmake d a false) s t (some (nextWord (setReg th d.toNat (RegVal.bad k)))))
      ∧ (soleMember (.pmake d a false) s g G t th w → (reg2 th a).tok = none →
        let k := makeToken (entered s) (orgOf s s.nextIssue t th) ⟨.user, some (reg2 th a).data, false, false⟩
        wordLeaves (.pmake d a false) s t k.1 (some (nextWord (setReg th d.toNat (RegVal.bad k.2)))))
      ∧ ∀ keep, soleMember (.chkerr d keep) s g G t th w →
        wordLeaves (.chkerr d keep) s t
          { s with wgs := alter s.wgs (wgOf t) fun w => { w with cir := if keep then w.cir else w.cir &&& 0x8000000000000000#64 } }
          (some (nextWord (setRegs th d.toNat (splitRegs 2 w.cir.toNat))))


/-- EXIT (R131): the implicit commit that goes before it is done (R158); then the thread is no longer live and its slot is vacant since this
cycle. No other thread, and no memory, changes with it, in a state whose tables are in order (StepsKeepTablesInOrder). A thread whose region aborts without a recovery target ends, and the token goes to its launch's completion status: UNCAUGHT counts it, and
the first token stays (R39, R161, R166). -/
def Obligations.ThreadsEnd : Prop :=
  (∀ (s : State) (g : Nat) (G : Group) (t : Nat) (th : Thread) (w : Workgroup), soleMember .exit s g G t th w → tidy s →
        ∃ u, exec .exit s = .next u ∧ thOf u t = none ∧ othersKept (issued .exit s G) u t
          ∧ u.mem = (issued .exit s G).mem ∧ u.ops = (issued .exit s G).ops ∧ u.launches = (issued .exit s G).launches
          ∧ ∃ x, wgAt u (wgOf t) = some x ∧ look x.vacant (idxOf t) = some s.now ∧ x.spad = w.spad ∧ x.hdr = w.hdr ∧ x.arrivals = w.arrivals)
    ∧ (∀ (s : State) (g : Nat) (G : Group) (t : Nat) (th : Thread) (w : Workgroup) (a : Reg) (tok : Word) (l : Launch),
        soleMember (.abort a) s g G t th w → th.region.target = none → th.region.taint = false → (reg1 th a).tok = some tok →
        look s.launches w.launch = some l → tidy s →
        ∃ u, exec (.abort a) s = .next u ∧ thOf u t = none ∧ u.mem = s.mem
          ∧ look u.launches w.launch =
            some { l with uncaught := min (l.uncaught + 1) 0xFFFFFFFF, first := if l.first = 0 then tok else l.first })
/-! ## Memory instructions at issue -/

/-- The four load instructions, with what each is made of: its destination and its registers, its acquire, how its bytes become registers, and
the formation of its address (R205, R210, R211, R217, R219). -/
def Sys2Proof.Machine.loadWord (s : State) (th : Thread) (w : Workgroup) (t : Nat) (i : Instr) (d : Reg) (n : Nat) (acq : Option Scope)
    (form : Place → LoadForm) (f : Formed × State) : Prop :=
  (∃ a off sz cp sx mo, i = .ld d a off sz cp sx mo ∧ n = sz.regs ∧ acq = acqScope mo ∧ form = (fun _ => .flat sx)
      ∧ f = formFlat s th w a.toNat off sz.bytes .read cp)
    ∨ (∃ a b off sz cp two mo, i = .ldRec d a b off sz cp two mo ∧ n = sz.regs ∧ acq = acqScope mo
      ∧ form = (fun p => .element (p.fmt.getD .x32) sz.regs)
      ∧ f = formRec s th w a.toNat b.toNat two off .load (fun f => sizeOk f sz) .read cp)
    ∨ (∃ a off sz sx mo, i = .lds d a off sz sx mo ∧ n = sz.regs ∧ acq = acqScope mo ∧ form = (fun _ => .flat sx)
      ∧ f = (formSpad th w (wgOf t) a.toNat off sz.bytes, s))
    ∨ ∃ a off cp spad mo, i = .ldrec d a off cp spad mo ∧ n = 8 ∧ acq = acqScope mo ∧ form = (fun _ => .octet)
      ∧ f = if spad then (formSpad th w (wgOf t) a.toNat off 32, s) else formFlat s th w a.toNat off 32 .read cp

/-- A load whose address passes its checks (R28, R96, R167, R217): an access to the formed place is outstanding, its destinations but v0 await
the result, and LDC has risen; the thread goes on at the next word with its registers as they were, and memory is unchanged. A load that
misses asks for a fill, unless the thread's held stores give every byte (R152, R208). A load in a
transaction adds a read-set entry; a 33rd taints it with TX-CAPACITY, and the load is suppressed. A load whose address fails a check gives its destination the token and makes no access and no taint; one that a bounds mode fills with zero
gives zero (R212, R217). Nothing awaits a result, the thread goes on, and an acquire takes effect all the same (R316). -/
def Obligations.LoadsIssue : Prop :=
  (∀ (i : Instr) (s : State) (g : Nat) (G : Group) (t : Nat) (th : Thread) (w : Workgroup) (d : Reg) (n : Nat) (acq : Option Scope)
        (form : Place → LoadForm) (f : Formed × State) (p : Place) (reads : List ReadEntry),
        soleMember i s g G t th w → loadWord (entered s) th w t i d n acq form f → f.1 = .at p →
        (th.region.mode = .tx → isRemote (locHome s p.loc) = false) → readEntry th p (heldBytes th p.loc p.n) = some reads →
        let o : Op :=
          { kind := .load (form p), core := w.core, wg := wgOf t, launch := w.launch, issue := s.nextIssue, span := th.span, off := th.off,
            loc := p.loc, n := p.n, pol := p.pol,
            parts := [⟨t, th.serial, List.range' d.toNat n, p.va, 0, 0, heldBytes th p.loc p.n, decide (th.region.mode = .tx)⟩], acq := acq,
            rel := false, blocking := acq.isSome, phase := .waiting, eng := none, entered := s.now, sent := false, reply := none }
        let out : State := { f.2 with ops := put s.ops s.nextId o, nextId := s.nextId + 1 }
        wordLeaves i s t (if allHeld o then out else wantFill out w.core p.loc p.pol)
            (some (nextWord { th with
              ldc := th.ldc + 1
              pending := th.pending ++ (List.range' d.toNat n).filter (· ≠ 0)
              region := { th.region with reads := reads } }))
          ∧ f.2.mem = s.mem ∧ f.2.wgs = s.wgs)
    ∧ (∀ (i : Instr) (s : State) (g : Nat) (G : Group) (t : Nat) (th : Thread) (w : Workgroup) (d : Reg) (n : Nat)
        (acq : Option Scope) (form : Place → LoadForm) (f : Formed × State),
        soleMember i s g G t th w → loadWord (entered s) th w t i d n acq form f →
        (∀ k, f.1 = .fault (.tok k) →
            wordLeaves i s t (acquireNow f.2 w.core acq) (some (nextWord (setRegs th d.toNat (List.replicate n (RegVal.bad k))))))
          ∧ (∀ y, f.1 = .fault (.make y) →
            let k := makeToken f.2 (orgOf s s.nextIssue t th) y
            wordLeaves i s t (acquireNow k.1 w.core acq) (some (nextWord (setRegs th d.toNat (List.replicate n (RegVal.bad k.2))))))
          ∧ (f.1 = .dropped →
            wordLeaves i s t (acquireNow f.2 w.core acq) (some (nextWord (setRegs th d.toNat (List.replicate n (.clean 0))))))
          ∧ (∀ p, f.1 = .at p → (th.region.mode = .tx → isRemote (locHome s p.loc) = false) →
            readEntry th p (heldBytes th p.loc p.n) = none →
            let k := makeToken f.2 (orgOf s s.nextIssue t th) ⟨.txCapacity, some p.va, false, false⟩
            wordLeaves i s t (acquireNow k.1 w.core acq)
              (some (nextWord (setRegs { th with region := taintRegion th.region k.2 } d.toNat (List.replicate n (RegVal.bad k.2)))))))

/-- The three store instructions, with what each is made of: whether it releases, its data, the formation of its address, and the bytes that
it stores (R205, R210, R211, R213, R218). -/
def Sys2Proof.Machine.storeWord (th : Thread) (w : Workgroup) (t : Nat) (i : Instr) (rel : Bool) (data : List RegVal)
    (form : State → Formed × State) (bytes : Place → List Byte) : Prop :=
  (∃ d a off sz cp mo, i = .st d a off sz cp mo ∧ rel = isRel mo ∧ data = readRegs th d.toNat sz.regs
      ∧ form = (fun s => formFlat s th w a.toNat off sz.bytes .write cp)
      ∧ bytes = fun _ => leBytes sz.bytes (joinRegs (readRegs th d.toNat sz.regs)))
    ∨ (∃ d a b off sz cp two mo, i = .stRec d a b off sz cp two mo ∧ rel = isRel mo ∧ data = readRegs th d.toNat sz.regs
      ∧ form = (fun s => formRec s th w a.toNat b.toNat two off .store (fun f => sizeOk f sz) .write cp)
      ∧ bytes = fun p => elementStore (p.fmt.getD .x32) sz (readRegs th d.toNat sz.regs))
    ∨ ∃ d a off sz mo, i = .sts d a off sz mo ∧ rel = isRel mo ∧ data = readRegs th d.toNat sz.regs
      ∧ form = (fun s => (formSpad th w (wgOf t) a.toNat off sz.bytes, s))
      ∧ bytes = fun _ => leBytes sz.bytes (joinRegs (readRegs th d.toNat sz.regs))

/-- A thread with a store held at the end of its region's buffer (R152). -/
def Sys2Proof.Machine.holding (th : Thread) (h : HeldStore) : Thread :=
  { th with region := { th.region with stores := th.region.stores ++ [h] } }

/-- A store that does not release (R152, R153, R218). With clean operands and an address that passes, it is held in the region's buffer and no
memory changes; where the buffer already holds 32, a plain untainted region first commits, and in a transaction the store is suppressed and the region
tainted with TX-CAPACITY. The token of an address that fails taints the region
and nothing is held; where the address passes or a bounds mode drops it, so does the token of its data. A store that a bounds mode drops, its
data clean, has no effect. A store that releases (R28, R159, R218, R315): its commit and its waits done, it is an outstanding access at once and raises STC; it is not
held, and no memory changes yet. -/
def Obligations.StoresAreHeldOrGoOut : Prop :=
  (∀ (i : Instr) (s : State) (g : Nat) (G : Group) (t : Nat) (th : Thread) (w : Workgroup) (data : List RegVal)
        (form : State → Formed × State) (bytes : Place → List Byte), soleMember i s g G t th w → storeWord th w t i false data form bytes →
        let f := form (entered s)
        let held (p : Place) : HeldStore := ⟨p.loc, p.va, bytes p, p.pol, s.nextIssue, th.span, th.off⟩
        (∀ p, firstTok data = none → f.1 = .at p → (th.region.mode = .tx → isRemote (locHome s p.loc) = false) → th.region.stores.length < 32 →
            wordLeaves i s t f.2 (some (nextWord (holding th (held p)))) ∧ f.2.mem = s.mem ∧ f.2.wgs = s.wgs)
          ∧ (∀ p, firstTok data = none → f.1 = .at p → th.region.mode = .plain → th.region.taint = false → th.region.stores.length = 32 →
            wordLeaves i s t (withoutReads (released f.2 t th w) t)
              (some (nextWord (holding (committed { th with stc := th.stc + 32 } (wordAddr th)) (held p)))))
          ∧ (∀ p, firstTok data = none → f.1 = .at p → th.region.mode = .tx → isRemote (locHome s p.loc) = false →
            th.region.stores.length = 32 →
            let k := makeToken f.2 (orgOf s s.nextIssue t th) ⟨.txCapacity, some p.va, false, false⟩
            wordLeaves i s t k.1 (some (nextWord { th with region := taintRegion th.region k.2 })))
          ∧ (∀ k, (f.1 = .fault (.tok k) ∨ (firstTok data = some k ∧ ∀ y, f.1 ≠ .fault y)) →
            wordLeaves i s t f.2 (some (nextWord { th with region := taintRegion th.region k })))
          ∧ (∀ y, f.1 = .fault (.make y) →
            let k := makeToken f.2 (orgOf s s.nextIssue t th) y
            wordLeaves i s t k.1 (some (nextWord { th with region := taintRegion th.region k.2 })))
          ∧ (firstTok data = none → f.1 = .dropped → wordLeaves i s t f.2 (some (nextWord th))))
    ∧ (∀ (i : Instr) (s : State) (g : Nat) (G : Group) (t : Nat) (th : Thread) (w : Workgroup) (data : List RegVal)
        (form : State → Formed × State) (bytes : Place → List Byte) (p : Place),
        soleMember i s g G t th w → storeWord th w t i true data form bytes → th.unacked = none → th.region.mode = .plain →
        firstTok data = none →
        let s' := modTh (issued i s G) t fun th => { th with relSince := none, unacked := none }
        (form s').1 = .at p →
        let o : Op :=
          { kind := .store (bytes p), core := w.core, wg := wgOf t, launch := w.launch, issue := s.nextIssue, span := th.span, off := th.off,
            loc := p.loc, n := (bytes p).length, pol := p.pol, parts := [⟨t, th.serial, [], p.va, 0, 0, [], false⟩], acq := none, rel := true,
            blocking := false, phase := .waiting, eng := none, entered := s.now, sent := false, reply := none }
        wordLeaves i s t { (form s').2 with ops := put s'.ops s'.nextId o, nextId := s'.nextId + 1 }
          (some (nextWord { th with relSince := none, unacked := none, stc := th.stc + 1 })))

/-- The three atomic instructions, with what each is made of: its destination, size, operation and ordering, its operands, and the
formation of its address (R205, R210, R211, R220, R221). -/
def Sys2Proof.Machine.atomicWord (th : Thread) (w : Workgroup) (t : Nat) (i : Instr) (d : Reg) (sz : Size) (op : AtomOp) (mo : MemOrder)
    (form : State → Formed × State) (x y : List RegVal) : Prop :=
  ∃ (a b : Reg) (off : BitVec 16),
    (∃ cp, i = .atom d a b off sz cp op mo
        ∧ form = (fun s => formFlat s th w a.toNat off sz.bytes .atomic cp) ∧ x = readRegs th b.toNat sz.regs
        ∧ y = if op = .cas then readRegs th (b.toNat + sz.regs) sz.regs else [])
      ∨ (∃ cp, i = .atomRec d a b off sz cp op mo
        ∧ form = (fun s => formRec s th w a.toNat b.toNat false off .atomic (fun f => atomFmtOk f sz op) .atomic cp)
        ∧ x = readRegs th (b.toNat + if sz = .x64 then 2 else 1) sz.regs
        ∧ y = if op = .cas then readRegs th (b.toNat + (if sz = .x64 then 2 else 1) + sz.regs) sz.regs else [])
      ∨ (i = .atoms d a b off sz op mo
        ∧ form = (fun s => (formSpad th w (wgOf t) a.toNat off sz.bytes, s)) ∧ x = readRegs th b.toNat sz.regs
        ∧ y = if op = .cas then readRegs th (b.toNat + sz.regs) sz.regs else [])

/-- An atomic of one thread (R28, R96, R220 to R223): the access with its operands is outstanding. With a destination it raises LDC and the
destination awaits the old value; with D = v0 it raises STC, as a store does. An address that fails suppresses it, and where the address passes
poisoned data do: the region is tainted and a destination other than v0 receives the token (R153, R224); that D = v0 leaves the pair v0:v1 as it is is
the model's choice (log 104). One that a bounds mode drops gives
zero. Memory is unchanged until it is performed. -/
def Obligations.AtomicsIssue : Prop :=
  ∀ (i : Instr) (s : State) (g : Nat) (G : Group) (t : Nat) (th : Thread) (w : Workgroup) (d : Reg) (sz : Size) (op : AtomOp) (mo : MemOrder)
    (form : State → Formed × State) (x y : List RegVal),
    soleMember i s g G t th w → atomicWord th w t i d sz op mo form x y → th.unacked = none →
    let th0 := if isRel mo then { th with relSince := none, unacked := none } else th
    let s' := if isRel mo then modTh (issued i s G) t fun th => { th with relSince := none, unacked := none } else issued i s G
    let f := form s'
    let gives (v : RegVal) (th : Thread) : Thread := if d = 0 then th else setRegs th d.toNat (List.replicate sz.regs v)
    (∀ p, firstTok (x ++ y) = none → f.1 = .at p → heldMeets th p.loc p.n = false →
        let dst := if d = 0 then [] else List.range' d.toNat sz.regs
        let o : Op :=
          { kind := .atomic op (decide (p.n = 8)), core := w.core, wg := wgOf t, launch := w.launch, issue := s.nextIssue, span := th.span,
            off := th.off, loc := p.loc, n := p.n, pol := p.pol,
            parts := [⟨t, th.serial, dst, p.va, BitVec.ofNat 64 (joinRegs x), BitVec.ofNat 64 (joinRegs y), [], false⟩],
            acq := acqScope mo, rel := isRel mo, blocking := isAcq mo, phase := .waiting, eng := none, entered := s.now, sent := false, reply := none }
        wordLeaves i s t { f.2 with ops := put s'.ops s'.nextId o, nextId := s'.nextId + 1 }
          (some (nextWord (if d = 0 then { th0 with stc := th.stc + 1 }
            else { th0 with ldc := th.ldc + 1, pending := th.pending ++ (List.range' d.toNat sz.regs).filter (· ≠ 0) }))))
      ∧ (∀ k, (f.1 = .fault (.tok k) ∨ (firstTok (x ++ y) = some k ∧ ∀ z, f.1 ≠ .fault z)) →
        wordLeaves i s t (acquireNow f.2 w.core (acqScope mo))
          (some (nextWord (gives (RegVal.bad k) { th0 with region := taintRegion th.region k }))))
      ∧ (∀ z, f.1 = .fault (.make z) →
        let k := makeToken f.2 (orgOf s' s.nextIssue t th) z
        wordLeaves i s t (acquireNow k.1 w.core (acqScope mo))
          (some (nextWord (gives (RegVal.bad k.2) { th0 with region := taintRegion th.region k.2 }))))
      ∧ (firstTok (x ++ y) = none → f.1 = .dropped →
        wordLeaves i s t (acquireNow f.2 w.core (acqScope mo)) (some (nextWord (gives (.clean 0) th0))))

/-- Words that touch no register and store nothing (R225, R226, R305, R306): PREF through a flat address or a record, CINV and ICINV complete for
one thread with clean operands, which goes on at the next word; they change no register, no byte of memory or scratchpad, and no outstanding
access (a poisoned copy that a fill evicts from the cluster cache takes its poison home, R276); with .all, CINV leaves no copy in the L1 of a core of its scope, and ICINV no instruction word. WAITCNT issues only when each named counter is at or below its limit, and then changes nothing. FENCE (R325): its commit and its waits done, D is 0 and clean and the thread goes on; a fence that only releases changes no cache. -/
def Obligations.HintsDropsAndFences : Prop :=
  (∀ (i : Instr) (s : State) (g : Nat) (G : Group) (t : Nat) (th : Thread) (w : Workgroup), soleMember i s g G t th w →
        ((∃ a off cp, i = .pref a off cp) ∨ (∃ a b off cp two, i = .prefRec a b off cp two)
            ∨ (∃ a b sc all, (i = .cinv a b sc all ∨ i = .icinv a b sc all) ∧ (all = true ∨ ∃ r, dropOperands th a b = .ok r)) →
          ∃ u, exec i s = .next u ∧ thOf u t = some (nextWord th) ∧ othersKept s u t ∧ u.wgs = s.wgs ∧ u.ops = s.ops
            ∧ ((∀ p ∈ clusterAt s (cluOf w.core), p.2.struck = false) → memoryKept s u)
            ∧ (∀ a b sc, i = .cinv a b sc true → ∀ c ∈ scopeCores w.core sc, (coreAt u c).l1 = [])
            ∧ ∀ a b sc, i = .icinv a b sc true → ∀ c ∈ scopeCores w.core sc, (coreAt u c).icache = [])
          ∧ ∀ a b c d, i = .waitcnt a b c d →
            wordLeavesOnly i s t (some (nextWord th))
              ∧ ∀ l n, (l, n) ∈ [(a, th.ldc), (b, th.stc), (c, th.cpc), (d, th.mxc)] → l = 255 ∨ n ≤ l.toNat)
    ∧ (∀ (s : State) (g : Nat) (G : Group) (t : Nat) (th : Thread) (w : Workgroup) (d : Reg) (mo : MemOrder),
        soleMember (.fence d mo) s g G t th w → th.unacked = none →
        wordLeaves (.fence d mo) s t (acquireNow (issued (.fence d mo) s G) w.core (acqScope mo))
            (some (nextWord (setReg { th with relSince := none, unacked := none } d.toNat (.clean 0))))
          ∧ (isAcq mo = false → acquireNow (issued (.fence d mo) s G) w.core (acqScope mo) = issued (.fence d mo) s G))
/-! ## Collectives, barriers and timelines -/

/-- The ten rendezvous collectives, with what the workgroup will compute, their destination, their operand, their second operand, and the
registers of the operand (R189, R191, R198 to R202). -/
def Sys2Proof.Machine.collective (i : Instr) (op : CollOp) (d a b : Reg) (n : Nat) : Prop :=
  (∃ o rm, i = .gred d a b o rm ∧ op = .gred o rm false (decide (b ≠ 0)) ∧ n = 1)
    ∨ (∃ o rm, i = .gredW d a b o rm ∧ op = .gred o rm true (decide (b ≠ 0)) ∧ n = 2)
    ∨ (∃ o e rm, i = .gscan d a b o e rm ∧ op = .gscan o e rm false (decide (b ≠ 0)) ∧ n = 1)
    ∨ (∃ o e rm, i = .gscanW d a b o e rm ∧ op = .gscan o e rm true (decide (b ≠ 0)) ∧ n = 2)
    ∨ (∃ m, i = .gshf d a b m ∧ op = .gshf m false ∧ n = 1)
    ∨ (∃ m, i = .gshfW d a b m ∧ op = .gshf m true ∧ n = 2)
    ∨ (i = .gbcast d a b ∧ op = .gbcast false (decide (b ≠ 0)) ∧ n = 1)
    ∨ (i = .gbcastW d a b ∧ op = .gbcast true (decide (b ≠ 0)) ∧ n = 2)
    ∨ (∃ m, i = .gvote d a b m ∧ op = .gvote m (decide (b ≠ 0)) ∧ n = 1)
    ∨ ∃ y, i = .regsize d a y ∧ op = .regsize y ∧ b = 0 ∧ n = 1

/-- What a thread brings to a rendezvous (R188). -/
def Sys2Proof.Machine.brings (s : State) (op : CollOp) (d a b : Reg) (n t : Nat) : Option Arrival :=
  (thOf s t).map fun th =>
    let x := valOf (readRegs th a.toNat n)
    let y := reg1 th b
    { th := t, word := wordAddr th, op := op, dst := d.toNat, a := x.data, b := y.data, aTok := x.tok, bTok := y.tok }

/-- The word of a collective (R186, R188): it does not wait for other groups. Each member's arrival, with its operands as they stand, is recorded
with its own workgroup, and the group parks at the word until its workgroups' rendezvous are complete. No register and no memory changes. -/
def Obligations.CollectivesArriveAndPark : Prop :=
  ∀ (i : Instr) (op : CollOp) (d a b : Reg) (n : Nat) (s : State) (g : Nat) (G : Group), collective i op d a b n →
    s.focus = some g → grpOf s g = some G → G.members ≠ [] → G.members.all (fun t => legalHere i s t && isInFlight s t) = true →
    G.members.any (meetsErrorHere i s) = false → stallAmong i s G.core G.members = none →
    ∃ u, exec i s = .next u ∧ grpOf u g = some { G with park := some (.rendezvous, i) }
      ∧ (∀ k w, wgAt s k = some w →
          wgAt u k = some { w with
            arrivals := w.arrivals ++ (G.members.filter fun t => wgOf t = k).filterMap (brings s op d a b n) })
      ∧ (∀ t th, thOf s t = some th → ∃ th', thOf u t = some th' ∧ sameButWait th th')
      ∧ u.mem = s.mem ∧ u.ops = s.ops ∧ u.cores = s.cores

/-- An arrival at a barrier object (R196): both counts saturate; when both reach their targets the phase flips and the counts are 0. -/
def Sys2Proof.Machine.arrived (o : BarObj) (c y : Nat) : BarObj :=
  let ac := min (o.acount + c) 65535
  let ab := min (o.abytes + y) 4294967295
  if o.tcount ≤ ac ∧ o.tbytes ≤ ab then { o with phase := !o.phase, acount := 0, abytes := 0 } else { o with acount := ac, abytes := ab }

/-- An object after an arrival: its bytes, and the scopes of the engine acquires that its phases carry: those of the arrivals so far, which a flip
makes the completed phase's (R196, R267, R273). -/
def Sys2Proof.Machine.afterArrival (s : State) (wg x : Nat) (w : Workgroup) (sc : Option Scope) (c : Nat) : State :=
  let o := arrived (objAt w x) c 0
  let noted := lookD w.arrScopes x ([], [])
  let now := noted.1 ++ sc.toList
  modWg (setObj s wg x o) wg fun v => noteScopes v x (if o.phase = phaseBit w x then (now, noted.2) else ([], now))

/-- Barrier words of one thread whose operands are clean and whose address names an object (R195 to R197, R203). BARINIT writes the object with
phase 0, the clamped count and the byte target; ARRIVE gives the phase that it met and then arrives, with its count or 1; WAITPH, once it
issues, has met a phase that differs from the parity, and gives it; TESTPH tells whether it differs. An acquire that is met takes effect, with the engine acquires of
the phase that it observes (R267). The bytes of the object are all that change in the scratchpad. -/
def Obligations.BarrierWordsAct : Prop :=
  ∀ (s : State) (g : Nat) (G : Group) (t : Nat) (th : Thread) (w : Workgroup) (d a b c : Reg) (mo : MemOrder) (x : Nat),
    (readReg th a.toNat).poison = false → (readReg th b.toNat).poison = false → spadForm th w a.toNat 0 16 = .ok x →
    (soleMember (.barinit a b c) s g G t th w → (readReg th c.toNat).poison = false →
        wordLeaves (.barinit a b c) s t
          (setObj (modWg (issued (.barinit a b c) s G) (wgOf t) fun v => noteScopes v x ([], [])) (wgOf t) x
            { phase := false, tcount := min (readReg th b.toNat).data.toNat 65535, acount := 0, tbytes := (readReg th c.toNat).data.toNat, abytes := 0 })
          (some (nextWord th)))
      ∧ (soleMember (.arrive d a b mo) s g G t th w → th.unacked = none → objectRefused w x = none →
        wordLeaves (.arrive d a b mo) s t
          (afterArrival (issued (.arrive d a b mo) s G) (wgOf t) x w none (if b = 0 then 1 else (readReg th b.toNat).data.toNat))
          (some (nextWord (setReg (if isRel mo then { th with relSince := none, unacked := none } else th) d.toNat
            (RegVal.clean (if phaseBit w x then 1 else 0))))))
      ∧ (soleMember (.waitph d a b mo) s g G t th w → objectRefused w x = none →
        phaseBit w x ≠ (readReg th b.toNat).data.getLsbD 0
          ∧ wordLeaves (.waitph d a b mo) s t (acquirePhase (issued (.waitph d a b mo) s G) w x (acqScope mo))
            (some (nextWord (setReg th d.toNat (RegVal.clean (if phaseBit w x then 1 else 0))))))
      ∧ (soleMember (.testph d a b mo) s g G t th w → objectRefused w x = none →
        let differs : Prop := phaseBit w x ≠ (readReg th b.toNat).data.getLsbD 0
        (differs → wordLeaves (.testph d a b mo) s t (acquirePhase (issued (.testph d a b mo) s G) w x (acqScope mo))
            (some (nextWord (setReg th d.toNat (RegVal.clean 1)))))
          ∧ (¬differs → wordLeaves (.testph d a b mo) s t (issued (.testph d a b mo) s G)
            (some (nextWord (setReg th d.toNat (.clean 0))))))
      ∧ ∀ cause, objectRefused w x = some cause → soleMember (.testph d a b mo) s g G t th w →
        let k := makeToken (issued (.testph d a b mo) s G) (orgOf (issued (.testph d a b mo) s G) s.nextIssue t th) ⟨cause, some (BitVec.ofNat 64 x), false, false⟩
        wordLeaves (.testph d a b mo) s t k.1 (some (nextWord (setReg th d.toNat (RegVal.bad k.2))))

/-- Timeline words of one thread (R258 to R261, R273 to R275). TLREAD gives ISSUED or DONE. TLWAIT with a clean value issues only when DONE has
reached it, and acquires at the context's scope; a poisoned value taints the region. ARRIVEX with clean operands at an object of its
workgroup: where DONE has reached its number it arrives at once, with an engine acquire at the context's scope for who acquires the phase, else a deferred arrival is queued on its core and the thread goes on. -/
def Obligations.TimelineWordsAct : Prop :=
  ∀ (s : State) (g : Nat) (G : Group) (t : Nat) (th : Thread) (w : Workgroup) (tl : BitVec 3),
    let x := timelineAt w tl.toNat
    (∀ d iss, soleMember (.tlread d tl iss) s g G t th w →
        wordLeavesOnly (.tlread d tl iss) s t
          (some (nextWord (setRegs th d.toNat (splitRegs 2 (BitVec.ofNat 64 (if iss then x.issued else x.done)).toNat)))))
      ∧ (∀ a, soleMember (.tlwait a tl) s g G t th w → (reg2 th a).tok = none →
        (reg2 th a).data.toNat ≤ x.done
          ∧ wordLeaves (.tlwait a tl) s t (engineAcquire (entered s) w tl.toNat) (some (nextWord th)))
      ∧ (∀ a k, soleMember (.tlwait a tl) s g G t th w → (reg2 th a).tok = some k →
        wordLeavesOnly (.tlwait a tl) s t (some (nextWord { th with region := taintRegion th.region k })))
      ∧ ∀ a b c y, soleMember (.arrivex a b c tl) s g G t th w →
        firstTok [readReg th a.toNat, readReg th b.toNat, readReg th (b + 1).toNat, readReg th c.toNat] = none →
        spadForm th w a.toNat 0 16 = .ok y →
        let n := if c = 0 then 1 else (readReg th c.toNat).data.toNat % 65536
        ((reg2 th b).data.toNat ≤ x.done → objectRefused w y = none →
          wordLeaves (.arrivex a b c tl) s t
            (afterArrival (issued (.arrivex a b c tl) s G) (wgOf t) y w (scopeOfTl w tl.toNat) n) (some (nextWord th)))
          ∧ (x.done < (reg2 th b).data.toNat →
            let s' := issued (.arrivex a b c tl) s G
            let e : Deferred :=
              { wg := wgOf t, th := t, issue := s.nextIssue, span := th.span, off := th.off, tl := tl.toNat, num := (reg2 th b).data.toNat,
                addr := y, count := n, due := none }
            wordLeaves (.arrivex a b c tl) s t
              { s' with
                nextId := s'.nextId + 1
                cores := put s'.cores w.core { coreAt s' w.core with deferred := put (coreAt s' w.core).deferred s'.nextId e } }
              (some (nextWord th)))
/-! ## Words that start operations of engines, tasks and launches -/

/-- A context of a workgroup takes its next number (R259). -/
def Sys2Proof.Machine.numbered (s : State) (k tl : Nat) : State :=
  { s with wgs := alter s.wgs k fun w => { w with tls := modAt w.tls tl fun x => { x with issued := x.issued + 1 } } }

/-- Engine words of one thread that pass their checks (R28, R230, R254, R256, R257, R262, R272, R411). MXGO, CPGO and XFER take the next number of
their context, give it in the pair D, and put one entry into their engine's queue; MXC and CPC rise by one for the first two; CPGO also clears
the presence bits of its destination lines. MXRD and MXWR put one entry with the thread's element; MXC rises, and MXRD's destination
awaits the element. Nothing is read or written by the engine yet. Engine words of one thread with a poisoned operand (R153, R254, R256, R257, R272, R411): the operation is suppressed. The region is tainted, the
destination receives the token, and nothing is queued; MXWR has no destination. The same with a token that the word makes (R254, R256, R257, R272):
INVALID or SPAD-BOUNDS for MXGO and CPGO of an address that is misaligned or beyond the scratchpad; for MXRD and MXWR of an index above 127, answered
at issue (log 86), INVALID with 256 A + B in its record, which taints the region for MXWR alone. -/
def Obligations.EngineWordsQueueOperations : Prop :=
  (∀ (s : State) (g : Nat) (G : Group) (t : Nat) (th : Thread) (w : Workgroup) (d a b : Reg) (tl : BitVec 3) (acc : BitVec 2),
        let v := readReg th a.toNat
        let x := v.data.toNat
        let num := (timelineAt w tl.toNat).issued + 1
        let numbers (th : Thread) : Thread := setRegs th d.toNat (splitRegs 2 (BitVec.ofNat 64 num).toNat)
        let mx (issue : Nat) (kind : MxKind) : MxEntry :=
          { kind := kind, wg := wgOf t, th := t, serial := th.serial, issue := issue, since := s.now, span := th.span,
            off := th.off, stage := .queued, got := Operands.none, res := MxResult.none, block := none, fault := none, word0 := false, crec := none, event := none, index := none, fusedWith := none,
            fetched := [], guideTile := none }
        let queued (s : State) (e : MxEntry) : State :=
          { s with
            nextId := s.nextId + 1
            cores := put s.cores w.core { coreAt s w.core with mxq := put (coreAt s w.core).mxq s.nextId e } }
        (soleMember (.mxgo d a tl) s g G t th w → v.poison = false → x % 128 = 0 → x + 128 ≤ 128 * w.hdr.scratch →
            wordLeaves (.mxgo d a tl) s t (queued (numbered s (wgOf t) tl.toNat) (mx (s.nextIssue + 1) (.go x tl.toNat num)))
              (some (nextWord (numbers { th with mxc := th.mxc + 1 }))))
          ∧ (soleMember (.mxrd d a b acc) s g G t th w → v.poison = false → (readReg th b.toNat).poison = false → x ≤ 127 →
            (readReg th b.toNat).data.toNat ≤ 127 →
            let dst := if d = 0 then [] else [d.toNat]
            wordLeaves (.mxrd d a b acc) s t
              (queued s (mx s.nextIssue (.rd acc.toNat [⟨t, th.serial, d.toNat, x, (readReg th b.toNat).data.toNat, 0⟩])))
              (some (nextWord { th with mxc := th.mxc + 1, pending := th.pending ++ dst.filter fun r => !th.pending.contains r })))
          ∧ (soleMember (.mxwr d a b acc) s g G t th w → v.poison = false → (readReg th b.toNat).poison = false →
            (readReg th d.toNat).poison = false → x ≤ 127 → (readReg th b.toNat).data.toNat ≤ 127 →
            wordLeaves (.mxwr d a b acc) s t
              (queued s (mx s.nextIssue
                (.wr acc.toNat [⟨t, th.serial, d.toNat, x, (readReg th b.toNat).data.toNat, (readReg th d.toNat).data⟩])))
              (some (nextWord { th with mxc := th.mxc + 1 })))
          ∧ (soleMember (.cpgo d a tl) s g G t th w → v.poison = false → x % 64 = 0 → x + 64 ≤ 128 * w.hdr.scratch →
            poisonIn w.spadPoison x 64 = none → copyFault w (memGetN w.spad x 64) = none →
            let req := copyReqOf (memGetN w.spad x 64)
            let s' := clearPresence (numbered s (wgOf t) tl.toNat) (wgOf t) req
            let e : CopyEntry :=
              { req := req, wg := wgOf t, th := t, serial := th.serial, issue := s.nextIssue + 1, span := th.span, off := th.off, tl := tl.toNat,
                num := num, running := false, writing := [], done := [], waiting := [], events := [] }
            wordLeaves (.cpgo d a tl) s t
              { s' with
                nextId := s'.nextId + 1
                cores := put s'.cores w.core { coreAt s' w.core with cpq := put (coreAt s' w.core).cpq s'.nextId e } }
              (some (nextWord (numbers { th with cpc := th.cpc + 1 }))))
          ∧ (soleMember (.xfer d a tl) s g G t th w → firstTok (readRegs th a.toNat 8) = none → xferFault s w (octetRec th a.toNat) = none →
            let e : Xfer :=
              { desc := xferDescOf (octetRec th a.toNat), core := w.core, wg := wgOf t, launch := w.launch, th := t, issue := s.nextIssue + 1,
                span := th.span, off := th.off, tl := tl.toNat, num := num, part := w.part, running := false, entry := 0, sent := 0, done := [], event := none, entered := 0 }
            let s' := numbered s (wgOf t) tl.toNat
            wordLeaves (.xfer d a tl) s t { s' with nextId := s'.nextId + 1, xfers := put s'.xfers s'.nextId e } (some (nextWord (numbers th)))))
    ∧ (∀ (s : State) (g : Nat) (G : Group) (t : Nat) (th : Thread) (w : Workgroup) (d a b : Reg) (tl : BitVec 3) (acc : BitVec 2) (k : Word),
        let tainted : Thread := { th with region := taintRegion th.region k }
        (∀ i, i = .mxgo d a tl ∨ i = .cpgo d a tl → soleMember i s g G t th w → readReg th a.toNat = (RegVal.bad k) →
            wordLeavesOnly i s t (some (nextWord (setRegs tainted d.toNat [(RegVal.bad k), (RegVal.bad k)]))))
          ∧ (soleMember (.xfer d a tl) s g G t th w → firstTok (readRegs th a.toNat 8) = some k →
            wordLeavesOnly (.xfer d a tl) s t (some (nextWord (setRegs tainted d.toNat [(RegVal.bad k), (RegVal.bad k)]))))
          ∧ (soleMember (.mxrd d a b acc) s g G t th w → firstTok [readReg th a.toNat, readReg th b.toNat] = some k →
            wordLeavesOnly (.mxrd d a b acc) s t (some (nextWord (setReg tainted d.toNat (RegVal.bad k)))))
          ∧ (soleMember (.mxwr d a b acc) s g G t th w →
            firstTok [readReg th a.toNat, readReg th b.toNat, readReg th d.toNat] = some k →
            wordLeavesOnly (.mxwr d a b acc) s t (some (nextWord tainted))))
    ∧ (∀ (s : State) (g : Nat) (G : Group) (t : Nat) (th : Thread) (w : Workgroup) (d a b : Reg) (tl : BitVec 3) (acc : BitVec 2),
        let x := (readReg th a.toNat).data
        let y := (readReg th b.toNat).data
        let tainted (k : Word) : Thread := { th with region := taintRegion th.region k }
        (∀ (i : Instr) (n : Nat) (f : Why), (i = .mxgo d a tl ∧ n = 128) ∨ (i = .cpgo d a tl ∧ n = 64) → soleMember i s g G t th w →
            (readReg th a.toNat).poison = false →
            (x.toNat % n ≠ 0 ∧ f = ⟨.invalid, some (x.setWidth 64), false, false⟩)
              ∨ (x.toNat % n = 0 ∧ 128 * w.hdr.scratch < x.toNat + n ∧ f = ⟨.spadBounds, some (x.setWidth 64), false, false⟩) →
            let k := makeToken (entered s) (orgOf s s.nextIssue t th) f
            wordLeaves i s t k.1 (some (nextWord (setRegs (tainted k.2) d.toNat [RegVal.bad k.2, RegVal.bad k.2]))))
          ∧ ((readReg th a.toNat).poison = false → (readReg th b.toNat).poison = false → 127 < x.toNat ∨ 127 < y.toNat →
            let k := indexToken (entered s) s.nextIssue t th w.core x y
            (soleMember (.mxrd d a b acc) s g G t th w →
                wordLeaves (.mxrd d a b acc) s t k.1 (some (nextWord (setReg th d.toNat (RegVal.bad k.2)))))
              ∧ (soleMember (.mxwr d a b acc) s g G t th w → (readReg th d.toNat).poison = false →
                wordLeaves (.mxwr d a b acc) s t k.1 (some (nextWord (tainted k.2))))
              ∧ k.2 = (makeToken (entered s) (orgOf s s.nextIssue t th) ⟨.invalid, none, false, false⟩).2
              ∧ ((∀ z ∈ s.issueFaults, z.issue ≠ s.nextIssue) → k.2.toNat / 2 ^ 24 ≠ 0 →
                (recAt k.1 w.core (k.2.toNat / 2 ^ 24)).faddr = BitVec.ofNat 64 (256 * x.toNat + y.toNat))))

/-- EXIT, FREEZE and THAW complete. EXIT, its implicit commit done, ends every member of its group (R131), in a state whose tables are in order
(StepsKeepTablesInOrder). FREEZE and THAW of one thread that pass
their checks (R298, R299, R302, R307, R308) give the number that they take, THAW whatever its handle names. FREEZE, its release done, takes the lowest free entry of the
freeze table, whose generation advances, gives its number in D and the handle 0x0001 : generation : entry in C; with no free entry the
number is complete at once and the handle is 0. THAW takes a number; for a handle that no live freeze of the partition has, the number
completes at once with an event, and one that names a frozen range which nothing else holds ends in its issue's own step (the model's choice, log 58). -/
def Obligations.ExitFreezeThawComplete : Prop :=
  ∀ (s : State) (g : Nat) (G : Group) (t : Nat) (th : Thread) (w : Workgroup) (d a b c : Reg) (tl : BitVec 3) (sc : Scope),
    let num := (timelineAt w tl.toNat).issued + 1
    (issuesNow .exit s g G = true → tidy s →
        ∃ u, exec .exit s = .next u ∧ (∀ x ∈ G.members, thOf u x = none) ∧ grpOf u g = none
          ∧ (∀ x, x ∉ G.members → ∀ y, thOf (issued .exit s G) x = some y → ∃ y', thOf u x = some y' ∧ sameButWait y y')
          ∧ u.mem = (issued .exit s G).mem)
      ∧ (soleMember (.freeze d a b c tl sc) s g G t th w → th.unacked = none →
        firstTok (readRegs th a.toNat 2 ++ readRegs th b.toNat 1) = none → freezeFault (reg2 th a).data (reg1 th b).data.toNat = none →
        let s' := issued (.freeze d a b c tl sc) s G
        let h : Word := match freeEntry s' with
          | some i => BitVec.ofNat 32 (65536 + 256 * (((freezeAt s' i).gen + 1) % 256) + i)
          | none => 0
        ∃ u, exec (.freeze d a b c tl sc) s = .next u ∧ othersKept s' u t ∧ u.mem = s'.mem
          ∧ thOf u t = some (nextWord (setRegs (setReg { th with relSince := none, unacked := none } c.toNat (RegVal.clean h)) d.toNat
              (splitRegs 2 (BitVec.ofNat 64 num).toNat))))
      ∧ (soleMember (.thaw d a tl) s g G t th w → (reg1 th a).tok = none →
        ∃ u, exec (.thaw d a tl) s = .next u ∧ othersKept s u t ∧ u.mem = s.mem
          ∧ thOf u t = some (nextWord (setRegs th d.toNat (splitRegs 2 (BitVec.ofNat 64 num).toNat))))
      ∧ (soleMember (.freeze d a b c tl sc) s g G t th w → th.unacked = none →
        firstTok (readRegs th a.toNat 2 ++ readRegs th b.toNat 1) = none → freezeFault (reg2 th a).data (reg1 th b).data.toNat = none →
        let s' := issued (.freeze d a b c tl sc) s G
        let th' : Thread := { th with relSince := none, unacked := none }
        let given (h : Word) : Thread := setRegs (setReg th' c.toNat (RegVal.clean h)) d.toNat (splitRegs 2 (BitVec.ofNat 64 num).toNat)
        (∀ i, freeEntry s' = some i →
            let gen := ((freezeAt s' i).gen + 1) % 256
            let h : Word := BitVec.ofNat 32 (65536 + 256 * gen + i)
            let f : FreezeEntry :=
              { dvec := [], pgran := 0, count := 0, gen := gen, part := w.part, state := .freezing, sys := decide (sc = .sys), link := 0,
                last := true, lvec := [], pend := 0 }
            let o : FreezeOp :=
              { wg := wgOf t, launch := w.launch, core := w.core, th := t, span := th.span, off := th.off, tl := tl.toNat, num := num,
                part := w.part, isThaw := false, va := (reg2 th a).data, len := (reg1 th b).data.toNat, sys := decide (sc = .sys), entry := i,
                handle := h, next := 0, cur := i }
            let n := numbered s' (wgOf t) tl.toNat
            wordLeaves (.freeze d a b c tl sc) s t
              { n with freezes := put n.freezes i f, nextId := n.nextId + 1, freezeOps := put n.freezeOps n.nextId o } (some (nextWord (given h))))
          ∧ (freeEntry s' = none →
            wordLeaves (.freeze d a b c tl sc) s t (completeNumber (numbered s' (wgOf t) tl.toNat) (wgOf t) tl.toNat num)
              (some (nextWord (given 0)))))
      ∧ (∀ i, soleMember (.thaw d a tl) s g G t th w → (reg1 th a).tok = none → liveHandle s w.part (readReg th a.toNat).data = some i →
        (freezeAt s i).state ≠ .frozen →
        let o : FreezeOp :=
          { wg := wgOf t, launch := w.launch, core := w.core, th := t, span := th.span, off := th.off, tl := tl.toNat, num := num, part := w.part,
            isThaw := true, va := 0, len := 0, sys := false, entry := 0, handle := (readReg th a.toNat).data, next := 0, cur := 0 }
        let n := numbered s (wgOf t) tl.toNat
        wordLeaves (.thaw d a tl) s t { n with nextId := n.nextId + 1, freezeOps := put n.freezeOps n.nextId o }
          (some (nextWord (setRegs th d.toNat (splitRegs 2 (BitVec.ofNat 64 num).toNat)))))
      ∧ ∀ i, soleMember (.thaw d a tl) s g G t th w → (reg1 th a).tok = none → liveHandle s w.part (readReg th a.toNat).data = some i →
        (freezeAt s i).state = .frozen → (freezeAt s i).last = true → (freezeAt s i).dvec = [] → (freezeAt s i).lvec = [] →
        ∃ u, exec (.thaw d a tl) s = .next u ∧ (freezeAt u i).state = .free ∧ (freezeAt u i).gen = (freezeAt s i).gen ∧ u.mem = s.mem

/-- FORK, JOIN and LAUNCH of one thread that pass their checks (R281, R283, R342, R346 to R348). FORK, its release done, with no join counter: the task goes
to the head of the core's deque with status 0, or, where the deque holds 64, the tasks under way counted, none is pushed and the status is 1; where its push must wait for an
earlier one, or a steal of the cycle has already acted on the deque, it is on its way; with a counter, its increment is. JOIN: the read of the counter is on its way and the group is parked. LAUNCH, its release done: the launch waits in the
pending-launch store with status 0, or, where 4,096 are pending, none is queued, the number is complete, and the status is 1. -/
def Obligations.TaskAndLaunchWordsAct : Prop :=
  ∀ (s : State) (g : Nat) (G : Group) (t : Nat) (th : Thread) (w : Workgroup) (d a c : Reg) (tl : BitVec 3),
    let rel : Thread := { th with relSince := none, unacked := none }
    (∀ disp reach, soleMember (.fork d a disp reach) s g G t th w → th.unacked = none → firstTok (readRegs th a.toNat 8) = none →
        let s' := issued (.fork d a disp reach) s G
        let mayPush : Bool := !forkBehind s' w.core s.nextIssue && takeDue s' w.core 0
        let pair (k : Nat) : DWord := BitVec.ofNat 64 (joinRegs (readRegs th (a.toNat + 2 * k) 2))
        let task (j : Option (Loc × DWord)) : Task :=
          { launch := w.launch, part := w.part, reach := reach, join := j, wid := pair 1, v23 := pair 2, v45 := pair 3, entry := targetOf th disp,
            hdr := w.hdr, g := (pair 1).toNat, home := w.core }
        (pair 0 = 0 → mayPush = true → dequeRoom s' w.core = true →
            wordLeaves (.fork d a disp reach) s t
              { s' with cores := put s'.cores w.core { coreAt s' w.core with deque := task none :: (coreAt s' w.core).deque, lastTake := some (s.now, 0) } }
              (some (nextWord (setReg rel d.toNat (.clean 0)))))
          ∧ (pair 0 = 0 → mayPush = true → dequeRoom s' w.core = false →
            wordLeaves (.fork d a disp reach) s t s' (some (nextWord (setReg rel d.toNat (RegVal.clean 1)))))
          ∧ (pair 0 = 0 → mayPush = false →
            ∃ u o, exec (.fork d a disp reach) s = .next u ∧ thOf u t = some (nextWord rel) ∧ look u.ops s'.nextId = some o
              ∧ o.kind = .fork (task none) ∧ o.n = 0 ∧ o.phase = .waiting ∧ u.mem = s'.mem)
          ∧ ∀ l, pair 0 ≠ 0 → (flatChecks (modTh s' t fun _ => rel) w.core w.part (pair 0) 8 .atomic 0).1 = .ok l →
            ∃ u o, exec (.fork d a disp reach) s = .next u ∧ thOf u t = some (nextWord rel) ∧ look u.ops s'.nextId = some o
              ∧ o.kind = .fork (task (some (l, pair 0))) ∧ o.loc = l ∧ o.n = 8 ∧ o.phase = .waiting ∧ u.mem = s'.mem)
      ∧ (∀ l, soleMember (.join d a) s g G t th w → (reg2 th a).tok = none →
        (flatChecks (entered s) w.core w.part (reg2 th a).data 8 .read 0).1 = .ok l →
        ∃ u o, exec (.join d a) s = .next u ∧ thOf u t = some th ∧ grpOf u g = some { G with park := some (.join, .join d a) }
          ∧ look u.ops s.nextId = some o ∧ o.kind = .joinRead ∧ o.loc = l ∧ o.n = 8 ∧ o.acq = some .die
          ∧ o.parts = [⟨t, th.serial, if d = 0 then [] else [d.toNat], (reg2 th a).data, 0, 0, [], false⟩] ∧ u.mem = s.mem)
      ∧ (soleMember (.launch d a c tl) s g G t th w → th.unacked = none → (readReg th a.toNat).poison = false →
        (readReg th a.toNat).data.toNat % 64 = 0 → (readReg th a.toNat).data.toNat + 64 ≤ 128 * w.hdr.scratch →
        let s' := issued (.launch d a c tl) s G
        let num := (timelineAt w tl.toNat).issued + 1
        let n := numbered s' (wgOf t) tl.toNat
        let o : LaunchOp :=
          { wg := wgOf t, launch := w.launch, tl := tl.toNat, num := num, core := w.core, th := t, span := th.span, off := th.off,
            addr := (readReg th a.toNat).data.setWidth 64 }
        let given (st : Word) : Thread := setRegs (setReg rel c.toNat (RegVal.clean st)) d.toNat (splitRegs 2 (BitVec.ofNat 64 num).toNat)
        let pending := s'.pendingStore.length + (s'.launches.filter fun p => p.2.device.isSome).length
        (pending < 4096 →
            wordLeaves (.launch d a c tl) s t
              { n with pendingStore := s'.pendingStore ++ [(o, readRecord w (readReg th a.toNat).data.toNat, queueOf s' w, w.part)] }
              (some (nextWord (given 0))))
          ∧ (4096 ≤ pending →
            wordLeaves (.launch d a c tl) s t (completeNumber n (wgOf t) tl.toNat num) (some (nextWord (given 1)))))

/-- SWALLOC and SWFREE of one thread (R404, R406, R414, R415). SWALLOC with clean operands gives, in C and D, the status of Allocate(A, B) for the
thread's partition and, for status 0, the address of the grant: 4 for operands outside their limits or a partition without a tenant, 3 where a
switch named does not answer, whatever it did with the request, 1 where the quota would be passed, 2 where no run of granules is free, the last four for a grant without a
mirror; a grant zeroes the run. SWFREE of an address outside the partition's switch window gives status 1 and frees nothing; of an allocation of the
tenant that has no mirror, status 0, and the allocation is gone. The model's choices: when a switch hears a request and is heard (log 22); both act on
the switch in the step that issues them (log 49); SWFREE's address is translated as a read (log 66); MPLANE counts only with MIRROR (log 117). -/
def Obligations.SwitchWordsAct : Prop :=
  ∀ (s : State) (g : Nat) (G : Group) (t : Nat) (th : Thread) (w : Workgroup) (d a b c : Reg),
    let x := (readReg th a.toNat).data.toNat
    let y := (readReg th b.toNat).data.toNat
    let p := partAt s w.part
    let plane := y / 64 % 16
    let sw := if y % 64 = 63 then homeSwitch s.pkg plane else y % 64
    let k := 64 * plane + sw
    let given (st : Nat) (addr : DWord) : Thread :=
      setReg (setRegs th d.toNat (splitRegs 2 addr.toNat)) c.toNat (RegVal.clean (BitVec.ofNat 32 st))
    (soleMember (.swalloc d a b c) s g G t th w → (readReg th a.toNat).poison = false → (readReg th b.toNat).poison = false →
        ((p.pftid = 0 ∨ swallocOk x y = false) → wordLeavesOnly (.swalloc d a b c) s t (some (nextWord (given 4 0))))
          ∧ (p.pftid ≠ 0 → swallocOk x y = true → y / 32768 = 0 →
            (swReached s plane sw = false → wordLeavesOnly (.swalloc d a b c) s t (some (nextWord (given 3 0))))
              ∧ (swReached s plane sw = true → swAnswers s plane sw = false →
                ∃ u, exec (.swalloc d a b c) s = .next u ∧ thOf u t = some (nextWord (given 3 0)) ∧ othersKept s u t ∧ u.mem = s.mem)
              ∧ (swAnswers s plane sw = true →
                ((look (switchAt s k).quota p.pftid).getD 0 < heldGranules (switchAt s k) p.pftid + x / 65536 →
                  wordLeavesOnly (.swalloc d a b c) s t (some (nextWord (given 1 0))))
                ∧ (heldGranules (switchAt s k) p.pftid + x / 65536 ≤ (look (switchAt s k).quota p.pftid).getD 0 →
                  (lowestRun [switchAt s k] (x / 65536) = none → wordLeavesOnly (.swalloc d a b c) s t (some (nextWord (given 2 0))))
                    ∧ ∀ f, lowestRun [switchAt s k] (x / 65536) = some f →
                      ∃ u, exec (.swalloc d a b c) s = .next u
                        ∧ thOf u t = some (nextWord (given 0 (BitVec.ofNat 64 (p.pswva + 2 ^ 46 * plane + 2 ^ 40 * sw + 65536 * f))))
                        ∧ (switchAt u k).allocs =
                          (switchAt s k).allocs ++ [{ ftid := p.pftid, first := f, count := x / 65536, mirror := none, mirrorOf := none }]
                        ∧ (∀ j, 65536 * f ≤ j → j < 65536 * (f + x / 65536) → memGet (switchAt u k).mem j = 0)
                        ∧ u.mem = s.mem))))
      ∧ (soleMember (.swfree d a) s g G t th w → (reg2 th a).tok = none → (reg2 th a).data.toNat / 2 ^ 50 ≠ p.pswva / 2 ^ 50 →
        wordLeavesOnly (.swfree d a) s t (some (nextWord (setReg th d.toNat (RegVal.clean 1)))))
      ∧ ∀ l pl sw' off, soleMember (.swfree d a) s g G t th w → (reg2 th a).tok = none → (reg2 th a).data.toNat / 2 ^ 50 = p.pswva / 2 ^ 50 →
        (translate (entered s) w.core w.part (reg2 th a).data.toNat .read 0).1 = .ok l → locHome s l = .switch pl sw' off →
        swAnswers s pl sw' = true → off % 65536 = 0 →
        (∃ q ∈ (switchAt s (64 * pl + sw')).allocs, q.first = off / 65536 ∧ q.ftid = p.pftid ∧ q.mirrorOf = none) →
        ∃ u, exec (.swfree d a) s = .next u ∧ thOf u t = some (nextWord (setReg th d.toNat (.clean 0)))
          ∧ ∀ q ∈ (switchAt u (64 * pl + sw')).allocs, ¬(q.first = off / 65536 ∧ q.ftid = p.pftid ∧ q.mirrorOf = none)
/-! ## Steps: fetch, selection, groups, rendezvous -/

/-- A step with a group in focus (R25, R79, R80). It fetches the 64-bit word at the address of the group's next word; a word that decodes runs as
its instruction, a word that is none as ILLEGAL_WORD, and a word that cannot be fetched as FETCH_FAULT with the failure's cause. The fetch
changes nothing but caches, TLBs and the pages that are pinned in slices. With no group in focus the next input of the agenda acts, and with none the port whose turn it is has an
issue opportunity (log 9). -/
def Obligations.StepRunsTheFetchedWord : Prop :=
  ∀ (s : State),
    (∀ g G, s.focus = some g → grpOf s g = some G →
        let f := fetchGroup s G
        f.2 = { s with cores := f.2.cores, clusterTlb := f.2.clusterTlb, slicePinned := f.2.slicePinned, freeCtr := f.2.freeCtr }
          ∧ (∀ w i, f.1 = .ok w → decode w = .ok i → step s = exec i f.2)
          ∧ (∀ w e, f.1 = .ok w → decode w = .error e → step s = exec .illegalWord f.2)
          ∧ ∀ e, f.1 = .error e → step s = exec (.fetchFault e.cause e.window) f.2)
      ∧ (∀ dt i rest, s.focus = none → s.agenda = .event dt i :: rest → isSelection i = false →
        step s = exec i (wakeAll { s with agenda := rest, now := s.now + dt }))
      ∧ (s.focus = none → s.agenda = [] → step s = exec (.issueOpportunity s.turn.1 s.turn.2) s)

/-- A word that is no instruction for its one thread (R79): a rule of its entry broken, a register that the thread does not hold, a context or a
tile that its workgroup lacks, or no span end as the last word of a span. The word executes as ABORT with a token of cause ILLEGAL whose
address is the word's own; nothing of its effect happens, and memory is unchanged. The two machine words of a failed fetch, for one thread (R79, R80, R156, R161): the word executes as ABORT, with a token of cause ILLEGAL or of
the fetch's cause whose address is the word's own, and nothing else happens; that a failed fetch of the word at offset 255 keeps its own cause is
the model's choice (log 97). -/
def Obligations.WordsThatAreNoneAbort : Prop :=
  (∀ (i : Instr) (s : State) (g : Nat) (G : Group) (t : Nat) (th : Thread) (w : Workgroup) (target : DWord),
        (encode i).isSome = true → s.focus = some g → grpOf s g = some G → G.members = [t] → thOf s t = some th → wgAt s (wgOf t) = some w →
        legalFor i th w = false → th.cond = .inFlight → th.region.target = some target →
        let k := makeToken { s with focus := none, nextIssue := s.nextIssue + 1 } (orgOf s s.nextIssue t th)
          ⟨.illegal, some (wordAddr th), false, false⟩
        wordLeaves i s t (withoutReads k.1 t) (some (recovered s th target k.2)) ∧ k.1.mem = s.mem)
    ∧ (∀ (i : Instr) (c : Cause) (window : Bool) (s : State) (g : Nat) (G : Group) (t : Nat) (th : Thread) (w : Workgroup) (target : DWord),
        (i = .illegalWord ∧ c = .illegal ∧ window = false) ∨ i = .fetchFault c window → soleMember i s g G t th w →
        th.region.target = some target →
        let k := makeToken (entered s) (orgOf s s.nextIssue t th) ⟨c, some (wordAddr th), window, false⟩
        wordLeaves i s t (withoutReads k.1 t) (some (recovered s th target k.2)) ∧ k.1.mem = s.mem)

/-- The steps that choose what issues (R136, R183 to R186). ISSUE_OPPORTUNITY, with no group of the port in flight: around the oldest ready thread a
group forms, which the next step issues; its members stand at one address of one launch, are in flight, and no two lie on one lane. With
no thread ready, the earliest group of the port that may issue is in focus. YIELD_ELIGIBLE makes a thread ready whose wait is over.
A port has one opportunity in a
cycle, port 0 of a core before its port 1, and one that is asked for twice or out of that order changes nothing (the model's choice, log 43). GROUP_UNPARK returns a parked group whose members' events have all happened; after a rendezvous or JOIN they stand at the next word. -/
def Obligations.SelectionStepsAct : Prop :=
  ∀ (s : State),
    (∀ core port t th w, core < 256 → port < 2 → portDue s core port = true → s.focus = none → s.power = .on → inFlightOn s core port = [] → oldest s (readyOn s core port) = some t →
        thOf s t = some th → wgAt s (wgOf t) = some w → th.lane < 64 →
        ∃ u k G, exec (.issueOpportunity core port) s = .next u ∧ u.focus = some k ∧ grpOf u k = some G ∧ t ∈ G.members ∧ G.park = none
          ∧ (∀ x ∈ G.members, ∃ y v, thOf u x = some y ∧ y.cond = .inFlight ∧ y.span = th.span ∧ y.off = th.off ∧ y.lane < 64
              ∧ wgAt u (wgOf x) = some v ∧ v.launch = w.launch)
          ∧ (∀ x ∈ G.members, ∀ y ∈ G.members, ∀ a b, thOf u x = some a → thOf u y = some b → a.lane = b.lane → x = y)
          ∧ u.mem = s.mem ∧ u.wgs = s.wgs)
      ∧ (∀ core port g G, core < 256 → port < 2 → portDue s core port = true → s.focus = none → s.power = .on → readyOn s core port = [] →
        earliest ((inFlightOn s core port).filter fun p => groupIssues s p.2) = some (g, G) →
        exec (.issueOpportunity core port) s =
          .next { s with focus := some g, cores := put s.cores core { coreAt s core with lastOpp := some (s.now, port) } })
      ∧ (∀ core port, core < 256 → port < 2 → portDue s core port = false → s.focus = none → s.turn ≠ (core, port) →
        exec (.issueOpportunity core port) s = .next s)
      ∧ (∀ t th c, thOf s t = some th → th.cond = .ready c 1 →
        exec (.yieldEligible t) s = .next { s with threads := put s.threads t { th with cond := .ready s.now 0 } })
      ∧ ∀ g G p i, grpOf s g = some G → G.park = some (p, i) → (parkedFor s p i G).all (parkOver s p i) = true →
        (inFlightOn s G.core G.port).length < 16 → G.members.Nodup →
        ∃ u, exec (.groupUnpark g) s = .next u ∧ grpOf u g = some { G with park := none, waiting := false, formed := s.now }
          ∧ ∀ t th, thOf s t = some th →
            thOf u t = some (if (p = .rendezvous ∨ p = .join) ∧ t ∈ G.members then { th with off := th.off + 1 } else th)

/-- A reduction of 32-bit values by addition (R62, R198): over any number of positions up to 2,048, whatever positions are empty, it gives the sum of the
contributors modulo 2^32, and 0 for none. The tree's shape does not show. -/
def Obligations.ReduceAddIsTheSum : Prop :=
  ∀ (rm : Rnd) (l : List (Option DWord)), l.length ≤ 2048 → (∀ x, some x ∈ l → x.toNat < 2 ^ 32) →
    reduce .add rm false l = BitVec.ofNat 64 (((l.filterMap id).foldl (fun n x => n + x.toNat) 0) % 2 ^ 32)

/-- The steps of a rendezvous and of REGSIZE, and the end of a replay park (R155, R162, R163, R189, R191, R199 to R202). RENDEZVOUS_COMPLETE, once
every live thread of the workgroup has arrived at one word: each arrived thread receives the collective's result in its destination, and the
arrivals are over. REGSIZE_GRANT gives a request that fits and is the only one that waits on its core: every thread of the workgroup holds the
new number of registers, the kept ones unchanged and the further ones zero and clean, with status 0. REPLAY_RESUME restarts the region of a
parked thread at (BEGIN, 0) once no record of its list is pending or refused. -/
def Obligations.RendezvousStepsAct : Prop :=
  ∀ (s : State),
    (∀ k w a r, wgAt s k = some w → w.arrivals = a :: r → wgActive s w = true → w.wantRegs = none →
        (liveOf s k).all (fun t => w.arrivals.any fun x => x.th = t) = true → (∀ x ∈ r, x.word = a.word) → (∀ y, a.op ≠ .regsize y) →
        (w.arrivals.map (·.th)).Nodup →
        ∃ u, exec (.rendezvousComplete k) s = .next u ∧ wgAt u k = some { w with arrivals := [] }
          ∧ (∀ x ∈ w.arrivals, ∀ th, thOf s x.th = some th →
              thOf u x.th =
                some (setRegs th x.dst (resultRegs (collRegs a.op) (collVal a.op (w.hdr.width * w.hdr.depth) w.arrivals x))))
          ∧ (∀ t, t ∉ w.arrivals.map (·.th) → thOf u t = thOf s t) ∧ u.mem = s.mem)
      ∧ (∀ k w n, wgAt s k = some w → w.wantRegs = some n → wgActive s w = true → growthFits s w n = true → rising s.wgs = true →
        w.saved = false → liveOf s k ≠ [] → (∀ j v, j ≠ k → wgAt s j = some v → v.core = w.core → v.wantRegs = none) →
        (w.arrivals.map (·.th)).Nodup → (∀ x ∈ w.arrivals, x.aTok = none) →
        ∃ u, exec (.regsizeGrant k) s = .next u ∧ wgAt u k = some { w with arrivals := [], wantRegs := none, regsN := n }
          ∧ (∀ x ∈ w.arrivals, ∀ th, wgOf x.th = k → thOf s x.th = some th →
              thOf u x.th = some
                { th with regs := let r := (setReg th x.dst (.clean 0)).regs; r.take n ++ List.replicate (n - r.length) (.clean 0) })
          ∧ u.mem = s.mem)
      ∧ ∀ t th w late, thOf s t = some th → wgAt s (wgOf t) = some w → th.cond = .replay late → wgActive s w = true →
        recStatusIn s w.core th.region.list stRefused = false → recStatusIn s w.core th.region.list stPending = false →
        ∃ u, exec (.replayResume t) s = .next u
          ∧ thOf u t = some { th with
              span := th.region.start
              off := 0
              cond := .ready s.now 0
              region := late.foldl taintRegion
                { th.region with taint := false, first := 0, list := [], full := false, stores := [], reads := [] } }
          ∧ u.mem = s.mem
/-! ## Steps: accesses are performed -/

/-- A thread that receives a load's bytes (R28, R96, R167, R217): the registers that the bytes give, which await it no more, LDC one lower, and in a
transaction the bytes recorded in the read set. -/
def Sys2Proof.Machine.received (th : Thread) (o : Op) (m : Member) (vs : List RegVal) (bs : List Byte) : Thread :=
  { setEach th m.dst vs with
    pending := th.pending.filter fun r => !m.dst.contains r
    ldc := th.ldc - 1
    region := if m.tx then { th.region with reads := fillReads th.region.reads o.loc o.n m.held bs } else th.region }

/-- LOAD_RESULT for a load of one thread that nothing holds back, the fill that it asked for among them (R150, R152, R208, R217, R311). Its bytes are those at its location, in the workgroup's
scratchpad or in stacked DRAM, with those of the thread's own held stores over them; in a poisoned sector each destination receives the token
of a record and the thread is not tainted. A self-invalidating load that finds a copy in its core's L1 reads the copy's bytes (R289). The access is over;
memory and scratchpad are unchanged (a poisoned copy that the home's value displaces from the cluster cache takes its poison home, R276). -/
def Obligations.LoadsReceiveTheirBytes : Prop :=
  ∀ (s : State) (k : Nat) (o : Op) (form : LoadForm) (m : Member) (th : Thread),
    look s.ops k = some o → o.kind = .load form → o.parts = [m] → thOf s m.th = some th → th.serial = m.serial → opSaved s o = false →
    mustWait s k o = false → lineWaits s o = false → allHeld o = false → readWaits s o = false → fillPending s o = false →
    (∀ p ∈ clusterAt s (cluOf o.core), p.2.struck = false) →
    (∀ q a w, o.loc = .spad q a → wgAt s q = some w → poisonIn w.spadPoison a o.n = none →
        ∃ u, exec (.loadResult k) s = .next u
          ∧ thOf u m.th = some (received th o m (loadRegs form (withHeld m.held (memGetN w.spad a o.n))) (memGetN w.spad a o.n))
          ∧ u.ops = del s.ops k ∧ u.mem = s.mem ∧ u.wgs = s.wgs)
      ∧ (∀ pa mode key part d, o.loc = .phys pa mode key part → mode ≠ .selfInv → homeOf s pa = .dram d → pa % 64 + o.n ≤ 64 → poisonIn s.poison pa o.n = none →
        cachePoison s o.core o.loc o.n o.pol = none →
        ∃ u, exec (.loadResult k) s = .next u
          ∧ thOf u m.th = some (received th o m (loadRegs form (withHeld m.held (memGetN s.mem pa o.n))) (memGetN s.mem pa o.n))
          ∧ u.ops = del s.ops k ∧ u.mem = s.mem ∧ u.wgs = s.wgs)
      ∧ (∀ pa key part c, o.loc = .phys pa .selfInv key part → isRemote (locHome s o.loc) = false → o.pol ≠ .skipcc → look (coreAt s o.core).l1 (pa / 64) = some c → isSelfInv c = true →
        c.poison = none →
        let bs := (c.bytes.drop (pa % 64)).take o.n
        ∃ u, exec (.loadResult k) s = .next u ∧ thOf u m.th = some (received th o m (loadRegs form (withHeld m.held bs)) bs)
          ∧ u.ops = del s.ops k ∧ u.mem = s.mem ∧ u.wgs = s.wgs)
      ∧ ∀ pa mode key part d c, o.loc = .phys pa mode key part → mode ≠ .selfInv → homeOf s pa = .dram d → pa % 64 + o.n ≤ 64 → poisonIn s.poison pa o.n = some c →
        m.tx = false → ¬(m.held.length = o.n ∧ m.held.all (·.isSome) = true) →
        let k' := makeToken s (orgOp o m.th th) ⟨c, some m.va, false, false⟩
        ∃ u, exec (.loadResult k) s = .next u
          ∧ thOf u m.th = some (received th o m (List.replicate m.dst.length (RegVal.bad k'.2)) [])
          ∧ u.ops = del s.ops k ∧ u.mem = s.mem

/-- HOME_STORE and HOME_ATOMIC for an access of one thread that nothing holds back (R150, R222 to R224, R286, R294, R299). A store to scratchpad
writes its bytes and no other; so does a store to stacked DRAM that is not frozen and whose line no directory entry names; its acknowledgement is
then on its way, over a poisoned sector too, which it leaves as it is. A store to a frozen range writes nothing, and its refusal is on its way to
the thread. An atomic, to scratchpad or to stacked DRAM, writes the new value, and its destination receives the old one; over a poisoned sector
it writes nothing, taints its thread and gives its destination a token of the sector's cause. Of two threads' .fadd that form one aggregate the
home adds the sum of the addends, and the second thread receives the rounded sum of the old value and the first addend. -/
def Obligations.HomesPerformStores : Prop :=
  (∀ (s : State) (k : Nat) (o : Op) (m : Member), look s.ops k = some o → o.parts = [m] → o.phase = .waiting → mustWait s k o = false →
    lineWaits s o = false →
    let inDram (pa : Nat) : Prop := (∃ d, homeOf s pa = .dram d) ∧ pa % 64 + o.n ≤ 64 ∧ writeWaits s k o = false
    let performed : Op := { o with phase := .performed (s.perfCtr + 1), blocking := false }
    (∀ bs q a w, o.kind = .store bs → o.loc = .spad q a → wgAt s q = some w → w.spadPoison = [] → bs.length = o.n → o.n ≤ 64 →
        ∃ u, exec (.homeStore k) s = .next u ∧ wgAt u q = some { w with spad := memSetN w.spad a bs } ∧ u.ops = del s.ops k
          ∧ look u.acks k = some performed ∧ u.mem = s.mem ∧ u.threads = s.threads)
      ∧ (∀ bs q a w c, o.kind = .store bs → o.loc = .spad q a → wgAt s q = some w → look w.spadPoison (a / 64) = some c → bs.length = o.n →
        a % 64 + o.n ≤ 64 → 0 < o.n →
        ∃ u, exec (.homeStore k) s = .next u ∧ wgAt u q = some w ∧ u.ops = del s.ops k ∧ look u.acks k = some performed ∧ u.mem = s.mem)
      ∧ (∀ bs pa mode key part, o.kind = .store bs → o.loc = .phys pa mode key part → inDram pa → bs.length = o.n → 0 < o.n →
        locFrozen s o.loc o.n = false → dirAt s (homeDie s pa) (pa / 256) = none →
        ∃ u, exec (.homeStore k) s = .next u ∧ u.mem = (if (look s.poison (pa / 64)).isSome then s.mem else memSetN s.mem pa bs) ∧ u.poison = s.poison
          ∧ u.ops = del s.ops k ∧ look u.acks k = some performed ∧ u.wgs = s.wgs ∧ u.threads = s.threads)
      ∧ (∀ bs pa mode key part, o.kind = .store bs → o.loc = .phys pa mode key part → inDram pa → o.sent = false → locFrozen s o.loc o.n = true →
        ∃ u, exec (.homeStore k) s = .next u ∧ u.mem = s.mem ∧ u.ops = del s.ops k ∧ u.threads = s.threads
          ∧ look u.late s.nextId =
            some { th := m.th, serial := m.serial, core := o.core, wg := wgOf m.th, launch := o.launch, issue := o.issue, span := o.span,
                   off := o.off, cause := .writeFrozen, va := m.va, dst := m.dst })
      ∧ ∀ op wide th, o.kind = .atomic op wide → (op = .fadd → wide = false ∧ o.n = 4) → thOf s m.th = some th → th.serial = m.serial →
        m.dst ≠ [] → o.acq = none →
        let receives (th : Thread) (vs : List RegVal) : Thread :=
          { setEach th m.dst vs with pending := th.pending.filter fun x => !m.dst.contains x, ldc := th.ldc - 1 }
        let value (old : Nat) : List Byte := leBytes o.n (atomNew op wide (BitVec.ofNat 64 old) m.d m.e).toNat
        let gives (old : Nat) : Thread := receives th (splitRegs m.dst.length (BitVec.ofNat 64 old).toNat)
        let spoiled (c : Cause) : Prop := (∀ l, th.cond ≠ .replay l) →
          let j := makeToken s
            { issue := o.issue, core := o.core, wg := wgOf m.th, span := o.span, off := o.off, lane := th.lane, idx := idxOf m.th }
            ⟨c, some m.va, false, true⟩
          ∃ u, exec (.homeAtomic k) s = .next u ∧ u.ops = del s.ops k ∧ u.mem = s.mem ∧ u.wgs = s.wgs
            ∧ thOf u m.th = some (receives { th with region := taintRegion th.region j.2 } (List.replicate m.dst.length (RegVal.bad j.2)))
        (∀ q a w, o.loc = .spad q a → wgAt s q = some w → w.spadPoison = [] →
            ∃ u, exec (.homeAtomic k) s = .next u ∧ wgAt u q = some { w with spad := memSetN w.spad a (value (leNat (memGetN w.spad a o.n))) }
              ∧ thOf u m.th = some (gives (leNat (memGetN w.spad a o.n))) ∧ u.ops = del s.ops k ∧ u.mem = s.mem)
          ∧ (∀ pa mode key part, o.loc = .phys pa mode key part → inDram pa → s.poison = [] → locFrozen s o.loc o.n = false →
            dirAt s (homeDie s pa) (pa / 256) = none →
            ∃ u, exec (.homeAtomic k) s = .next u ∧ u.mem = memSetN s.mem pa (value (leNat (memGetN s.mem pa o.n)))
              ∧ thOf u m.th = some (gives (leNat (memGetN s.mem pa o.n))) ∧ u.ops = del s.ops k ∧ u.wgs = s.wgs)
          ∧ (∀ q a w c, o.loc = .spad q a → wgAt s q = some w → poisonIn w.spadPoison a o.n = some c → spoiled c)
          ∧ ∀ pa mode key part c, o.loc = .phys pa mode key part → inDram pa → locFrozen s o.loc o.n = false →
            dirAt s (homeDie s pa) (pa / 256) = none → poisonIn s.poison pa o.n = some c → spoiled c)
    ∧ ∀ (s : State) (k q a : Nat) (o : Op) (m n : Member) (w : Workgroup) (th x : Thread), look s.ops k = some o → o.parts = [m, n] →
      o.phase = .waiting → mustWait s k o = false → lineWaits s o = false → o.kind = .atomic .fadd false → o.n = 4 → o.loc = .spad q a →
      wgAt s q = some w → w.spadPoison = [] → thOf s m.th = some th → th.serial = m.serial → thOf s n.th = some x → x.serial = n.serial →
      m.th ≠ n.th → m.dst ≠ [] → n.dst ≠ [] → o.acq = none →
      let old : Word := BitVec.ofNat 32 (leNat (memGetN w.spad a 4))
      let receives (th : Thread) (m : Member) (v : Word) : Thread :=
        { setEach th m.dst (splitRegs m.dst.length v.toNat) with pending := th.pending.filter fun x => !m.dst.contains x, ldc := th.ldc - 1 }
      ∃ u, exec (.homeAtomic k) s = .next u
        ∧ wgAt u q = some { w with spad := memSetN w.spad a (leBytes 4 (fadd .rne old (fadd .rne (low32 m.d) (low32 n.d))).toNat) }
        ∧ thOf u m.th = some (receives th m old) ∧ thOf u n.th = some (receives x n (fadd .rne old (low32 m.d)))

/-- The steps that reach a thread after an access (R28, R155, R196, R273, R319). STORE_ACK: the thread's STC falls and the acknowledgement is over.
LATE_TAINT: a refusal makes its record, taints the thread's current region with the token, and ends the access. REMOTE_UNACKED_BOUND: a release
that has waited 200 us with a fabric write unacknowledged has its bound passed, with that write's address. DEFERRED_ARRIVAL: an arrival whose
number DONE has reached, with none of its workgroup due before it, arrives at its object and leaves the queue. -/
def Obligations.AnswersReachTheirThreads : Prop :=
  ∀ (s : State) (k : Nat),
    (∀ o m th, look s.acks k = some o → o.parts = [m] → m.dst = [] → o.eng = none → (∀ x b, o.kind ≠ .forked x b) → thOf s m.th = some th → th.serial = m.serial →
        isRemote (locHome s o.loc) = false → ackWaits s o = false →
        ∃ u, exec (.storeAck k) s = .next u ∧ thOf u m.th = some { th with stc := th.stc - 1 } ∧ u.acks = del s.acks k ∧ u.mem = s.mem
          ∧ u.wgs = s.wgs ∧ u.ops = s.ops)
      ∧ (∀ x th, look s.late k = some x → x.dst = [] → thOf s x.th = some th → th.serial = x.serial → (∀ l, th.cond ≠ .replay l) →
        let s' := { s with late := del s.late k }
        let j := makeToken s'
          { issue := x.issue, core := x.core, wg := x.wg, span := x.span, off := x.off, lane := th.lane, idx := idxOf x.th }
          ⟨x.cause, some x.va, false, true⟩
        ∃ u, exec (.lateTaint k) s = .next u ∧ thOf u x.th = some { th with region := taintRegion th.region j.2, stc := th.stc - 1 }
          ∧ u.late = s'.late ∧ u.mem = s.mem)
      ∧ (∀ t th c a, thOf s t = some th → th.relSince = some c → c + us 200 ≤ s.now → firstUnacked s t th = some a →
        exec (.remoteUnackedBound t) s = .next { s with threads := put s.threads t { th with unacked := some a } })
      ∧ ∀ core e w, look (coreAt s core).deferred k = some e → wgAt s e.wg = some w → wgActive s w = true → e.num ≤ (timelineAt w e.tl).done →
        lineAbsent s (.spad e.wg e.addr) 16 = false → objectRefused w e.addr = none →
        (∀ p ∈ (coreAt s core).deferred, p.2.wg = e.wg → dueBefore p (k, e) = false) →
        ∃ u, exec (.deferredArrival core k) s = .next u
          ∧ wgAt u e.wg = wgAt (afterArrival s e.wg e.addr w (scopeOfTl w e.tl) e.count) e.wg
          ∧ (coreAt u core).deferred = del (coreAt s core).deferred k ∧ u.mem = s.mem ∧ u.threads = s.threads

/-! ## Steps: caches and directories -/

/-- A read of a line that a directory takes now (R292, R294, R296, R297): the fill of a cluster is the line's first and its sector is not held yet, the
line is in the middle of nothing, no earlier message of the cluster about it is on its way, and the directory's set has a way; and no copy of
the cluster that the fill might displace has been struck by an error (R276). -/
def Sys2Proof.Machine.readReaches (s : State) (cl line : Nat) (f : Fill) : Prop :=
  (fillsOf s cl line).head? = some f ∧ lineBusy s (cl / 8) line = false ∧ noticeInFlight s cl line = false
    ∧ pkgReadInFlight s (cl / 8) line = false ∧ dirFull s (cl / 8) line = false ∧ (look (clusterAt s cl) f.sector).any isTracked = false
    ∧ ∀ p ∈ clusterAt s cl, p.2.struck = false

/-- The steps of a cluster cache (R276, R277, R291, R296). CLUSTER_EVICTION of the line that a full set gives up, the least
recently used of its lowest priority, drops both sectors of the 128-byte line (of another line it changes nothing), and the copies in every L1
that a tracked sector's vector names; a sector that an error struck takes its poison home; a cluster that held a sector of the 256-byte line and holds none any more sends its notice.
CLUSTER_INVALIDATION drops every tracked sector of the 256-byte line with the L1 copies that the vectors name, but for the writer's own, and
is acknowledged whether the cluster held any or none. CLUSTER_DOWNGRADE is received and acknowledged: the directory shares the copy, and the home is
current. -/
def Obligations.ClustersDropTheirCopies : Prop :=
  ∀ (s : State),
    (∀ cl line, rising (clusterAt s cl) = true → evictable s cl line = true →
        ∃ u, exec (.clusterEviction cl line) s = .next u
          ∧ (∀ sec, look (clusterAt u cl) sec = if sec / 2 = line then none else look (clusterAt s cl) sec)
          ∧ (∀ sec x cores c, sec / 2 = line → look (clusterAt s cl) sec = some x → x.kind = .tracked cores → c ∈ cores →
              rising (coreAt s (8 * cl + c)).l1 = true → look (coreAt u (8 * cl + c)).l1 sec = none)
          ∧ u.msgs =
              (if holdsLine s cl (line / 2) && !holdsLine u cl (line / 2) then put s.msgs s.nextId (.notice (cl / 8) cl (line / 2)) else s.msgs)
          ∧ (∀ sec x, sec / 2 = line → look (clusterAt s cl) sec = some x → x.struck = true → look u.poison sec = some (x.poison.getD .ecc))
          ∧ ((∀ sec x, sec / 2 = line → look (clusterAt s cl) sec = some x → x.struck = false) → u.mem = s.mem ∧ u.poison = s.poison)
          ∧ u.threads = s.threads)
      ∧ (∀ cl line, evictable s cl line = false → exec (.clusterEviction cl line) s = .next s)
      ∧ (∀ m die cl line forOp keep, look s.msgs m = some (.inval die cl line forOp keep) → inOrder s m (.inval die cl line forOp keep) = true →
        rising (clusterAt s cl) = true →
        ∃ u, exec (.clusterInvalidation m) s = .next u
          ∧ (∀ sec x, sec / 4 = line → look (clusterAt u cl) sec = some x → isTracked x = false)
          ∧ (∀ sec, sec / 4 ≠ line → look (clusterAt u cl) sec = look (clusterAt s cl) sec)
          ∧ (∀ sec x cores c, sec / 4 = line → look (clusterAt s cl) sec = some x → x.kind = .tracked cores → c ∈ cores →
              keep ≠ some (8 * cl + c) → rising (coreAt s (8 * cl + c)).l1 = true → look (coreAt u (8 * cl + c)).l1 sec = none)
          ∧ u.msgs = put (del s.msgs m) s.nextId (.ack die line forOp) ∧ u.mem = s.mem ∧ u.threads = s.threads)
      ∧ ∀ m die cl line, look s.msgs m = some (.downgrade die cl line) → inOrder s m (.downgrade die cl line) = true →
        exec (.clusterDowngrade m) s = .next { s with msgs := put (del s.msgs m) s.nextId (.downAck die line), nextId := s.nextId + 1 }

/-- A die directory on reads and notices (R291, R294, R297, R300, R420). DIR_READ reads every sector of the 128-byte line that the cluster misses, in
one step, which serves every fill of its cores for that line (R422). Of a line that the die homes: with no entry the reader is the one cluster named and its sectors are E; with an entry the reader is added as the table gives it, and another cluster that owns the line is sent a
downgrade; the sectors are installed. Of a line homed on another die with no entry: an entry with the sectors S, and a request to the package
directory. Of a frozen line: a replica, which no directory records. A fifth cluster turns an entry into the coarse form, with the pairs of all
five. DIR_NOTICE removes a cluster that a pointer entry names, and the last one frees an entry that is not REMOTE; a notice for no entry, for a
coarse one or from a cluster not named is dropped. -/
def Obligations.DieDirectoriesTakeReads : Prop :=
  ∀ (s : State),
    (∀ cl line f, readReaches s cl line f → frozenNow s (64 * f.sector) = false → cl / 8 = homeDie s (256 * line) →
        let secs := if (look (clusterAt s cl) (otherSector f.sector)).isSome then [f.sector] else [otherSector f.sector, f.sector]
        ∃ u, exec (.dirRead cl line) s = .next u ∧ u.fills = s.fills.filter (fun g => !(cluOf g.core = cl && g.sector / 2 = f.sector / 2))
          ∧ dirAt u (cl / 8) line = some (match dirAt s (cl / 8) line with
              | none => { sstate := secs.foldl (fun ss x => ss.set (x % 4) 2) [0, 0, 0, 0], remote := false, coarse := false, ptrs := [cl % 8], waiting := 0,
                          recalling := false }
              | some e => secs.foldl (fun e x => e.read (cl % 8) (x % 4) true) e)
          ∧ (∀ e j, dirAt s (cl / 8) line = some e → e.owner = some j → j ≠ cl % 8 →
              look u.msgs s.nextId = some (.downgrade (cl / 8) (8 * (cl / 8) + j) line))
          ∧ (∃ x, look (clusterAt u (cluOf f.core)) f.sector = some x ∧ isTracked x = true ∧ x.poison = none)
          ∧ (look (clusterAt s cl) (otherSector f.sector) = none →
              ∃ x, look (clusterAt u cl) (otherSector f.sector) = some x ∧ isTracked x = true ∧ x.poison = none) ∧ u.mem = s.mem)
      ∧ (∀ cl line f, readReaches s cl line f → frozenNow s (64 * f.sector) = false → cl / 8 ≠ homeDie s (256 * line) →
        dirAt s (cl / 8) line = none →
        let secs := if (look (clusterAt s cl) (otherSector f.sector)).isSome then [f.sector] else [otherSector f.sector, f.sector]
        ∃ u, exec (.dirRead cl line) s = .next u
          ∧ dirAt u (cl / 8) line = some { sstate := secs.foldl (fun ss x => ss.set (x % 4) 1) [0, 0, 0, 0], remote := false, coarse := false, ptrs := [cl % 8],
                                           waiting := 0, recalling := false }
          ∧ u.msgs = put s.msgs s.nextId (.pkgRead (cl / 8) cl line) ∧ u.mem = s.mem)
      ∧ (∀ cl line f, readReaches s cl line f → frozenNow s (64 * f.sector) = true →
        ∃ u, exec (.dirRead cl line) s = .next u ∧ u.fills = s.fills.filter (fun g => !(cluOf g.core = cl && g.sector / 2 = f.sector / 2)) ∧ u.dirs = s.dirs
          ∧ (f.pol ≠ .skipcc → look (clusterAt s cl) f.sector = none →
              ∃ x, look (clusterAt u cl) f.sector = some x ∧ isReplica x = true ∧ x.poison = none)
          ∧ (∀ k e, look u.freezes k = some e → e.state = .frozen → covers e (64 * f.sector) = true → (cl / 8) ∈ e.lvec) ∧ u.mem = s.mem)
      ∧ (∀ (e : DirEntry) k sec, e.coarse = false → e.ptrs.length = 4 → (∀ j ∈ e.ptrs, j < 8) → k < 8 → k ∉ e.ptrs →
        (e.read k sec true).coarse = true
          ∧ (∀ p, p ∈ (e.read k sec true).ptrs ↔ ∃ j ∈ k :: e.ptrs, p = j / 2)
          ∧ (sec < e.sstate.length → (e.read k sec true).sstate.getD sec 0 = 1))
      ∧ (∀ m die cl line e, look s.msgs m = some (.notice die cl line) → inOrder s m (.notice die cl line) = true →
        dirAt s die line = some e → e.coarse = false → (cl % 8) ∈ e.ptrs → e.waiting = 0 → e.recalling = false →
        ∃ u, exec (.dirNotice m) s = .next u ∧ u.mem = s.mem
          ∧ ((∃ j ∈ e.ptrs, j ≠ cl % 8) → u.msgs = del s.msgs m
              ∧ dirAt u die line = some { e with ptrs := e.ptrs.filter fun j => j ≠ cl % 8 })
          ∧ ((∀ j ∈ e.ptrs, j = cl % 8) → die = homeDie s (256 * line) → e.remote = false → rising (lookD s.dirs die []) = true →
              u.msgs = del s.msgs m ∧ dirAt u die line = none)
          ∧ ((∀ j ∈ e.ptrs, j = cl % 8) → die = homeDie s (256 * line) → e.remote = true →
              u.msgs = del s.msgs m ∧ ∃ e', dirAt u die line = some e' ∧ e'.ptrs = [] ∧ e'.remote = true)
          ∧ ((∀ j ∈ e.ptrs, j = cl % 8) → die ≠ homeDie s (256 * line) → rising (lookD s.dirs die []) = true →
              u.msgs = put (del s.msgs m) s.nextId (.pkgNotice die line) ∧ dirAt u die line = none))
      ∧ ∀ m die cl line, look s.msgs m = some (.notice die cl line) → inOrder s m (.notice die cl line) = true →
        (∀ e, dirAt s die line = some e → e.coarse = true ∨ cl % 8 ∉ e.ptrs) →
        exec (.dirNotice m) s = .next { s with msgs := del s.msgs m }

/-- Invalidations (R294 to R296, R420). A store that reaches its home, where the directory names other clusters, is not performed: one invalidation goes
to each, and it counts them; where the writer's cluster is of the home die and holds the sector, the entry names that cluster alone with the sector M,
and the cluster drops its copies of the line's other sectors. DIR_RECALL and DIR_PKG_INVALIDATION invalidate every cluster that an entry names and wait for their
acknowledgements; with no entry a forwarded invalidation is acknowledged at once. INVALIDATION_ACK lowers the count; with the last one a store
to stacked DRAM is performed, and a recalled entry is free. -/
def Obligations.InvalidationsAreCounted : Prop :=
  ∀ (s : State),
    (∀ k o m bs pa mode key part d e, look s.ops k = some o → o.kind = .store bs → o.parts = [m] → o.phase = .waiting → mustWait s k o = false →
        lineWaits s o = false → o.loc = .phys pa mode key part → homeOf s pa = .dram d → locFrozen s o.loc o.n = false →
        writeWaits s k o = false → dirAt s (homeDie s pa) (pa / 256) = some e → e.coarse = false → e.remote = false →
        (∀ j ∈ e.ptrs, ¬(cluOf o.core / 8 = homeDie s pa ∧ j = cluOf o.core % 8)) → e.ptrs ≠ [] →
        ∃ u, exec (.homeStore k) s = .next u ∧ look u.ops k = some { o with phase := .counting e.ptrs.length } ∧ u.mem = s.mem
          ∧ u.threads = s.threads ∧ u.nextId = s.nextId + e.ptrs.length
          ∧ (∀ i j, e.ptrs[i]? = some j →
              look u.msgs (s.nextId + i) = some (.inval (homeDie s pa) (8 * homeDie s pa + j) (pa / 256) (some k) (some o.core)))
          ∧ (cluOf o.core / 8 = homeDie s pa → (look (clusterAt s (cluOf o.core)) (pa / 64)).any isTracked = true →
              rising (clusterAt s (cluOf o.core)) = true →
              dirAt u (homeDie s pa) (pa / 256) = some { sstate := [0, 0, 0, 0].set (pa / 64 % 4) 3, remote := false, coarse := false,
                                                         ptrs := [cluOf o.core % 8], waiting := 0, recalling := false }
                ∧ ∀ x c, x / 4 = pa / 256 → x ≠ pa / 64 → look (clusterAt u (cluOf o.core)) x = some c → isTracked c = false))
      ∧ (∀ m die line k o n, look s.msgs m = some (.ack die line (some k)) → look s.ops k = some o → o.phase = .counting n → 1 < n →
        exec (.invalidationAck m) s =
          .next { s with msgs := del s.msgs m, ops := put s.ops k { o with phase := .counting (n - 1) } })
      ∧ (∀ m die line k o bs pa mode key part d, look s.msgs m = some (.ack die line (some k)) → look s.ops k = some o →
        o.phase = .counting 1 → o.kind = .store bs → o.loc = .phys pa mode key part → homeOf s pa = .dram d → s.poison = [] → bs.length = o.n → pa % 64 + o.n ≤ 64 →
        ∃ u, exec (.invalidationAck m) s = .next u ∧ u.mem = memSetN s.mem pa bs ∧ u.ops = del s.ops k
          ∧ look u.acks k = some { o with phase := .performed (s.perfCtr + 1), blocking := false } ∧ u.msgs = del s.msgs m)
      ∧ (∀ m die line e, look s.msgs m = some (.ack die line none) → dirAt s die line = some e → e.recalling = true → e.waiting = 1 →
        rising (lookD s.dirs die []) = true →
        ∃ u, exec (.invalidationAck m) s = .next u ∧ dirAt u die line = none ∧ u.msgs = del s.msgs m ∧ u.mem = s.mem)
      ∧ (∀ die line e, dirAt s die line = some e → e.coarse = false → e.remote = false → e.waiting = 0 → e.recalling = false →
        lineCounting s line = false → pkgReadInFlight s die line = false → e.ptrs ≠ [] → die = homeDie s (256 * line) →
        ∃ u, exec (.dirRecall die line) s = .next u ∧ dirAt u die line = some { e with waiting := e.ptrs.length, recalling := true }
          ∧ u.mem = s.mem
          ∧ ∀ i j, e.ptrs[i]? = some j → look u.msgs (s.nextId + i) = some (.inval die (8 * die + j) line none none))
      ∧ (∀ m die line, look s.msgs m = some (.dieInval die line) → inOrder s m (.dieInval die line) = true → dirAt s die line = none →
        exec (.dirPkgInvalidation m) s =
          .next { s with msgs := put (del s.msgs m) s.nextId (.dieAck die line), nextId := s.nextId + 1 })
      ∧ ∀ m die line e, look s.msgs m = some (.dieInval die line) → inOrder s m (.dieInval die line) = true → dirAt s die line = some e →
        e.coarse = false → e.waiting = 0 → e.recalling = false → e.ptrs ≠ [] →
        ∃ u, exec (.dirPkgInvalidation m) s = .next u ∧ dirAt u die line = some { e with waiting := e.ptrs.length } ∧ u.mem = s.mem
          ∧ ∀ i j, e.ptrs[i]? = some j → look u.msgs (s.nextId + i) = some (.inval die (8 * die + j) line none none)

/-- The package directory (R293 to R295). PKG_DIR_READ of a die sets its bit of DVEC, and at the home die REMOTE, and the cluster's fill is
installed. PKG_DIR_INVALIDATION, from the home, is forwarded to every die of DVEC; where no other die holds the line it is acknowledged at
once. INVALIDATION_ACK of the last of those dies frees the entry and acknowledges the home once. PKG_DIR_NOTICE clears the die's bit, and at
zero the entry is gone; a notice of a die that DVEC lacks is dropped. PKG_DIR_RECALL invalidates every die of DVEC. -/
def Obligations.PackageDirectoryActs : Prop :=
  ∀ (s : State),
    (∀ m die cl line, look s.msgs m = some (.pkgRead die cl line) → inOrder s m (.pkgRead die cl line) = true →
        lineBusy s (homeDie s (256 * line)) line = false → pkgFull s line = false → dirFull s (homeDie s (256 * line)) line = false → dirFull s die line = false →
        (∀ p ∈ clusterAt s cl, p.2.struck = false) →
        ∃ u, exec (.pkgDirRead m) s = .next u ∧ (∃ e, look u.pkgDir line = some e ∧ die ∈ e.dvec)
          ∧ (∃ e, dirAt u (homeDie s (256 * line)) line = some e ∧ e.remote = true) ∧ u.mem = s.mem
          ∧ ∀ f, fillsOf s cl line = [f] → ∃ x, look (clusterAt u cl) f.sector = some x ∧ isTracked x = true)
      ∧ (∀ m line forOp die e, look s.msgs m = some (.pkgInval line forOp die) → inOrder s m (.pkgInval line forOp die) = true →
        look s.pkgDir line = some e → e.waiting = 0 → e.recalling = false → e.dvec ≠ [] →
        ∃ u, exec (.pkgDirInvalidation m) s = .next u
          ∧ look u.pkgDir line = some { e with waiting := e.dvec.length, forOp := forOp } ∧ u.mem = s.mem
          ∧ ∀ i d, e.dvec[i]? = some d → look u.msgs (s.nextId + i) = some (.dieInval d line))
      ∧ (∀ m line forOp die, look s.msgs m = some (.pkgInval line forOp die) → inOrder s m (.pkgInval line forOp die) = true →
        look s.pkgDir line = none →
        ∃ u, exec (.pkgDirInvalidation m) s = .next u ∧ u.mem = s.mem
          ∧ u.msgs = put (del s.msgs m) s.nextId (.ack (homeDie s (256 * line)) line forOp))
      ∧ (∀ m die line e, look s.msgs m = some (.dieAck die line) → look s.pkgDir line = some e → e.waiting = 1 → e.recalling = false →
        ∃ u, exec (.invalidationAck m) s = .next u ∧ u.pkgDir = del s.pkgDir line ∧ u.mem = s.mem
          ∧ u.msgs = put (del s.msgs m) s.nextId (.ack (homeDie s (256 * line)) line e.forOp)
          ∧ ∀ e', dirAt u (homeDie s (256 * line)) line = some e' → rising (lookD s.dirs (homeDie s (256 * line)) []) = true → e'.remote = false)
      ∧ (∀ m die line e, look s.msgs m = some (.pkgNotice die line) → inOrder s m (.pkgNotice die line) = true →
        look s.pkgDir line = some e → die ∈ e.dvec →
        ∃ u, exec (.pkgDirNotice m) s = .next u ∧ u.msgs = del s.msgs m ∧ u.mem = s.mem
          ∧ ((∃ d ∈ e.dvec, d ≠ die) → u.pkgDir = put s.pkgDir line { e with dvec := e.dvec.filter fun d => d ≠ die })
          ∧ ((∀ d ∈ e.dvec, d = die) → e.waiting = 0 → u.pkgDir = del s.pkgDir line))
      ∧ (∀ m die line, look s.msgs m = some (.pkgNotice die line) → inOrder s m (.pkgNotice die line) = true →
        (∀ e, look s.pkgDir line = some e → die ∉ e.dvec) → exec (.pkgDirNotice m) s = .next { s with msgs := del s.msgs m })
      ∧ ∀ line e, look s.pkgDir line = some e → lineCounting s line = false → e.waiting = 0 → e.recalling = false → e.dvec ≠ [] →
        ∃ u, exec (.pkgDirRecall line) s = .next u ∧ u.mem = s.mem
          ∧ look u.pkgDir line = some { e with waiting := e.dvec.length, recalling := true, forOp := none }
          ∧ ∀ i d, e.dvec[i]? = some d → look u.msgs (s.nextId + i) = some (.dieInval d line)

/-! ## Steps: translation and the hub -/

/-- Translation (R210, R279, R288, R359, R361). TLB_WALK, where a group of the core makes the access and both the core TLB and the cluster TLB miss: a walk that reaches a leaf which permits the access puts its
entry at the head of the core TLB and of the cluster's; a failed one installs nothing; without such an access or without both misses there is no walk. An access that a core TLB entry translates goes to the entry's page plus the offset, under the key of the window that covers its granule,
or fails with PERM. TLBINV_PAGE, TLBINV_ASID and TLBINV_PARTITION raise BUSY, and from then on entries that the invalidation names may be
gone (which, log 10); no other entry goes. While one is under way a further one changes nothing. TLBINV_COMPLETE: exactly the named entries
are gone, and BUSY is 0. -/
def Obligations.TranslationStepsAct : Prop :=
  ∀ (s : State),
    let missed (core part : Nat) (va : DWord) (acc : AccKind) : Bool :=
      !((coreAt s core).tlb.any (tlbHit part (partAt s part).asid va.toNat))
        && !((lookD s.clusterTlb (cluOf core) []).any (tlbHit part (partAt s part).asid va.toNat))
        && s.groups.any (fun p => p.2.core = core && groupAccess s p.2 part va acc)
    (∀ core part va acc e level t, missed core part va acc = true → core < 256 → canonical va = true →
        walk s part (partAt s part).proot va.toNat = (.ok (e, level), t) →
        exec (.tlbWalk core part va acc) s = .next
          (if permits e acc then
            tlbInstall (pinPage t e level) core
              { part := part, asid := (partAt s part).asid, page := va.toNat - va.toNat % leafSize level, size := leafSize level, pte := e,
                wins := (partAt t part).windows.filter (·.valid) }
           else t))
      ∧ (∀ core part va acc, missed core part va acc = false → exec (.tlbWalk core part va acc) s = .next s)
      ∧ (∀ core part va acc f t, missed core part va acc = true → core < 256 → canonical va = true →
        walk s part (partAt s part).proot va.toNat = (.error f, t) →
        exec (.tlbWalk core part va acc) s = .next t)
      ∧ (∀ core part va acc coh e, (coreAt s core).tlb.find? (tlbHit part (partAt s part).asid va) = some e →
        translate s core part va acc coh =
          (let pa := pteAddr e.pte true + (va - e.page)
           if permits e.pte acc then .ok (.phys pa (accessMode s e.pte pa coh) (keyIn e.wins pa) part) else .error ⟨.perm, false⟩, s))
      ∧ (∀ i who part x, mayPart s who part = true → part < 16 → s.parts.length = 16 → (partAt s part).tlbinv = none →
        (∃ va asid, asid < 256 ∧ i = .tlbinvPage who part va asid ∧ x = ⟨0, va.toNat % 2 ^ 56 - va.toNat % 2 ^ 16, asid⟩)
          ∨ (∃ asid, asid < 256 ∧ i = .tlbinvAsid who part asid ∧ x = ⟨1, 0, asid⟩) ∨ i = .tlbinvPartition who part ∧ x = ⟨2, 0, 0⟩ →
        ∃ u, exec i s = .next u ∧ (partAt u part).tlbinv = some x ∧ u.mem = s.mem
          ∧ (∀ c e, e ∈ (coreAt u c).tlb → e ∈ (coreAt s c).tlb)
          ∧ (∀ c e, e ∈ (coreAt s c).tlb → invHits part x e = false → e ∈ (coreAt u c).tlb)
          ∧ (∀ c e, e ∈ lookD u.clusterTlb c [] → e ∈ lookD s.clusterTlb c [])
          ∧ ∀ c e, e ∈ lookD s.clusterTlb c [] → invHits part x e = false → e ∈ lookD u.clusterTlb c [])
      ∧ (∀ i who part, (∃ va asid, i = .tlbinvPage who part va asid) ∨ (∃ asid, i = .tlbinvAsid who part asid) ∨ i = .tlbinvPartition who part →
        (partAt s part).tlbinv ≠ none → exec i s = .next s)
      ∧ ∀ part x, part < 16 → s.parts.length = 16 → (partAt s part).tlbinv = some x →
        ∃ u, exec (.tlbinvComplete part) s = .next u ∧ (partAt u part).tlbinv = none ∧ u.mem = s.mem
          ∧ (∀ c e, e ∈ (coreAt u c).tlb ↔ e ∈ (coreAt s c).tlb ∧ invHits part x e = false)
          ∧ ∀ c e, e ∈ lookD u.clusterTlb c [] ↔ e ∈ lookD s.clusterTlb c [] ∧ invHits part x e = false

/-- The rings of a partition (R150, R364, R366, R368, R371, R373). The oldest waiting entry of 64 bytes (fault queue) or 128 bytes (service queue) is
written at BASE + size * (TAIL mod ENTRIES), TAIL advances, and the source's bit of PIRQ is set, while the ring is not full and its place lies
in the partition's windows in stacked DRAM that is not frozen and has no write under way (R296). When the bit rises with its enable set, PINTDATA is written to PINTADDR. A full
ring takes nothing. -/
def Obligations.RingsTakeTheOldestEntry : Prop :=
  ∀ (s : State) (part : Nat), part < 16 → s.parts.length = 16 →
    let p := partAt s part
    let raised (u : State) (k : Nat) : Prop :=
      (partAt u part).pirq.getLsbD k = true
        ∧ u.intWrites = s.intWrites ++ (if p.pirq.getLsbD k = false ∧ p.pirqen.getLsbD k = true then [(p.pintaddr, p.pintdata)] else [])
    (∀ e r d, p.faultWait = e :: r →
        let n := ringEntries p.fqbase
        let a := ringAddr p.fqbase + 64 * (p.fqtail % n)
        (p.fqtail + 2 ^ 32 - p.fqhead) % 2 ^ 32 ≠ n → inWindows p (ringAddr p.fqbase) (64 * n) = true → homeOf s a = .dram d →
        isFrozen s a 64 = false → linesBusy s a 64 = false →
        ∃ u, exec (.faultQueueDeliver part) s = .next u ∧ u.mem = memSetN s.mem a (leBytes 64 e.toNat) ∧ (partAt u part).faultWait = r
          ∧ (partAt u part).fqtail = (p.fqtail + 1) % 2 ^ 32 ∧ raised u 0 ∧ u.threads = s.threads)
      ∧ (∀ e r d, p.serviceWait = e :: r →
        let n := ringEntries p.sqbase
        let a := ringAddr p.sqbase + 128 * (p.sqtail % n)
        (p.sqtail + 2 ^ 32 - p.sqhead) % 2 ^ 32 ≠ n → inWindows p (ringAddr p.sqbase) (128 * n) = true → homeOf s a = .dram d →
        isFrozen s a 128 = false → linesBusy s a 128 = false →
        ∃ u, exec (.serviceQueueDeliver part) s = .next u ∧ u.mem = memSetN s.mem a (leBytes 128 e.toNat) ∧ (partAt u part).serviceWait = r
          ∧ (partAt u part).sqtail = (p.sqtail + 1) % 2 ^ 32 ∧ raised u 1 ∧ u.threads = s.threads)
      ∧ ((p.fqtail + 2 ^ 32 - p.fqhead) % 2 ^ 32 = ringEntries p.fqbase → exec (.faultQueueDeliver part) s = .next s)
      ∧ ((p.sqtail + 2 ^ 32 - p.sqhead) % 2 ^ 32 = ringEntries p.sqbase → exec (.serviceQueueDeliver part) s = .next s)

/-- What system software answers (R125, R137, R138, R156, R369, R370, R372). RSET sets a PENDING record of the partition, named with its generation,
to SERVICED or REFUSED, and any other record not at all. SCOMP completes a call: the masked registers of the octet receive the values, clean,
and the thread goes on at its resume point; a thread at BKPT goes on at its label, or at the address given; an abandoned request aborts the
region with INVALID, whose address is the word's span. The request is over in each case, and memory is unchanged. -/
def Obligations.SystemSoftwareAnswers : Prop :=
  ∀ (s : State) (who part : Nat), mayPart s who part = true → s.parts.length = 16 →
    (∀ core idx gen, core < 255 → idx < 256 →
        let r := recAt s core idx
        let fits : Bool := r.status = 2 && r.part.toNat = part && r.gen.toNat = gen
        exec (.rsetServiced who part core idx gen) s = .next (if fits then setRec s core idx { r with status := 3 } else s)
          ∧ exec (.rsetRefused who part core idx gen) s = .next (if fits then setRec s core idx { r with status := 4 } else s))
      ∧ (∀ reqid r th w mask vals target, look (partAt s part).pending reqid = some r → r.isBkpt = false → thOf s r.th = some th →
        th.serial = r.serial → wgAt s (wgOf r.th) = some w → r.octet ≠ 0 →
        ∃ u, exec (.scompComplete who part reqid mask vals target) s = .next u
          ∧ (∃ th', thOf u r.th = some th' ∧ th'.span = r.label ∧ th'.off = 0 ∧ th'.cond = .ready s.now 0 ∧ th'.region = th.region
              ∧ ∀ k, k < 8 → r.octet + k < th.regs.length →
                  readReg th' (r.octet + k) = if mask.getLsbD k then .clean ((vals[k]?).getD 0) else readReg th (r.octet + k))
          ∧ (partAt u part).pending = del (partAt s part).pending reqid ∧ u.mem = s.mem)
      ∧ (∀ i reqid r th mask vals target, i = .debugRelease who part reqid target ∨ i = .scompComplete who part reqid mask vals target →
        look (partAt s part).pending reqid = some r → r.isBkpt = true → thOf s r.th = some th → th.serial = r.serial →
        goodTarget (cleanVal (if target = 0 then r.label else target)) →
        ∃ u, exec i s = .next u ∧ thOf u r.th = some (atSpan s th (if target = 0 then r.label else target))
          ∧ (partAt u part).pending = del (partAt s part).pending reqid ∧ u.mem = s.mem)
      ∧ ∀ reqid r th w target, look (partAt s part).pending reqid = some r → thOf s r.th = some th → th.serial = r.serial →
        wgAt s (wgOf r.th) = some w → th.region.target = some target →
        let s' := modPart { s with nextIssue := s.nextIssue + 1 } part fun p => { p with pending := del p.pending reqid }
        let k := makeToken s' { orgOf s s.nextIssue r.th th with span := r.origin, off := r.originOff } ⟨.invalid, some r.origin, false, false⟩
        ∃ u, exec (.scompAbandon who part reqid) s = .next u ∧ thOf u r.th = some (recovered s th target k.2)
          ∧ (partAt u part).pending = del (partAt s part).pending reqid ∧ u.mem = s.mem

/-- Writes of hub registers, each by a control core whose partition the register belongs to, or by the manager (R329, R330, R334, R363 to R367,
R374, R402). QSTAT clears DROPS; PSTAT.FLOOR and the bits written to PIRQ are cleared; a signal timeline takes the value; FLOWRES resolves a frozen flow
of the partition and sends its message; KEYCTL gives a slot a new key, or takes it, so that bytes under the old key are undecryptable
(the model's reading, log 89); PINMAP
is set and the granules that leave the map read as zeros. A general write of an address-space register or a window has that effect. -/
def Obligations.HubRegistersAreWritten : Prop :=
  ∀ (s : State) (who : Nat),
    (∀ q, mayQueue s who q = true →
        exec (.qstatClearDrops who q) s = .next { s with queues := put s.queues q { queueAt s q with drops := 0 } })
      ∧ (∀ part, mayPart s who part = true →
        exec (.floorClear who part) s = .next (modPart s part fun p => { p with floor := false })
          ∧ (∀ mask, exec (.pirqClear who part mask) s = .next (modPart s part fun p => { p with pirq := p.pirq &&& ~~~(mask.setWidth 6) }))
          ∧ (∀ idx v, idx < 256 →
              exec (.signalTimelineWrite who part idx v) s = .next (modPart s part fun p => { p with sig := put p.sig idx v.toNat })))
      ∧ (∀ part x resume, mayPart s who part = true → s.dstFlows = [x] → x.home = 0 → x.frozenAt ≠ none → x.part = part →
        exec (if resume then .flowresResume who part x.sdev x.score x.stream else .flowresAbort who part x.sdev x.score x.stream) s =
          .next { s with dstFlows := [{ x with frozenAt := none }],
                         flowMsgs := s.flowMsgs ++ [(⟨x.score, .dev s.pkg, x.stream⟩, x.sdev, resume)] })
      ∧ (∀ slot, isManager s who = true → slot < 32 → s.keyGen.length = 32 →
        ∃ u v, exec (.keyGenerate who slot) s = .next u ∧ exec (.keyErase who slot) s = .next v
          ∧ u.keystat.getLsbD slot = true ∧ v.keystat.getLsbD slot = false
          ∧ (∀ j, j ≠ slot → u.keystat.getLsbD j = s.keystat.getLsbD j ∧ v.keystat.getLsbD j = s.keystat.getLsbD j)
          ∧ u.keyGen[slot]? = (s.keyGen[slot]?).map (· + 1) ∧ v.keyGen = u.keyGen ∧ u.mem = s.mem ∧ v.mem = s.mem
          ∧ ∀ pa, isKeyed (homeOf s pa) = true → look s.memKey (pa / 64) = some (keyNow s slot) →
              wrongKey s pa slot = false ∧ wrongKey u pa slot = true ∧ wrongKey v pa slot = true)
      ∧ (∀ core map, isManager s who = true → core < 256 → memWf s.mem = true →
        ∃ u, exec (.pinmapWrite who core map) s = .next u ∧ lookD u.pinmap core 0 = map
          ∧ (∀ g, g < 24 → (coreAt u core).carve.getLsbD g = true → map.getLsbD g = true)
          ∧ (∀ g off, g < 24 → off < 65536 → (coreAt s core).carve.getLsbD g = true → map.getLsbD g = false →
              memGet u.mem (0x0E0000000000 + 0x200000 * core + 65536 * g + off) = 0)
          ∧ (∀ a, a < 0x0E0000000000 → memGet u.mem a = memGet s.mem a))
      ∧ (∀ part v, mayPart s who part = true → part < 16 →
        exec (.registerWrite who (0x200000 + 0x1000 * part + 0x48) v true) s =
          .next (modPart s part fun p => { p with fqbase := v &&& 0x000FFFFFFFFFF00F })
          ∧ exec (.registerWrite who (0x200000 + 0x1000 * part + 0xC0) v true) s = .next (modPart s part fun p => { p with pintaddr := v }))
      ∧ ∀ part v, isManager s who = true → part < 16 → s.parts.length = 16 →
        ∃ u, exec (.registerWrite who (0x200000 + 0x1000 * part + 0x38) v true) s = .next u
          ∧ (partAt u part).proot = 65536 * (v.toNat / 2 ^ 16 % 2 ^ 36) ∧ (partAt u part).asid = v.toNat % 256

/-- A write that R363 refuses changes nothing (R8, R363): a queue window or a partition block by a control core of another partition, the manager block and
the registers that only the manager writes by any but the manager, for every value and size. A refused read returns zero. -/
def Obligations.RefusedRegistersKeepTheirValue : Prop :=
  ∀ (s : State) (who : Nat) (v : DWord),
    (∀ q o al, q < 16384 → o < 128 → mayQueue s who q = false →
        exec (.registerWrite who (128 * q + o) v al) s = .next s ∧ hubRead s who (128 * q + o) al = 0)
      ∧ (∀ p o al, p < 16 → o < 0x1000 → mayPart s who p = false →
        exec (.registerWrite who (0x200000 + 0x1000 * p + o) v al) s = .next s ∧ hubRead s who (0x200000 + 0x1000 * p + o) al = 0)
      ∧ (∀ o al, o < 0x4000 → isManager s who = false →
        exec (.registerWrite who (0x1000000 + o) v al) s = .next s ∧ hubRead s who (0x1000000 + o) al = 0)
      ∧ ∀ p o al, p < 16 → o ∈ [0x010, 0x028, 0x038, 0x0E8, 0x0F0, 0x0F8] → isManager s who = false →
        exec (.registerWrite who (0x200000 + 0x1000 * p + o) v al) s = .next s

/-! ## Steps: the matrix engine and the copy engine -/

/-- One operation alone in a core's matrix queue, that may start now: a workgroup outside Tandem pairs that runs, its scratchpad present and free of
poison, nothing else of the module outstanding, Bridle gives its partition the cycle, and its block is readable and without fault. -/
def Sys2Proof.Machine.mxAlone (s : State) (core k : Nat) (e : MxEntry) (w : Workgroup) (b : Block) : Prop :=
  (coreAt s core).mxq = [(k, e)] ∧ (∃ a tl num, e.kind = .go a tl num ∧ b = blockOf (memGetN w.spad a 128)) ∧ e.stage = .queued
    ∧ e.block = none ∧ e.fusedWith = none ∧ wgAt s e.wg = some w ∧ wgActive s w = true ∧ isPaired w = false ∧ w.absent = []
    ∧ w.spadPoison = [] ∧ s.ops = [] ∧ s.acks = [] ∧ wgIssues s w = true ∧ blockFault b (rightsOf w) = none

/-- The step i n of a core's engine, which starts an operation of so many k-steps or rows: with n at least their number it leaves the workgroup as a
relation tells, and the operation waits for its completion only; memory, threads and the module's accesses are as they were. -/
def Sys2Proof.Machine.mxStarts (i : Nat → Instr) (steps : Nat) (s : State) (core k wg : Nat) (w : Workgroup) (f : Workgroup → Workgroup → Prop) :
    Prop :=
  ∀ n, steps ≤ n → ∃ u w', exec (i n) s = .next u ∧ wgAt u wg = some w' ∧ f w w'
    ∧ (∃ e', look (coreAt u core).mxq k = some e' ∧ e'.stage = .started) ∧ u.mem = s.mem ∧ u.threads = s.threads ∧ u.ops = s.ops

/-- The step i n of a core's engine, with fewer k-steps or rows than its operation has, leaves the operation in progress at a boundary between two of
them, and the workgroup's tiles and scratchpad as they were. -/
def Sys2Proof.Machine.mxGoesOn (i : Nat → Instr) (steps : Nat) (s : State) (core k : Nat) : Prop :=
  ∀ n, n < steps → ∃ u, exec (i n) s = .next u ∧ (∃ e', look (coreAt u core).mxq k = some e' ∧ e'.stage = .running n)
    ∧ u.wgs = s.wgs ∧ u.mem = s.mem ∧ u.threads = s.threads ∧ u.ops = s.ops

/-- The operations on a tile (R59, R227, R231, R235, R238, R241 to R243, R252), for an operation alone that may start, with operands in scratchpad, by a
step of at least its k-steps or rows, where no error waits in the tile's rows; a step of fewer leaves a CLEAR, LOAD or MMA in progress between two
of them with its tile and scratchpad as they were (the results appear with the last step: the model's choice, log 46). CLEAR
sets the block's elements to 0. LOAD sets them to what memory holds, converted from DFMT. An i8 MMA adds to each the sum of the products of
its row of A and its column of B, modulo 2^32, after 0 where INIT is set. Each leaves every other element. A DRAIN of a tile whose checksums
agree and whose rows are clean, of 32-bit elements in rows that do not overlap, writes each element's four bytes at its place, and no other
byte, and keeps the tile. -/
def Obligations.MatrixOperationsAct : Prop :=
  ∀ (s : State) (core k : Nat) (e : MxEntry) (w : Workgroup) (b : Block), mxAlone s core k e w b → rising (tileOf w b.acc).elems = true → (tileOf w b.acc).struck = [] →
    let old := tileOf w b.acc
    let elems (f : Nat → Nat → Word) (w w' : Workgroup) : Prop := w'.spad = w.spad ∧ ∀ i j, i < 128 → j < 128 →
      tileGet (tileOf w' b.acc) i j = if blockHits b i j then f (i - b.row0) (j - b.col0) else tileGet (tileOf w b.acc) i j
    (b.kind = 3 → mxGoesOn (fun n => .mxClear ⟨core, n⟩) b.m s core k ∧ mxStarts (fun n => .mxClear ⟨core, n⟩) b.m s core k e.wg w (elems fun _ _ => 0))
      ∧ (b.kind = 2 → b.amap.space = 0 →
        mxGoesOn (fun n => .mxLoad ⟨core, n⟩) b.m s core k ∧ mxStarts (fun n => .mxLoad ⟨core, n⟩) b.m s core k e.wg w
          (elems fun p q => loadElem b.dfmt (leNat (memGetN w.spad (cellAddr b.gridD p q) (dfmtBytes b.dfmt)))))
      ∧ (b.kind = 0 → b.fmt = 2 → b.achain = false → b.bmap.space = 0 →
        mxGoesOn (fun n => .mxMma ⟨core, n⟩) b.k s core k ∧ mxStarts (fun n => .mxMma ⟨core, n⟩) b.k s core k e.wg w
          (elems fun p q => (if b.init then 0 else tileGet old (b.row0 + p) (b.col0 + q))
            + BitVec.ofInt 32 ((List.range b.k).foldl
                (fun x r => x + (memGet w.spad (cellAddr b.gridA p r)).toInt * (memGet w.spad (cellAddr b.gridB r q)).toInt) 0)))
      ∧ (b.kind = 1 → (b.dfmt = 0 ∨ b.dfmt = 4) → b.amap.space = 0 → b.amap.trans = false → b.amap.swz = 0 → 4 * b.n ≤ b.amap.rstride →
        b.guided = false → compareTile old = .clean → old.rowPoison = [] → memWf w.spad = true →
        let place (p q : Nat) : Nat := b.amap.base + p * b.amap.rstride + 4 * q
        mxStarts (fun n => .mxDrain ⟨core, n⟩) b.m s core k e.wg w fun w w' =>
          w'.tiles = w.tiles
            ∧ (∀ p q, p < b.m → q < b.n → memGetN w'.spad (place p q) 4 = leBytes 4 (tileGet old (b.row0 + p) (b.col0 + q)).toNat)
            ∧ ∀ x, (∀ p q, p < b.m → q < b.n → x < place p q ∨ place p q + 4 ≤ x) → memGet w'.spad x = memGet w.spad x)

/-- The matrix queue (R28, R229, R231, R232, R236, R246, R256, R257, R260). MX_ELEMENT_ACCESS: the thread of an MXRD receives the element, or the row's
token, in its destination; an MXWR sets the element; MXC falls and the entry is gone. MX_OP_COMPLETE of an operation that has started and has no
access outstanding: its completion record stands in scratchpad, its number is complete, MXC falls, and the entry is gone. TANDEM_TIMEOUT: an
operation held for 4,096 cycles, whose partner has not issued its operation of that index within them, runs solo, and so will the partner's of that index; before that nothing
changes. -/
def Obligations.MatrixQueueSteps : Prop :=
  ∀ (s : State) (core k : Nat) (e : MxEntry) (w : Workgroup), wgAt s e.wg = some w → wgActive s w = true → w.retired = false →
    (∀ tile x th, (coreAt s core).mxq = [(k, e)] → e.stage = .queued → e.kind = .rd tile [x] → thOf s x.th = some th → th.serial = x.serial →
        (tileOf w tile).struck.contains x.row = false →
        ∃ u, exec (.mxElementAccess core) s = .next u
          ∧ thOf u x.th = some
              { setReg th x.dst (match look (tileOf w tile).rowPoison x.row with
                  | some tok => (RegVal.bad tok)
                  | none => (RegVal.clean (tileGet (tileOf w tile) x.row x.col))) with
                pending := th.pending.filter (fun r => r ≠ x.dst)
                mxc := th.mxc - 1 }
          ∧ (coreAt u core).mxq = [] ∧ u.wgs = s.wgs ∧ u.mem = s.mem)
      ∧ (∀ tile x th, (coreAt s core).mxq = [(k, e)] → e.stage = .queued → e.kind = .wr tile [x] → thOf s x.th = some th → th.serial = x.serial →
        tile < w.tiles.length → x.col < 128 → rising (tileOf w tile).elems = true →
        ∃ u w', exec (.mxElementAccess core) s = .next u ∧ wgAt u e.wg = some w'
          ∧ (∀ i j, j < 128 →
              tileGet (tileOf w' tile) i j = if i = x.row ∧ j = x.col then x.data else tileGet (tileOf w tile) i j)
          ∧ thOf u x.th = some { th with mxc := th.mxc - 1 } ∧ (coreAt u core).mxq = [] ∧ w'.spad = w.spad ∧ u.mem = s.mem)
      ∧ (∀ a tl num th r, look (coreAt s core).mxq k = some e → e.kind = .go a tl num → e.stage = .started → e.fusedWith = none → s.ops = [] →
        s.acks = [] → e.event = none → e.crec = some r → r % 16 = 0 → w.spadPoison = [] → memWf w.spad = true → thOf s e.th = some th → th.serial = e.serial →
        tl < w.tls.length → (timelineAt w tl).complete = [] → num = (timelineAt w tl).done + 1 →
        ∃ u w', exec (.mxOpComplete core k) s = .next u ∧ wgAt u e.wg = some w'
          ∧ memGetN w'.spad r 16 = leBytes 16 (recordBits num e.res).toNat
          ∧ (∀ x, (x < r ∨ r + 16 ≤ x) → memGet w'.spad x = memGet w.spad x)
          ∧ timelineAt w' tl = { timelineAt w tl with done := num } ∧ thOf u e.th = some { th with mxc := th.mxc - 1 }
          ∧ (coreAt u core).mxq = del (coreAt s core).mxq k ∧ u.mem = s.mem)
      ∧ (∀ c n, look (coreAt s core).mxq k = some e → e.stage = .held c → e.index = some n →
        (s.now < c + 4096 → exec (.tandemTimeout core k) s = .next s)
          ∧ ∀ p pw, c + 4096 ≤ s.now → partnerOf s w = some (p, pw) → partnerArrived s core p n (c + 4096) = false → wgAt s p = some pw → p ≠ e.wg →
            ∃ u, exec (.tandemTimeout core k) s = .next u
              ∧ look (coreAt u core).mxq k = some { e with stage := .ready, res := { e.res with partner := true, mismatch := false } }
              ∧ wgAt u p = some { pw with soloPartner := pw.soloPartner ++ [n] } ∧ u.mem = s.mem)

/-- The copy engine (R262, R265, R266, R268, R269, R351), in a cycle that Bridle gives the partition. COPY_START starts the oldest copy that waits, unless 8 run. COPY_CHUNK_DONE of a chunk whose source and
destination lie apart in a clean scratchpad: the chunk's bytes are the source's, or zero for a fill, and no other byte changes but an object's;
its line becomes present with its last chunk; and the object, if the request names one, receives the chunk's bytes as an arrival. A chunk of
a memory destination puts its write on its way. COPY_COMPLETE, with every chunk done and every arrival made: CPC falls, the number is complete,
and the copy is gone. -/
def Obligations.CopiesMoveTheirBytes : Prop :=
  ∀ (s : State) (core k : Nat) (e : CopyEntry) (w : Workgroup), look (coreAt s core).cpq k = some e → wgAt s e.wg = some w → wgActive s w = true →
    ((coreAt s core).cpq.find? (fun p => !p.2.running && !wgSaved s p.2.wg) = some (k, e) →
        (copiesRunning (coreAt s core) < 8 →
          exec (.copyStart core) s = .next
            { s with cores := put s.cores core { coreAt s core with cpq := put (coreAt s core).cpq k { e with running := true } } })
          ∧ (8 ≤ copiesRunning (coreAt s core) → exec (.copyStart core) s = .next s))
      ∧ (∀ chunk, e.running = true → isChunk e.req chunk = true → chunk ∉ e.done → chunk ∉ e.writing → e.req.dspace = 0 → e.req.sspace = 0 →
        w.spadPoison = [] → memWf w.spad = true → s.ops = [] → rising w.absent = true → wgIssues s w = true →
        let x := chunkRange e.req chunk
        let src := sourceOf e.req chunk x.1
        x.1 % 16 = 0 → x.2 % 16 = 0 → (e.req.fill = true ∨ src + x.2 ≤ x.1 ∨ x.1 + x.2 ≤ src) →
        (∀ y, e.req.baraddr = some y → (y + 16 ≤ x.1 ∨ x.1 + x.2 ≤ y) ∧ y % 16 = 0 ∧ look w.absent (y / 128) = none ∧ objectRefused w y = none) →
        ∃ u w', exec (.copyChunkDone core k chunk) s = .next u ∧ wgAt u e.wg = some w'
          ∧ (∀ j, j < x.2 → memGet w'.spad (x.1 + j) = if e.req.fill then 0 else memGet w.spad (src + j))
          ∧ (∀ z, (z < x.1 ∨ x.1 + x.2 ≤ z) → (∀ y, e.req.baraddr = some y → z < y ∨ y + 16 ≤ z) → memGet w'.spad z = memGet w.spad z)
          ∧ (∀ y, e.req.baraddr = some y → objAt w' y = arrived (objAt w y) 0 x.2)
          ∧ w'.absent = (if lineMore e.req (e.done ++ [chunk]) (x.1 / 128) then w.absent else del w.absent (x.1 / 128))
          ∧ (∃ e', look (coreAt u core).cpq k = some e' ∧ e'.done = e.done ++ [chunk]) ∧ u.mem = s.mem ∧ u.threads = s.threads)
      ∧ (∀ chunk l, e.running = true → isChunk e.req chunk = true → chunk ∉ e.done → chunk ∉ e.writing → e.req.dspace = 1 → e.req.sspace = 0 →
        e.req.fill = false → w.spadPoison = [] → s.ops = [] → wgIssues s w = true →
        let x := chunkRange e.req chunk
        (flatChecks s core w.part (BitVec.ofNat 64 x.1) 16 .write 0).1 = .ok l → isRemote (locHome s l) = false → x.2 % 16 = 0 →
        ∃ u o e', exec (.copyChunkDone core k chunk) s = .next u ∧ look u.ops s.nextId = some o ∧ o.loc = l ∧ o.phase = .waiting
          ∧ o.kind = .engineWrite (BitVec.ofNat 64 x.1) (memGetN w.spad (sourceOf e.req chunk x.1) x.2) none chunk
          ∧ look (coreAt u core).cpq k = some e' ∧ e'.writing = e.writing ++ [chunk] ∧ e'.done = e.done ∧ u.mem = s.mem ∧ u.wgs = s.wgs)
      ∧ ∀ th, e.running = true → e.waiting = [] → chunkCount e.req ≤ e.done.length → e.events = [] → thOf s e.th = some th →
        th.serial = e.serial → e.tl < w.tls.length → (timelineAt w e.tl).complete = [] → e.num = (timelineAt w e.tl).done + 1 →
        ∃ u w', exec (.copyComplete core k) s = .next u ∧ wgAt u e.wg = some w' ∧ timelineAt w' e.tl = { timelineAt w e.tl with done := e.num }
          ∧ thOf u e.th = some { th with cpc := th.cpc - 1 } ∧ (coreAt u core).cpq = del (coreAt s core).cpq k ∧ w'.spad = w.spad ∧ u.mem = s.mem

/-! ## Steps: tasks and freezing -/

/-- A task's workgroup as it starts on a core (R39, R282, R343, R346): the task's launch, partition, kernel and work identifier, marked forked with
its join counter; each thread stands at the entry, with the argument of FORK in v2:v3, its last pair in v4:v5, and every other register zero
and clean. -/
def Sys2Proof.Machine.taskStarted (s u : State) (core : Nat) (t : Task) : Prop :=
  ∃ w, wgAt u s.nextWg = some w ∧ w.core = core ∧ w.launch = t.launch ∧ w.part = t.part ∧ w.hdr = t.hdr ∧ w.g = t.g ∧ w.forked = true
    ∧ w.join = t.join
    ∧ ∀ i, i < t.hdr.width * t.hdr.depth → ∃ th, thOf u (2048 * s.nextWg + i) = some th ∧ th.span = t.entry ∧ th.off = 0
        ∧ th.cond = .ready s.now 0
        ∧ (∀ r, r ∉ [2, 3, 4, 5] → r < t.hdr.regs → readReg th r = (.clean 0))
        ∧ readReg th 2 = (RegVal.clean (t.v23.setWidth 32)) ∧ readReg th 3 = (RegVal.clean ((t.v23 >>> 32).setWidth 32))
        ∧ readReg th 4 = (RegVal.clean (t.v45.setWidth 32)) ∧ readReg th 5 = (RegVal.clean ((t.v45 >>> 32).setWidth 32))

/-- Work deques (R281 to R283, R343). DEQUE_TAKE: the owning core starts the newest task of its deque, if it fits. DEQUE_SEARCH: a core that may
search starts the oldest task of the first deque that qualifies, and it leaves that deque; a search that finds none is noted; a core without room
does not search. Operations on one deque in one cycle come in order, the owner's before the steals, those in the order of their cores (a search notes
every deque that it has visited); one that comes too late in its cycle changes nothing. No memory changes. -/
def Obligations.TasksStartOnCores : Prop :=
  ∀ (s : State) (core : Nat),
    (∀ t r, (coreAt s core).deque = t :: r → taskFits s core t = true → takeDue s core 0 = true → 6 ≤ t.hdr.regs →
        t.hdr.width * t.hdr.depth ≤ 2048 →
        ∃ u, exec (.dequeTake core) s = .next u ∧ taskStarted s u core t ∧ (coreAt u core).deque = r ∧ u.mem = s.mem)
      ∧ (∀ v t, core < 256 → searchDue s core = true → hasRoom s core = true → searchFinds s core = some (v, t) →
        (∀ x ∈ searchVisits s core, takeDue s x (1 + core % 64) = true) → 6 ≤ t.hdr.regs → t.hdr.width * t.hdr.depth ≤ 2048 →
        ∃ u, exec (.dequeSearch core) s = .next u ∧ taskStarted s u core t ∧ (coreAt s v).deque.getLast? = some t ∧ v ≠ core
          ∧ (coreAt u v).deque = (coreAt s v).deque.dropLast ∧ (coreAt u core).deque = (coreAt s core).deque ∧ u.mem = s.mem
          ∧ ∀ x ∈ searchVisits s core, (coreAt u x).lastTake = some (s.now, 1 + core % 64))
      ∧ (core < 256 → searchDue s core = true → hasRoom s core = true → searchFinds s core = none →
        (∀ x ∈ searchVisits s core, takeDue s x (1 + core % 64) = true) →
        ∃ u, exec (.dequeSearch core) s = .next u ∧ (coreAt u core).lastSearch = some s.now ∧ u.wgs = s.wgs ∧ u.threads = s.threads
          ∧ u.mem = s.mem ∧ (∀ c, (coreAt u c).deque = (coreAt s c).deque)
          ∧ ∀ x ∈ searchVisits s core, x ≠ core → (coreAt u x).lastTake = some (s.now, 1 + core % 64))
      ∧ (hasRoom s core = false → exec (.dequeSearch core) s = .next s)
      ∧ (takeDue s core 0 = false → exec (.dequeTake core) s = .next s)
      ∧ ∀ v ∈ searchVisits s core, takeDue s v (1 + core % 64) = false → exec (.dequeSearch core) s = .next s

/-- The freeze engine (R298, R299, R302). FREEZE_COMPLETE: the next granule, translated as a write, joins the entry's run where it follows it; with the
last one taken, and no earlier write to the range counting acknowledgements, the entry is FROZEN and the number complete; a granule that does
not translate frees every entry, and the number completes; one granule, or the end, a step is the model's choice (logs 13 and 58). A THAW that finds its freeze frozen, with copies to invalidate, sends one
invalidation to each die. REPLICA_INVALIDATION: the die keeps no replica of the entry's granules, and acknowledges. THAW_ACK lowers PEND; with the
last one the entry is FREE, its generation kept, and the number complete. Memory never changes. -/
def Obligations.FreezeStepsAct : Prop :=
  ∀ (s : State) (k : Nat) (o : FreezeOp),
    (look s.freezeOps k = some o → o.isThaw = false → 65536 * o.next < o.len →
        let va := o.va + BitVec.ofNat 64 (65536 * o.next)
        (∀ l t, translate s o.core o.part va.toNat .write 0 = (.ok l, t) → isPkgMem (locHome t l) = true →
          let f := freezeAt s o.cur
          let g := locAddr l / 65536
          (f.count = 0 ∨ f.pgran + f.count = g) →
          exec (.freezeComplete k) s = .next
            { t with
              freezes := put s.freezes o.cur { f with pgran := if f.count = 0 then g else f.pgran, count := f.count + 1 }
              freezeOps := put s.freezeOps k { o with next := o.next + 1 } })
          ∧ ∀ e t, translate s o.core o.part va.toNat .write 0 = (.error e, t) → (freezeAt s o.entry).last = true →
            ∃ u, exec (.freezeComplete k) s = .next u ∧ (freezeAt u o.entry).state = .free ∧ (freezeAt u o.entry).gen = (freezeAt s o.entry).gen
              ∧ u.freezeOps = del s.freezeOps k ∧ u.mem = s.mem)
      ∧ (look s.freezeOps k = some o → o.isThaw = false → o.len ≤ 65536 * o.next → writesPending s o = false → (freezeAt s o.entry).last = true →
        exec (.freezeComplete k) s = .next
          (completeNumber
            { s with
              freezes := put s.freezes o.entry { freezeAt s o.entry with state := .frozen }
              freezeOps := del s.freezeOps k } o.wg o.tl o.num))
      ∧ (∀ i d, look s.freezeOps k = some o → o.isThaw = true → liveHandle s o.part o.handle = some i → (freezeAt s i).state = .frozen →
        (freezeAt s i).last = true → (freezeAt s i).dvec = [] → (freezeAt s i).lvec = [d] →
        exec (.freezeComplete k) s = .next
          { s with
            msgs := put s.msgs s.nextId (.replicaInval i d)
            nextId := s.nextId + 1
            freezes := put s.freezes i { freezeAt s i with state := .thawing, pend := 1 } })
      ∧ (∀ m i die, look s.msgs m = some (.replicaInval i die) →
        ∃ u, exec (.replicaInvalidation m) s = .next u ∧ u.msgs = put (del s.msgs m) s.nextId (.thawAck i) ∧ u.mem = s.mem
          ∧ (∀ c sec x, dieOf c = die → look (coreAt u c).l1 sec = some x → isReplica x = true → covers (freezeAt s i) (64 * sec) = false)
          ∧ ∀ cl sec x, cl / 8 = die → look (clusterAt u cl) sec = some x → isReplica x = true → covers (freezeAt s i) (64 * sec) = false)
      ∧ (∀ m i dev, look s.msgs m = some (.replicaInvalDev i dev) →
        exec (.replicaInvalidation m) s =
          .next { s with msgs := put (del s.msgs m) s.nextId (.thawAck i), nextId := s.nextId + 1 })
      ∧ (∀ m i f, look s.msgs m = some (.thawAck i) → s.freezes = [(i, f)] → f.state = .thawing → f.last = true → 1 < f.pend →
        exec (.thawAck m) s = .next { s with msgs := del s.msgs m, freezes := [(i, { f with pend := f.pend - 1 })] })
      ∧ ∀ m i f j, look s.msgs m = some (.thawAck i) → s.freezes = [(i, f)] → f.state = .thawing → f.last = true → f.pend = 1 →
        s.freezeOps = [(j, o)] → o.isThaw = true → o.handle = handleOf f i → o.part = f.part →
        ∃ u, exec (.thawAck m) s = .next u ∧ (freezeAt u i).state = .free ∧ (freezeAt u i).gen = f.gen ∧ u.freezeOps = []
          ∧ u.wgs = (completeNumber s o.wg o.tl o.num).wgs ∧ u.mem = s.mem

/-! ## Steps: launches -/

/-- A launch as it is entered (R333 to R336): its record, the queue and the partition that it runs for, its kernel's header and its status, with
nothing placed, nothing charged, and no event. -/
def Sys2Proof.Machine.entersAs (s u : State) (r : LaunchRec) (q part : Nat) (h : Header) (st : LStatus) (dev : Option LaunchOp) : Prop :=
  ∃ l, look u.launches s.nextLaunch = some l ∧ l.recd = r ∧ l.queue = q ∧ l.part = part ∧ l.hdr = h ∧ l.status = st ∧ l.device = dev
    ∧ l.activated = s.now ∧ l.placed = 0 ∧ l.nextItem = 0 ∧ l.charge = 0 ∧ l.energy = 0 ∧ l.count = 0 ∧ l.first = 0 ∧ l.aborted = false

/-- Launch records (R331, R333 to R335, R342). LAUNCH_PORT_PUSH by a control core that may write the queue: a whole record joins the queue's FIFO, where
the queue is enabled and holds fewer than 64; any other store advances DROPS, which saturates. LAUNCH_ACTIVATE of a queue's head, or of its
oldest device launch, whose partition runs: with its checks passed and its waits met it becomes active; while a wait is not met nothing
changes; a record of another partition ends with PART, and leaves the queue. -/
def Obligations.RecordsBecomeLaunches : Prop :=
  ∀ (s : State) (q : Nat),
    (∀ who x whole, mayQueue s who q = true →
        exec (.launchPortPush who q x whole) s = .next
          { s with
            queues := put s.queues q
              (if whole ∧ (queueAt s q).enable ∧ (queueAt s q).fifo.length < 64 then { queueAt s q with fifo := (queueAt s q).fifo ++ [x] }
               else { queueAt s q with drops := min ((queueAt s q).drops + 1) 65535 }) })
      ∧ (∀ x rest h t, (queueAt s q).fifo = x :: rest →
        let owner := (queueAt s q).owner
        let r := recordOf x
        (partAt s owner).pstate = .running → headActive s q = false →
        (r.part ≠ owner →
          ∃ u, exec (.launchActivate q false) s = .next u ∧ entersAs s u r q owner Header.none .part none ∧ (queueAt u q).fifo = rest
            ∧ u.mem = s.mem)
          ∧ (r.part = owner → recordOk r = true → waitsMet (partAt s owner) r = false → exec (.launchActivate q false) s = .next s)
          ∧ (r.part = owner → recordOk r = true → waitsMet (partAt s owner) r = true → checkRecord s owner r = (.done, h, t) →
            ∃ u, exec (.launchActivate q false) s = .next u ∧ entersAs s u r q owner h .done none ∧ (queueAt u q).fifo = x :: rest
              ∧ u.mem = s.mem))
      ∧ ∀ o r part h t, oldestDevice s q = some (o, r, q, part) → (partAt s part).pstate = .running → r.part = 0 → recordOk r = true →
        (waitsMet (partAt s part) r = false → exec (.launchActivate q true) s = .next s)
          ∧ (waitsMet (partAt s part) r = true → checkRecord s part r = (.done, h, t) →
            ∃ u, exec (.launchActivate q true) s = .next u ∧ entersAs s u r q part h .done (some o)
              ∧ u.pendingStore = s.pendingStore.erase (o, r, q, part) ∧ u.mem = s.mem)

/-- Placement (R33, R39, R333, R338 to R340). COHORT_PLACE with one launch, which can be placed and whose queue has no debt: its next cohort stands on the
core that takes it, workgroup by workgroup in ascending order of its work identifiers, each thread at the kernel's entry with its own work
identifier. With no launch that can be placed no workgroup changes. COHORT_RESERVING: the core that a launch blocked for 2^22 cycles would take
is reserved for it. -/
def Obligations.CohortsArePlaced : Prop :=
  ∀ (s : State),
    (∀ k l c, s.launches = [(k, l)] → placeable s k l = some c → l.recd.prio < 4 → 0 ≤ (queueAt s l.queue).deficit →
        l.hdr.width * l.hdr.depth ≤ 2048 →
        ∃ u, exec .cohortPlace s = .next u ∧ u.mem = s.mem
          ∧ (∃ l', look u.launches k = some l' ∧ l'.placed = l.placed + cohortSize l)
          ∧ ∀ j, j < cohortSize l → ∃ w, wgAt u (s.nextWg + j) = some w ∧ w.core = c ∧ w.launch = k ∧ w.g = l.placed + j ∧ w.hdr = l.hdr
              ∧ w.part = l.part ∧ w.arg = l.recd.args ∧ w.age = s.now ∧ w.saved = false
              ∧ ∀ i, i < l.hdr.width * l.hdr.depth → ∃ th, thOf u (2048 * (s.nextWg + j) + i) = some th ∧ th.span = l.hdr.entry ∧ th.off = 0
                  ∧ th.cond = .ready s.now 0 ∧ th.wid = BitVec.ofNat 64 ((l.placed + j) * 2 ^ (l.hdr.workid.headD 0) + i))
      ∧ ((∀ k l, (k, l) ∈ s.launches → placeable s k l = none) →
        ∃ u, exec .cohortPlace s = .next u ∧ u.wgs = s.wgs ∧ u.threads = s.threads ∧ u.mem = s.mem)
      ∧ ∀ k l c, s.launches = [(k, l)] → mayReserve s k l = true → reserveCore s k l = some c →
        exec (.cohortReserving k) s = .next { s with cores := put s.cores c { coreAt s c with reserved := some k } }

/-- The end of workgroups and launches (R132, R148, R166, R334, R336, R337, R341, R348, R352). WORKGROUP_RETIRE of a workgroup that is no task and whose
threads have all exited: it is retired, whatever its engines still do; its launch is charged a 64th of its lane-cycles, its queue's deficit falls by as
much, the check-interval register joins the launch's status, and the slot's records are FREE. A task waits for its own work. PERSIST_CHARGE charges a persistent workgroup in
the same way. LAUNCH_COMPLETE of a launch with nothing outstanding, and no write under way on its status's lines (R296): its status is written where the record gives an address, its signal
timeline is raised to at least SIGVAL, the launch interrupt is raised where it is enabled, the number of a device launch that ended cleanly is
complete, and the launch and what was kept of its workgroups are gone. QUEUE_ABORT: the queue is empty, and its launches are aborted and have no thread. -/
def Obligations.LaunchesEnd : Prop :=
  ∀ (s : State),
    (∀ k w l, wgAt s k = some w → w.saved = false → w.retired = false → liveOf s k = [] → w.forked = false → w.join = none →
        look s.launches w.launch = some l → rising s.wgs = true →
        let n := (w.laneCycles + (s.now - w.laneAt) * gwidth w) / 64
        ∃ u l', exec (.workgroupRetire k) s = .next u ∧ (∃ w', wgAt u k = some w' ∧ w'.retired = true ∧ w'.fifos = []) ∧ (∀ j, j ≠ k → wgAt u j = wgAt s j)
          ∧ look u.launches w.launch = some l' ∧ l'.charge = l.charge + n ∧ l'.count = min (l.count + cirCount w.cir) 65535
          ∧ l'.first = (if l.first = 0 then w.cir.setWidth 32 else l.first) ∧ l'.sticky = (l.sticky || w.cir.getLsbD 63)
          ∧ (queueAt u l.queue).deficit = (queueAt s l.queue).deficit - n
          ∧ (∀ i, i ≠ 0 → (recAt u w.core i).wgslot = BitVec.ofNat 8 w.slot → (recAt u w.core i).status = 0) ∧ u.mem = s.mem)
      ∧ (∀ k w, wgAt s k = some w → w.forked = true → (enginesBusy s k w = true ∨ ownWorkDone s k = false) →
        exec (.workgroupRetire k) s = .next s)
      ∧ (∀ k w l, wgAt s k = some w → w.hdr.persist = true → w.saved = false → w.retired = false → w.charges < (w.residency + (s.now - w.laneAt)) / 2 ^ 22 →
        look s.launches w.launch = some l →
        let c := w.laneCycles + (s.now - w.laneAt) * gwidth w
        ∃ u l' w', exec (.persistCharge k) s = .next u ∧ look u.launches w.launch = some l' ∧ l'.charge = l.charge + c / 64
          ∧ wgAt u k = some w' ∧ w'.laneCycles = c % 64 ∧ w'.charges = w.charges + 1
          ∧ (queueAt u l.queue).deficit = (queueAt s l.queue).deficit - (c / 64 : Nat) ∧ u.mem = s.mem)
      ∧ (∀ k l, look s.launches k = some l → launchOver s k l = true → statusWaits s l = false → rising s.launches = true → s.parts.length = 16 → l.part < 16 →
        let ended (u : State) : Prop :=
          look u.launches k = none
            ∧ (partAt u l.part).sig =
              (if l.recd.sigen then put (partAt s l.part).sig l.recd.sigidx (max (sigOf (partAt s l.part) l.recd.sigidx) l.recd.sigval)
               else (partAt s l.part).sig)
            ∧ (l.recd.inten = true → (partAt u l.part).pirq.getLsbD 2 = true)
            ∧ (l.device = none → u.wgs = s.wgs.filter fun x => x.2.launch ≠ k)
            ∧ (∀ o, l.device = some o → launchCause l = none → u.wgs = (completeNumber s o.wg o.tl o.num).wgs.filter fun x => x.2.launch ≠ k)
        (l.recd.stataddr = 0 → ∃ u, exec (.launchComplete k) s = .next u ∧ ended u ∧ u.mem = s.mem)
          ∧ ∀ pa m key p d t, l.recd.stataddr ≠ 0 → l.recd.stataddr.toNat % 32 = 0 → pa % 32 = 0 →
            hubTranslate s l.part l.recd.stataddr .write = (.ok (.phys pa m key p), t) → homeOf s pa = .dram d → isFrozen s pa 32 = false →
            look s.poison (pa / 64) = none →
            ∃ u, exec (.launchComplete k) s = .next u ∧ ended u ∧ u.mem = memSetN s.mem pa (leBytes 32 (statusBits l).toNat))
      ∧ ∀ who q, mayQueue s who q = true → (∀ k l, look s.launches k = some l → k < s.nextLaunch) → rising s.threads = true →
        ∃ u, exec (.queueAbort who q) s = .next u ∧ (queueAt u q).fifo = [] ∧ u.mem = s.mem
          ∧ (∀ e ∈ u.pendingStore, e.2.2.1 ≠ q)
          ∧ ∀ k l, look s.launches k = some l → l.queue = q → l.status = .done →
              (∃ l', look u.launches k = some l' ∧ l'.status = .aborted ∧ l'.aborted = true)
                ∧ ∀ t w, wgAt s (wgOf t) = some w → w.launch = k → thOf u t = none

/-! ## Steps: power, pre-emption, the module -/

/-- Bridle, heat and pre-emption (R172, R284, R330, R341, R349, R350, R353 to R355, R382). BRIDLE_INTERVAL, from the energy that the monitors measured (10 nJ units, log 110), a core's
dynamic energy by the activity counted on it: each partition's power, the sum of its workgroups' shares, is noted; its allowance
is 64 without a cap, falls in proportion above its cap but not below 4, and rises by 4 up to 64 below 95 percent of it; FLOOR is set where a
capped partition above its cap has come down to 4; the share of a launch's one workgroup is charged to it, and that of a queue's to the queue. A die
is held from a reading above 100 degrees until all 64 of its sensors read below 95; above 110 every launch is lost and no core runs (memory is kept: the model's reading, log 94). PREEMPT of a running partition: it halts, each open transaction
is tainted and its sets are gone, and its tasks leave the deques. With the save done the partition is SAVED, memory outside its save area is as it was,
its workgroups keep scratchpad,
tiles and timelines, its threads their registers and regions, and the interrupt is raised. RESUME, and the restore of each workgroup once its
resources are free, make it run again. -/
def Obligations.PowerAndPreemptionAct : Prop :=
  ∀ (s : State), s.parts.length = 16 →
    (∀ cores weights hub,
        let rs := residents s
        let share (r : Resident) : Nat := energyShare cores weights hub rs r
        ∃ u, exec (.bridleInterval cores weights hub) s = .next u ∧ u.mem = s.mem ∧ u.threads = s.threads ∧ u.gone = [] ∧ u.activity = []
          ∧ (∀ part, part < 16 →
              let p := partAt s part
              let power := (rs.filter fun r => r.part = part).foldl (fun n r => n + share r) 0
              let a := if p.pcap = 0 then 64 else if p.pcap < power then max 4 (p.allow * p.pcap / power)
                else if 20 * power < 19 * p.pcap then min 64 (p.allow + 4) else p.allow
              (partAt u part).allow = a ∧ (partAt u part).ppower = power % 2 ^ 32
                ∧ (partAt u part).floor = (p.floor || decide (p.pcap ≠ 0 ∧ p.pcap < power ∧ a = 4)))
          ∧ (∀ k l r, look s.launches k = some l → rs.filter (fun x => x.launch = k) = [r] →
              let x := l.energyFine + 65536 * share r
              look u.launches k = some { l with energy := min (l.energy + x / 10 ^ 8) (2 ^ 64 - 1), energyFine := x % 10 ^ 8 })
          ∧ ∀ q r, rs.filter (fun x => x.queue = q) = [r] →
              (queueAt u q).energy = min ((queueAt s q).energy + ((queueAt s q).energyFine + 65536 * share r) / 10 ^ 8) (2 ^ 64 - 1))
      ∧ (∀ die temp, die < 4 →
        (100 < temp → exec (.thermalLimit die temp) s = .next { s with thermal := s.thermal.set die true })
          ∧ (∀ temps, temps.length = 64 → (∀ x ∈ temps, x < 95) → exec (.thermalLimitEnd die temps) s = .next { s with thermal := s.thermal.set die false })
          ∧ (∀ temps, (temps.length ≠ 64 ∨ ∃ x ∈ temps, 95 ≤ x) → exec (.thermalLimitEnd die temps) s = .next s)
          ∧ (110 < temp → ∃ u, exec (.thermalShutdown die temp) s = .next u ∧ u.threads = [] ∧ u.wgs = [] ∧ u.groups = [] ∧ u.launches = []
            ∧ (∀ c, c < 256 → (coreAt u c).offline = true) ∧ u.portOut = s.portOut ++ [.event 2] ∧ u.mem = s.mem))
      ∧ (∀ who part, mayPart s who part = true → part < 16 → (partAt s part).pstate = .running → rising s.threads = true →
        ∃ u, exec (.partitionPreempt who part) s = .next u ∧ (partAt u part).pstate = .halting ∧ u.mem = s.mem ∧ u.wgs = s.wgs
          ∧ (∀ t th, thOf s t = some th → wgOfPart s part (wgOf t) = true → th.region.mode = .tx →
              ∃ th', thOf u t = some th' ∧ th'.region.taint = true ∧ th'.region.stores = [] ∧ th'.region.reads = [] ∧ th'.regs = th.regs)
          ∧ (∀ t th, thOf s t = some th → ¬(wgOfPart s part (wgOf t) = true ∧ th.region.mode = .tx) → thOf u t = some th)
          ∧ (∀ c x, x ∈ (coreAt s c).deque → x.part = part → (c, x) ∈ (partAt u part).savedTasks)
          ∧ ∀ c x, x ∈ (coreAt u c).deque → x.part ≠ part)
      ∧ (∀ who part, (partAt s part).pstate ≠ .running → exec (.partitionPreempt who part) s = .next s)
      ∧ (∀ part, part < 16 → (partAt s part).pstate = .halting → saveWaits s part = false →
        ∃ u, exec (.partitionSaved part) s = .next u ∧ (partAt u part).pstate = .saved ∧ (partAt u part).pirq.getLsbD 3 = true
          ∧ (memWf s.mem = true → ∀ a, a / 65536 ∉ saveGranules s part → memGet u.mem a = memGet s.mem a)
          ∧ (∀ c x, x ∈ (coreAt s c).deque → x.part = part → (c, x) ∈ (partAt u part).savedTasks)
          ∧ (∀ k w, wgAt s k = some w → w.part = part →
              ∃ w', wgAt u k = some w' ∧ w'.saved = true ∧ w'.spad = w.spad ∧ w'.tiles = w.tiles ∧ w'.tls = w.tls ∧ w'.fifos = w.fifos)
          ∧ (∀ k w, wgAt s k = some w → w.part ≠ part → wgAt u k = some w)
          ∧ ∀ t th, thOf s t = some th →
              ∃ th', thOf u t = some th' ∧ th'.regs = th.regs ∧ th'.region = th.region ∧ th'.span = th.span ∧ th'.off = th.off)
      ∧ (∀ who part, mayPart s who part = true → (partAt s part).pstate = .saved →
        ((∃ x ∈ s.wgs, x.2.part = part ∧ x.2.saved = true) →
          exec (.partitionResume who part) s = .next (modPart s part fun p => { p with pstate := .restoring }))
          ∧ ((∀ x ∈ s.wgs, x.2.part = part → x.2.saved = false) → (partAt s part).savedTasks = [] →
            ∃ u, exec (.partitionResume who part) s = .next u ∧ (partAt u part).pstate = .running ∧ u.wgs = s.wgs ∧ u.mem = s.mem))
      ∧ ∀ k w, wgAt s k = some w → w.saved = true → (partAt s w.part).pstate = .restoring → restoreFits s w = true → rising s.wgs = true →
        ∃ u, exec (.workgroupRestore k) s = .next u ∧ wgAt u k = some { w with saved := false, laneAt := s.now } ∧ u.threads = s.threads
          ∧ u.mem = s.mem
          ∧ (w.part < 16 → (∀ j x, j ≠ k → wgAt s j = some x → x.part = w.part → x.saved = false) → (partAt s w.part).savedTasks = [] →
              (partAt u w.part).pstate = .running)

/-- Reset, power, the management port and errors (R8, R150, R249, R287, R376 to R384; the model's choices: logs 28, 29, 30, 70, 90 to 93, 95). MODULE_RESET of a module that is ON, and
POWER_OFF: every register of the hub is at its reset value and nothing runs; switch memory is kept. POWER_ON: an OFF module begins to boot; a
booting one measures the next stage's image, a staged one if the port supplies it, else the stage's firmware, in its register, goes on where it is
verified and is ON after the sixth, and else halts, which is reported. SPDM answers at the port or to a joined peer, with the measurements when they are asked for, and with a signature of 29,792 bytes where
it signs. REDFISH stages firmware, switches the module off, and reports the error counts and COREOFF. An unlock that is verified opens the
debug port and is measured in register 15. ECC_ERROR: a corrected error is counted and changes nothing else; an uncorrectable one is counted and leaves a
sector poisoned with cause ECC, or a register or tile row struck until its first use; one in the matrix array changes the element's bits alone. PATROL_SCRUB
changes nothing. CORE_OFFLINE: the core's launches are aborted, its workgroups have retired and their threads are gone, its bit of COREOFF is
set, its carved granules stay, and the partitions that had work there are told. -/
def Obligations.ModuleStepsAct : Prop :=
  ∀ (s : State),
    let blank (u : State) : Prop :=
      u.parts = State.reset.parts ∧ u.queues = [] ∧ u.ccpart = State.reset.ccpart ∧ u.keystat = 0 ∧ u.pinmap = [] ∧ u.coreoff = []
        ∧ u.threads = [] ∧ u.wgs = [] ∧ u.groups = [] ∧ u.cores = [] ∧ u.launches = [] ∧ u.switches = s.switches
    let counted (u : State) (k : Nat) : Prop := lookD u.eccUncorrected k 0 = lookD s.eccUncorrected k 0 + 1 ∧ u.eccCorrected = s.eccCorrected
    (s.power = .on → ∃ u, exec .moduleReset s = .next u ∧ blank u ∧ u.power = .on ∧ u.measure = State.reset.measure ∧ u.cxlsz = s.cxlsz)
      ∧ (∃ u, exec .powerOff s = .next u ∧ blank u ∧ u.power = .off)
      ∧ (∀ image sig cxl, s.power = .off →
        ∃ u, exec (.powerOn image sig cxl) s = .next u ∧ blank u ∧ u.power = .booting ∧ u.measure = State.reset.measure ∧ u.bootStage = 0
          ∧ u.bootHalted = false)
      ∧ (∀ image sig cxl, s.power = .booting → (s.bootHalted = true → exec (.powerOn image sig cxl) s = .next s)
          ∧ (s.bootHalted = false → s.bootStage < 6 → s.measure.length = 32 →
            ∃ u, exec (.powerOn image sig cxl) s = .next u ∧ (∀ j, j ≠ s.bootStage → u.measure[j]? = s.measure[j]?)
              ∧ u.measure[s.bootStage]? = (s.measure[s.bootStage]?).map (fun m => extendMeasure m (bootImage s image))
              ∧ (if Config.bootVerifies s.bootStage (bootImage s image) sig
                then look u.firmware s.bootStage = some (bootImage s image) ∧ u.bootHalted = false ∧ u.bootStage = s.bootStage + 1 ∧ u.power = (if s.bootStage = 5 then .on else .booting)
                  ∧ u.portOut = s.portOut
                else u.bootHalted = true ∧ u.power = .booting ∧ u.portOut = s.portOut ++ [.event 1])))
      ∧ (∀ peer req, s.power = .on →
        (spdmReaches s peer = false → exec (.spdmRequest ⟨peer, req⟩) s = .next s)
          ∧ (spdmReaches s peer = true → ∃ body sig,
            exec (.spdmRequest ⟨peer, req⟩) s = .next { s with
              portOut := s.portOut ++ [.spdm peer req (if req = .measurements then s.measure else [])
                (if req = .algorithms then [.slhDsaShake256s, .shake256] else []) body sig] }
              ∧ sig.length = if isSigned req then 29792 else 0))
      ∧ (∀ image, exec (.redfishRequest (.firmware image)) s = .next { s with stagedFw := some image })
      ∧ (∃ u, exec (.redfishRequest (.power false)) s = .next u ∧ u.power = .off ∧ u.threads = []
        ∧ u.portOut = s.portOut ++ [.redfish (.power false) []])
      ∧ exec (.redfishRequest .errorCounts) s = .next { s with portOut := s.portOut ++ [.redfish .errorCounts
          ((List.range 7).map (fun k => lookD s.eccCorrected k 0) ++ (List.range 7).map fun k => lookD s.eccUncorrected k 0)] }
      ∧ exec (.redfishRequest .coreOff) s = .next { s with portOut := s.portOut ++ [.redfish .coreOff
          ((List.range 4).map fun k => (lookD s.coreoff k 0).toNat)] }
      ∧ (∀ token, s.power = .on → s.measure.length = 32 →
        ∃ u, exec (.debugUnlock true token) s = .next u ∧ u.debugUnlocked = true
          ∧ u.measure[15]? = (s.measure[15]?).map (fun m => extendMeasure m token) ∧ (∀ j, j ≠ 15 → u.measure[j]? = s.measure[j]?) ∧ u.mem = s.mem)
      ∧ (∀ token, exec (.debugUnlock false token) s = .next s)
      ∧ (∀ k, exec (.eccError (.corrected k)) s = .next { s with eccCorrected := put s.eccCorrected k (lookD s.eccCorrected k 0 + 1) })
      ∧ (∀ sec, isPkgMem (homeOf s (64 * sec)) = true →
        ∃ u, exec (.eccError (.memory sec)) s = .next u ∧ look u.poison sec = some .ecc ∧ counted u 2 ∧ u.threads = s.threads
          ∧ (memWf s.mem = true → ∀ a, a / 64 ≠ sec → memGet u.mem a = memGet s.mem a))
      ∧ (∀ sec, isPkgMem (homeOf s (64 * sec)) = true →
        ∃ u, exec (.eccError (.slice sec)) s = .next u ∧ look u.poison sec = some .ecc ∧ counted u 1 ∧ u.threads = s.threads)
      ∧ (∀ t th r, thOf s t = some th → r ≠ 0 → r < th.regs.length →
        ∃ u, exec (.eccError (.reg t r)) s = .next u ∧ thOf u t = some (setReg th r RegVal.hit) ∧ counted u 0 ∧ u.mem = s.mem)
      ∧ (∀ k w tile row, wgAt s k = some w → tile < w.tiles.length → row < 128 → row ∉ (tileOf w tile).struck → rowTok (tileOf w tile) row = none →
        ∃ u w', exec (.eccError (.tileRow k tile row)) s = .next u ∧ wgAt u k = some w' ∧ u.mem = s.mem ∧ u.threads = s.threads
          ∧ tileOf w' tile = { tileOf w tile with struck := (tileOf w tile).struck ++ [row] })
      ∧ (∀ k w tile row col bits, wgAt s k = some w → tile < w.tiles.length → row < 128 → col < 128 → rising (tileOf w tile).elems = true →
        ∃ u w', exec (.eccError (.array k tile row col bits)) s = .next u ∧ wgAt u k = some w' ∧ u.mem = s.mem
          ∧ u.eccUncorrected = s.eccUncorrected ∧ u.eccCorrected = s.eccCorrected
          ∧ ∀ i j, i < 128 → j < 128 →
              tileGet (tileOf w' tile) i j = tileGet (tileOf w tile) i j ^^^ (if i = row ∧ j = col then bits else 0))
      ∧ exec .patrolScrub s = .next s
      ∧ ∀ core, core < 256 → (coreAt s core).offline = false → rising s.wgs = true → s.parts.length = 16 →
        ∃ u, exec (.coreOffline core) s = .next u ∧ (coreAt u core).offline = true
          ∧ (lookD u.coreoff (core / 64) 0).getLsbD (core % 64) = true ∧ lookD u.eccUncorrected 6 0 = lookD s.eccUncorrected 6 0 + 1
          ∧ (∀ k w, wgAt u k = some w → w.core = core → w.retired = true)
          ∧ (∀ g, (coreAt s core).carve.getLsbD g = true → (coreAt u core).carve.getLsbD g = true)
          ∧ (∀ t w, wgAt s (wgOf t) = some w → w.core = core → thOf u t = none)
          ∧ ∀ k w, wgAt s k = some w → w.core = core → w.retired = false →
              (w.part < 16 → (partAt u w.part).pirq.getLsbD 5 = true)
                ∧ ∀ l, look s.launches w.launch = some l →
                    ∃ l', look u.launches w.launch = some l' ∧ l'.aborted = true ∧ l'.status = .aborted ∧ l'.sticky = true

/-! ## Steps: the fabric -/

/-- The destination side of the fabric (R375, R392, R393, R397, R399, R401, R403, R405 to R407, R412, R413;
the model's choices: logs 55, 84, 116, 119, 120). FABRIC_REQUEST of another device, in order: a load
is answered with the bytes of the export space, a store or an atomic is performed there and answered, a frozen range refuses it, and the flow
remembers SEQ and reply; a request performed before is only answered again, one whose tag fails or that is too old changes nothing; a walk that fails freezes the flow and waits for the target's fault queue,
and a tenant that no partition accepts is refused alone. XFER_PACKET writes the endpoint's scratchpad and arrives at its object, also where its range is refused, and later where the object's line is absent; a saved
workgroup answers BUSY. A request at a switch acts on the tenant's allocation and is answered; a mirrored write is answered once MIRROR_UPDATE
has written it at the mirror, unless the mirror has performed that request itself. FLOW_STATE_EXPIRE forgets a flow 250 us after its last reply can have
arrived (but for how far it was delivered, log 120). A lost switch serves nothing and holds nothing. -/
def Obligations.FabricDestinationsPerformRequests : Prop :=
  ∀ (s : State) (pkt : Packet), s.power = .on →
    let x := dstFlowOf s.dstFlows 0 pkt
    let recorded (u : State) (b : ReplyBody) : Prop :=
      dstFlowOf u.dstFlows 0 pkt = { x with performed := x.performed ++ [pkt.seq], cache := ((pkt.seq, b) :: x.cache).take 64, lastAck := s.now + us 50 }
        ∧ u.net = s.net ∧ u.netReplies = s.netReplies
    let inSector : Prop := 0 < pkt.len ∧ pkt.bytes.length = pkt.len ∧ pkt.addr % 64 + pkt.len ≤ 64
    (pkt.dest = .dev s.pkg → pkt.sdev ≠ s.pkg → pkt.fromPeer = none →
      (tooOld s pkt.born = true → exec (.fabricRequest pkt) s = .next s ∧ exec (.xferPacket pkt) s = .next s)
      ∧ (tooOld s pkt.born = false →
      (pkt.op ≠ .transfer → verdict x pkt = .perform → acceptor s pkt.ftid = none →
        ∃ u, exec (.fabricRequest pkt) s = .next u ∧ recorded u (.fault .remoteFault false false) ∧ u.mem = s.mem)
      ∧ (tagPasses s pkt = false → exec (.fabricRequest pkt) s = .next s ∧ exec (.xferPacket pkt) s = .next s)
      ∧ (pkt.op ≠ .transfer → verdict x pkt = .again none → exec (.fabricRequest pkt) s = .next s)
      ∧ (∀ c, pkt.op ≠ .transfer → verdict x pkt = .again (some c) → tagPasses s pkt = true →
        exec (.fabricRequest pkt) s = .next { s with dstFlows := refreshed s.now (sameFlow 0 pkt) s.dstFlows })
      ∧ (pkt.op ≠ .transfer → verdict x pkt = .frozen → exec (.fabricRequest pkt) s = .next s)
      ∧ (pkt.op = .transfer → exec (.fabricRequest pkt) s = .next s)
      ∧ ∀ p, verdict x pkt = .perform → acceptor s pkt.ftid = some p → tagPasses s pkt = true →
        (∀ f, pkt.op ≠ .transfer → p < s.parts.length → exportWalk s p pkt.addr (accOf pkt.op) = (.error f, s) →
          ∃ u, exec (.fabricRequest pkt) s = .next u ∧ u.mem = s.mem
            ∧ (partAt u p).faultWait = (partAt s p).faultWait ++ [targetEntry pkt p f]
            ∧ (dstFlowOf u.dstFlows 0 pkt).frozenAt = some pkt.seq ∧ (dstFlowOf u.dstFlows 0 pkt).part = p
            ∧ (dstFlowOf u.dstFlows 0 pkt).cache.head? = some (pkt.seq, .fault .remoteFault false true))
        ∧ (∀ pa mode key part d, exportWalk s p pkt.addr (accOf pkt.op) = (.ok (.phys pa mode key part), s) → homeOf s pa = .dram d →
          s.poison = [] → s.freezes = [] → requestHeld s pkt = false →
          (pkt.op = .load →
            ∃ u, exec (.fabricRequest pkt) s = .next u ∧ recorded u (.done (memGetN s.mem pa pkt.len) none false) ∧ u.mem = s.mem
              ∧ u.threads = s.threads)
          ∧ (pkt.op = .store → pkt.poison = [] → 0 < pkt.len → pkt.bytes.length = pkt.len → pa % 64 + pkt.len ≤ 64 →
            ∃ u, exec (.fabricRequest pkt) s = .next u ∧ recorded u (.done [] none false) ∧ u.mem = memSetN s.mem pa pkt.bytes
              ∧ u.threads = s.threads)
          ∧ (∀ op wide a e, pkt.op = .atomic op wide a e → op ≠ .fadd → pkt.bytes = [] → pkt.len = (if wide then 8 else 4) →
            pa % pkt.len = 0 →
            let old := BitVec.ofNat 64 (leNat (memGetN s.mem pa pkt.len))
            ∃ u, exec (.fabricRequest pkt) s = .next u ∧ recorded u (.done (leBytes pkt.len old.toNat) none false)
              ∧ u.mem = memSetN s.mem pa (leBytes pkt.len (atomNew op wide old a e).toNat) ∧ u.threads = s.threads))
        ∧ (∀ l, pkt.op = .store → exportWalk s p pkt.addr .write = (.ok l, s) → locFrozen s l pkt.len = true →
          requestHeld s pkt = false →
          ∃ u, exec (.fabricRequest pkt) s = .next u ∧ recorded u (.fault .writeFrozen false false) ∧ u.mem = s.mem ∧ u.threads = s.threads)
        ∧ ∀ e, pkt.op = .transfer → pkt.endpoint = some e → e.spad = true →
          (endpointCheck s e p pkt = .busy → exec (.xferPacket pkt) s = .next s)
          ∧ (endpointCheck s e p pkt = .refused →
            ∃ u, exec (.xferPacket pkt) s = .next u ∧ recorded u (.fault .remoteFault false false) ∧ u.wgs = s.wgs ∧ u.mem = s.mem)
          ∧ (∀ k w a, endpointCheck s e p pkt = .ok k false false → wgAt s k = some w → e.bar = some a → memWf w.spad = true → w.spadPoison = [] →
            ∃ u w', exec (.xferPacket pkt) s = .next u ∧ wgAt u k = some w' ∧ recorded u (.fault .remoteFault false false)
              ∧ objAt w' a = arrived (objAt w a) 0 pkt.len ∧ (∀ z, z < a ∨ a + 16 ≤ z → memGet w'.spad z = memGet w.spad z)
              ∧ u.mem = s.mem ∧ u.threads = s.threads)
          ∧ ∀ k w, wgAt s k = some w → inSector → pkt.poison = [] → w.spadPoison = [] → memWf w.spad = true →
            (endpointCheck s e p pkt = .ok k true true →
              ∃ u w' y, exec (.xferPacket pkt) s = .next u ∧ wgAt u k = some w' ∧ w'.spad = memSetN w.spad pkt.addr pkt.bytes
                ∧ w'.absent = w.absent ∧ y ∈ (dstFlowOf u.dstFlows 0 pkt).arriving ∧ y.pkt = pkt ∧ y.wg = k ∧ y.body = .done [] none false
                ∧ verdict (dstFlowOf u.dstFlows 0 pkt) pkt = .again none ∧ u.netReplies = s.netReplies ∧ u.mem = s.mem)
            ∧ (endpointCheck s e p pkt = .ok k true false → (∀ a, e.bar = some a → a + 16 ≤ pkt.addr ∨ pkt.addr + pkt.len ≤ a) →
              ∃ u w', exec (.xferPacket pkt) s = .next u ∧ wgAt u k = some w' ∧ recorded u (.done [] none false)
                ∧ memGetN w'.spad pkt.addr pkt.len = pkt.bytes ∧ w'.absent = w.absent
                ∧ (∀ a, e.bar = some a → objAt w' a = arrived (objAt w a) 0 pkt.len)
                ∧ (∀ z, (z < pkt.addr ∨ pkt.addr + pkt.len ≤ z) → (∀ a, e.bar = some a → z < a ∨ a + 16 ≤ z) →
                    memGet w'.spad z = memGet w.spad z)
                ∧ u.mem = s.mem ∧ u.threads = s.threads)))
    ∧ (∀ n, n ≠ s.pkg → pkt.dest = .dev n → pkt.sdev = s.pkg → pkt.fromPeer = none → tooOld s pkt.born = false → pkt ∈ s.net →
      (pkt.op ≠ .transfer → exec (.fabricRequest pkt) s = .next { s with net := s.net.erase pkt })
        ∧ (pkt.op = .transfer → exec (.xferPacket pkt) s = .next { s with net := s.net.erase pkt }))
    ∧ (∀ plane sw y, pkt.dest = .switch plane sw → sw < 64 → pkt.op ≠ .transfer → pkt.sdev = s.pkg → pkt.fromPeer = none →
      tooOld s pkt.born = false → pkt ∈ s.net →
      look s.switches (swKey plane sw) = some y →
      let k := swKey plane sw
      let home := pkt.named.getD k
      let f := bankFlow home pkt
      let answers (u : State) (b : ReplyBody) : Prop :=
        u.netReplies = s.netReplies ++ [⟨f, pkt.seq, b, replyKey s f pkt.seq, s.now⟩] ∧ u.net = s.net.erase pkt ∧ u.threads = s.threads
      (y.lost = true → exec (.fabricRequest pkt) s = .next { s with net := s.net.erase pkt })
        ∧ (bankTagPasses s k pkt = false → exec (.fabricRequest pkt) s = .next { s with net := s.net.erase pkt })
        ∧ (y.lost = false → bankTagPasses s k pkt = true → y.allocs = [] → verdict (dstFlowOf y.flows home pkt) pkt = .perform →
          ∃ u, exec (.fabricRequest pkt) s = .next u ∧ answers u (.fault .remoteFault false false) ∧ (switchAt u k).mem = y.mem)
        ∧ ∀ a, y.lost = false → bankTagPasses s k pkt = true → y.allocs = [a] → a.mirrorOf = pkt.named → inAlloc a pkt.ftid pkt.addr (max 1 pkt.len) = true → y.poison = [] →
          (∀ b, verdict (dstFlowOf y.flows home pkt) pkt = .again (some b) → updPending s home pkt = false →
            ∃ u, exec (.fabricRequest pkt) s = .next u ∧ answers u b
              ∧ switchAt u k = { y with flows := refreshed s.now (sameFlow home pkt) y.flows })
          ∧ (verdict (dstFlowOf y.flows home pkt) pkt = .perform → pkt.op = .load →
            ∃ u, exec (.fabricRequest pkt) s = .next u ∧ answers u (.done (memGetN y.mem pkt.addr pkt.len) none false)
              ∧ (switchAt u k).mem = y.mem)
          ∧ (verdict (dstFlowOf y.flows home pkt) pkt = .perform → pkt.op = .store → pkt.poison = [] → inSector →
            ∃ u, exec (.fabricRequest pkt) s = .next u ∧ (switchAt u k).mem = memSetN y.mem pkt.addr pkt.bytes
              ∧ pkt.seq ∈ (dstFlowOf (switchAt u k).flows home pkt).performed
              ∧ (a.mirror = none → answers u (.done [] none false))
              ∧ ∀ m, a.mirror = some m → u.netReplies = s.netReplies ∧ look u.mirrorUpds s.nextId = some
                  { primary := k, mirror := swKey m.1 m.2, addr := pkt.addr, bytes := pkt.bytes, poison := none, sdev := s.pkg,
                    score := pkt.score, stream := pkt.stream, seq := pkt.seq, reply := .done [] none false }))
    ∧ (∀ k v, s.mirrorUpds = [(k, v)] → v.primary ≠ v.mirror → (switchAt s v.primary).lost = false → v.poison = none → 0 < v.bytes.length →
      v.addr % 64 + v.bytes.length ≤ 64 → (switchAt s v.mirror).poison = [] →
      let own (x : DstFlow) : Bool := x.home = v.primary && x.sdev = v.sdev && x.score = v.score && x.stream = v.stream
      let y := (switchAt s v.mirror).flows.find? own
      ((switchAt s v.mirror).lost = true → exec (.mirrorUpdate k) s = .next s)
        ∧ ((switchAt s v.mirror).lost = false → (∃ x, y = some x ∧ v.seq ∈ x.performed) →
          exec (.mirrorUpdate k) s = .next { s with mirrorUpds := [] })
        ∧ ((switchAt s v.mirror).lost = false → (∀ x, y = some x → v.seq ∉ x.performed) →
          ∃ u, exec (.mirrorUpdate k) s = .next u ∧ (switchAt u v.mirror).mem = memSetN (switchAt s v.mirror).mem v.addr v.bytes
            ∧ u.mirrorUpds = [] ∧ (switchAt u v.primary).mem = (switchAt s v.primary).mem
            ∧ (switchAt u v.primary).allocs = (switchAt s v.primary).allocs
            ∧ u.netReplies = s.netReplies
                ++ (let f : FlowKey := ⟨v.score, .switch (v.primary / 64) (v.primary % 64), v.stream⟩
                  if v.sdev = s.pkg then [⟨f, v.seq, v.reply, replyKey s f v.seq, s.now⟩] else [])))
    ∧ (∀ f y n, s.dstFlows = [f] → f.home = 0 → f.sdev ≠ s.pkg → f.frozenAt = none → f.arriving = [] →
      y = (⟨f.score, .dev n, f.stream⟩ : FlowKey) →
      (f.lastAck + us 250 ≤ s.now → exec (.flowStateExpire y f.sdev) s = .next { s with dstFlows := [f.expired] })
        ∧ (s.now < f.lastAck + us 250 → exec (.flowStateExpire y f.sdev) s = .next s))
    ∧ ∀ plane sw, plane < 16 → sw ≤ 56 →
      (∃ u, exec (.switchLost plane sw) s = .next u ∧ (switchAt u (swKey plane sw)).lost = true ∧ (switchAt u (swKey plane sw)).mem = []
          ∧ (switchAt u (swKey plane sw)).allocs = [] ∧ (∀ j, j ≠ swKey plane sw → switchAt u j = switchAt s j) ∧ u.threads = s.threads)
        ∧ ((switchAt s (swKey plane sw)).lost = true →
          ∃ u, exec (.switchRejoin plane sw) s = .next u
            ∧ switchAt u (swKey plane sw) = { switchAt s (swKey plane sw) with lost := false } ∧ .switch plane sw ∉ u.noticed
            ∧ ∀ j, j ≠ swKey plane sw → switchAt u j = switchAt s j)

/-- The source side of the fabric (R164, R265, R319, R354, R375, R381, R386, R387, R388, R395, R396, R400 to R402, R407, R411 to R413, R421;
the model's choices: logs 17, 23, 55, 56, 84, 116, 119).
XFER_START runs the oldest transfer, and from the next cycle on its next packet of clean scratchpad leaves with the flow's next SEQ. A store waits while one that entered
its flow before it is unsent. FABRIC_RETRY sends a request of
50 us again, four times in all, uncounted while the flow is frozen, and then a load receives poison of cause REMOTE-UNACKED. A request of
a saved thread's atomic waits, and a reply whose tag fails, or that is too old, is dropped; a link's ECC FAULT has the request sent again at once. FABRIC_REPLY: a load receives its bytes, a store's
STC falls, a target fault taints the thread late and freezes the flow, FROZEN queues the request again, BUSY keeps it for XFER_BUSY_RETRY,
which sends it again after 10 us. XFER_COMPLETE completes the transfer's number, with its event. A resume makes the flow's records SERVICED
and sends its queued requests; an abort makes them REFUSED. LOSS_NOTICE ends the requests to a lost device, and sends those to a lost switch
to the mirror or ends them with SWM-LOST. Frames and packets that are dropped vanish, and a port runs 8, 4 or no lanes; a
device without a port is not joined, and one that joins, or a lost one that trains again, starts its flows afresh. -/
def Obligations.FabricSourcesActOnReplies : Prop :=
  ∀ (s : State) (k : Nat),
    (∀ x, s.xfers = [(k, x)] → x.running = false →
        exec .xferStart s = .next { s with nextId := s.nextId + 1,
                                           xfers := [(k, { x with running := true, entry := s.nextId, entered := s.now })] })
      ∧ (∀ x w, s.xfers = [(k, x)] → x.running = true → x.entered < s.now → s.ops = [] → s.reqs = [] → x.desc.sspace = 0 → wgAt s x.wg = some w → w.spadPoison = [] →
        x.desc.saddr % 16 = 0 → x.desc.daddr % 16 = 0 → x.desc.bytes % 16 = 0 → 16 ≤ x.desc.bytes → x.sent < packetCount x.desc →
        let d := xferDest x.desc
        let f : FlowKey := ⟨x.core, d, x.desc.stream⟩
        let r := packetRange x.desc x.sent
        d ∉ s.noticed → destUp s d = true → (flowAt s f).frozen = false →
        ∃ u q, exec .xferStart s = .next u ∧ look u.xfers k = some { x with sent := x.sent + 1 } ∧ u.net = s.net ++ [q]
          ∧ q.op = .transfer ∧ q.seq = (flowAt s f).next ∧ (flowAt u f).next = (flowAt s f).next + 1 ∧ q.addr = r.1 ∧ q.len = r.2
          ∧ q.bytes = memGetN w.spad (x.desc.saddr + (r.1 - x.desc.daddr)) r.2 ∧ q.dest = d ∧ q.stream = x.desc.stream ∧ q.ord = x.desc.ord
          ∧ (∀ b ∈ q.poison, b = false)
          ∧ q.endpoint = (if x.desc.dkind = 1 ∨ x.desc.bar ≠ none then some ⟨x.desc.dcore, x.desc.dslot, x.desc.bar, decide (x.desc.dkind = 1)⟩
              else none)
          ∧ q.born = s.now ∧ q.fromPeer = none ∧ q.named = none ∧ q.ftid = (partAt s x.part).pftid ∧ q.key = fabKeyOf s x.part d
          ∧ u.mem = s.mem ∧ wgAt u x.wg = some { w with moved := w.moved + r.2 } ∧ u.threads = s.threads)
      ∧ (∀ o p j f m, look s.ops k = some o → look s.ops j = some p → entersBefore s (p.entered, leadOf s p, j) (o.entered, leadOf s o, k) = true → o.phase = .waiting → o.reply = none → mustWait s k o = false →
        lineWaits s o = false → o.kind = .store m → (∃ b, p.kind = .store b) → p.sent = false → p.reply = none → opFlow s o = some f →
        opFlow s p = some f → (∀ pa mode key part, o.loc = .phys pa mode key part → (partAt s part).pftid ≠ 0) → s.noticed = [] →
        exec (.homeStore k) s = .next s)
      ∧ (∀ x w, look s.xfers k = some x → x.running = true → packetCount x.desc ≤ x.done.length → wgAt s x.wg = some w → w.retired = false →
        x.tl < w.tls.length →
        (timelineAt w x.tl).complete = [] → x.num = (timelineAt w x.tl).done + 1 →
        ∃ u w', exec (.xferComplete k) s = .next u ∧ wgAt u x.wg = some w' ∧ timelineAt w' x.tl = { timelineAt w x.tl with done := x.num }
          ∧ w'.cir = (match x.event with
              | none => w.cir
              | some tok => cirEvent w.cir (some 50) tok)
          ∧ u.xfers = del s.xfers k ∧ u.mem = s.mem ∧ u.threads = s.threads)
      ∧ (∀ r c, look s.reqs k = some r → r.firstAt = some c → r.busy = false → r.queued = false → (flowAt s r.flow).frozen = false →
        (s.now < r.lastAt + us 50 → exec (.fabricRetry k) s = .next s)
        ∧ (reqSaved s r = true → exec (.fabricRetry k) s = .next s)
        ∧ (r.lastAt + us 50 ≤ s.now → r.attempts < 4 → reqSaved s r = false → destUp s (routed s r.pkt).dest = true →
          exec (.fabricRetry k) s = .next
            { s with reqs := put s.reqs k { r with lastAt := s.now, attempts := r.attempts + 1 }, net := s.net ++ [{ routed s r.pkt with born := s.now }] })
        ∧ ∀ j o form m th, r.lastAt + us 50 ≤ s.now → reqSaved s r = false → 4 ≤ r.attempts → r.owner = .op j → look s.ops j = some o → look s.acks j = none →
          o.kind = .load form → o.parts = [m] → thOf s m.th = some th → th.serial = m.serial → m.tx = false → allHeld o = false →
          rising s.ops = true →
          ∃ u tok, exec (.fabricRetry k) s = .next u ∧ thOf u m.th = some (received th o m (List.replicate m.dst.length (RegVal.bad tok)) [])
            ∧ u.ops = del s.ops j ∧ u.mem = s.mem)
      ∧ (∀ r c, look s.reqs k = some r → r.firstAt = some c → r.busy = false → r.queued = false → (flowAt s r.flow).frozen = true →
        r.lastAt + us 50 ≤ s.now → reqSaved s r = false → destUp s (routed s r.pkt).dest = true →
        exec (.fabricRetry k) s = .next
          { s with reqs := put s.reqs k { r with lastAt := s.now }, net := s.net ++ [{ routed s r.pkt with born := s.now }] })
      ∧ (∀ r, look s.reqs k = some r → r.busy = true → destUp s (routed s r.pkt).dest = true →
        (s.now < r.lastAt + us 10 → exec (.xferBusyRetry k) s = .next s)
        ∧ (r.lastAt + us 10 ≤ s.now → exec (.xferBusyRetry k) s = .next
            { s with reqs := put s.reqs k { r with firstAt := some s.now, lastAt := s.now, attempts := 1, busy := false, queued := false },
                     net := s.net ++ [{ routed s r.pkt with born := s.now }] }))
      ∧ (∀ r c y, s.reqs = [(k, r)] → r.firstAt = some c → y.flow = r.flow → y.seq = r.seq → y ∈ s.netReplies → reqSaved s r = false →
        tooOld s y.born = false →
        (y.key ≠ r.pkt.key → fromLink y.body = false → exec (.fabricReply y) s = .next { s with netReplies := s.netReplies.erase y })
        ∧ (∀ g, y.body = .fault .ecc true g → r.attempts < 4 → destUp s (routed s r.pkt).dest = true →
          exec (.fabricReply y) s = .next
            { s with netReplies := s.netReplies.erase y,
                     reqs := [(k, { r with lastAt := s.now, attempts := r.attempts + 1, busy := false, queued := false })],
                     net := s.net ++ [{ routed s r.pkt with born := s.now }] })
        ∧ (y.key = r.pkt.key →
        (∀ j o form m th bs g, y.body = .done bs none g → r.pkt.op = .load → r.owner = .op j → look s.ops j = some o → o.kind = .load form →
          o.parts = [m] → thOf s m.th = some th → th.serial = m.serial →
          ∃ u, exec (.fabricReply y) s = .next u ∧ thOf u m.th = some (received th o m (loadRegs form (withHeld m.held bs)) bs)
            ∧ u.ops = del s.ops j ∧ u.reqs = [] ∧ u.netReplies = s.netReplies.erase y ∧ u.mem = s.mem)
        ∧ (∀ j o bs m th g, r.pkt.op = .store → r.owner = .op j → look s.ops j = some o → o.kind = .store bs → o.parts = [m] → m.dst = [] →
          thOf s m.th = some th → th.serial = m.serial → (∀ l, th.cond ≠ .replay l) →
          (y.body = .done [] none g →
            ∃ u, exec (.fabricReply y) s = .next u ∧ thOf u m.th = some { th with stc := th.stc - 1 } ∧ u.ops = del s.ops j ∧ u.reqs = []
              ∧ u.mem = s.mem)
          ∧ (y.body = .fault .remoteFault false true →
            ∃ u tok, exec (.fabricReply y) s = .next u
              ∧ thOf u m.th = some { th with region := taintRegion th.region tok, stc := th.stc - 1 }
              ∧ (flowAt u r.flow).frozen = true ∧ u.ops = del s.ops j ∧ u.reqs = [] ∧ u.mem = s.mem))
        ∧ (y.body = .frozen →
          ∃ u, exec (.fabricReply y) s = .next u ∧ look u.reqs k = some { r with queued := true } ∧ (flowAt u r.flow).frozen = true
            ∧ u.threads = s.threads ∧ u.mem = s.mem)
        ∧ (y.body = .busy →
          ∃ u, exec (.fabricReply y) s = .next u ∧ look u.reqs k = some { r with busy := true, lastAt := s.now } ∧ u.threads = s.threads
            ∧ u.mem = s.mem)))
      ∧ (∀ y, tooOld s y.born = true → exec (.fabricReply y) s = .next s)
      ∧ (∀ f c i g r, (flowAt s f).frozen = true → (flowAt s f).recs = [(c, i, g)] → (recAt s c i).gen.toNat = g → (recAt s c i).status = 2 →
        s.reqs = [(k, r)] → r.flow = f → r.queued = true → r.firstAt.isSome = true →
        (destUp s (routed s r.pkt).dest = true →
          ∃ u, exec (.flowResumeMessage f) s = .next u ∧ recAt u c i = { recAt s c i with status := 3 } ∧ (flowAt u f).frozen = false
            ∧ u.net = s.net ++ [{ routed s r.pkt with born := s.now }] ∧ u.threads = s.threads ∧ u.mem = s.mem)
        ∧ ∀ j o bs m th, r.owner = .op j → look s.ops j = some o → o.kind = .store bs → o.parts = [m] → m.dst = [] → thOf s m.th = some th →
          th.serial = m.serial → (∀ l, th.cond ≠ .replay l) →
          ∃ u tok, exec (.flowAbortMessage f) s = .next u ∧ thOf u m.th = some { th with region := taintRegion th.region tok, stc := th.stc - 1 }
            ∧ (flowAt u f).frozen = false ∧ u.reqs = [] ∧ u.net = s.net ∧ u.mem = s.mem)
      ∧ (∀ f, (flowAt s f).frozen = true → (flowAt s f).recs = [] → s.reqs = [] →
        ∃ u, exec (.flowAbortMessage f) s = .next u ∧ (flowAt u f).frozen = false ∧ u.threads = s.threads ∧ u.mem = s.mem)
      ∧ (∀ f, (flowAt s f).frozen = false → exec (.flowResumeMessage f) s = .next s ∧ exec (.flowAbortMessage f) s = .next s)
      ∧ (∀ n, n ≤ 1025 → n ≠ s.pkg → n ∉ s.lostDevs → exec (.deviceLost n) s = .next { s with lostDevs := s.lostDevs ++ [n] })
      ∧ (∀ r j o form m th, s.reqs = [(k, r)] → r.owner = .op j → look s.ops j = some o → look s.acks j = none → o.kind = .load form →
        o.parts = [m] → thOf s m.th = some th → th.serial = m.serial → m.tx = false → allHeld o = false → s.msgs = [] → s.mirrorUpds = [] →
        rising s.ops = true →
        (∀ n, r.flow.dest = .dev n → n ∈ s.lostDevs →
          ∃ u tok, exec (.lossNotice (.dev n)) s = .next u ∧ .dev n ∈ u.noticed ∧ u.reqs = [] ∧ u.mem = s.mem
            ∧ thOf u m.th = some (received th o m (List.replicate m.dst.length (RegVal.bad tok)) []))
        ∧ ∀ plane sw, r.flow.dest = .switch plane sw → (switchAt s (swKey plane sw)).lost = true →
          (routeSwitch s plane sw r.pkt.ftid r.pkt.addr (max 1 r.pkt.len) = none →
            ∃ u tok, exec (.lossNotice (.switch plane sw)) s = .next u ∧ .switch plane sw ∈ u.noticed ∧ u.mem = s.mem
              ∧ thOf u m.th = some (received th o m (List.replicate m.dst.length (RegVal.bad tok)) []))
          ∧ ∀ q, routeSwitch s plane sw r.pkt.ftid r.pkt.addr (max 1 r.pkt.len) = some q → r.firstAt.isSome = true →
            r.pkt.dest = .switch plane sw → planeUp s (q / 64) = true →
            ∃ u, exec (.lossNotice (.switch plane sw)) s = .next u ∧ .switch plane sw ∈ u.noticed
              ∧ u.net = s.net ++ [{ r.pkt with dest := .switch (q / 64) (q % 64), named := namedBy (swKey plane sw) q, born := s.now }] ∧ u.threads = s.threads ∧ u.mem = s.mem)
      ∧ (∀ pkt, pkt ∈ s.net →
        (tooOld s pkt.born = true → exec (.packetAgeDiscard pkt) s = .next { s with net := s.net.erase pkt })
          ∧ (tooOld s pkt.born = false → exec (.packetAgeDiscard pkt) s = .next s) ∧ exec (.frameFecDrop pkt) s = .next
          { s with net := s.net.erase pkt, eccUncorrected := put s.eccUncorrected 5 (lookD s.eccUncorrected 5 0 + 1) })
      ∧ (∀ plane lanes, planeUp s plane = false → exec (.linkLaneFailure plane lanes) s = .next s)
      ∧ (∀ plane lanes, plane < 16 → planeUp s plane = true →
        let ports := put s.ports plane (if 4 ≤ lanes then 4 else 0)
        exec (.linkLaneFailure plane lanes) s =
          .next { s with ports := ports, joined := s.joined && (List.range 16).any fun p => decide (4 ≤ lookD ports p 0) })
      ∧ ∀ plane n, plane < 16 → n ≤ 1025 → s.power = .on →
        (s.joined = true → n = s.pkg → exec (.linkTrained plane n) s = .next { s with ports := put s.ports plane 8 })
          ∧ (s.joined = true → n ≠ s.pkg → n ∉ s.lostDevs → exec (.linkTrained plane n) s = .next s)
          ∧ (s.joined = true → n ≠ s.pkg → n ∈ s.lostDevs → s.reqs = [] →
            ∃ u, exec (.linkTrained plane n) s = .next u ∧ n ∉ u.lostDevs ∧ .dev n ∉ u.noticed ∧ (∀ x ∈ u.dstFlows, x.home = 0 → x.sdev ≠ n)
              ∧ (∀ x ∈ u.flows, x.key.dest ≠ .dev n) ∧ (∀ p ∈ u.net, p.dest ≠ .dev n) ∧ (∀ k x, x ∈ (switchAt u k).flows → x.sdev ≠ n)
              ∧ u.ports = s.ports ∧ u.threads = s.threads ∧ u.wgs = s.wgs ∧ u.mem = s.mem)
          ∧ (s.joined = false → s.reqs = [] →
            ∃ u, exec (.linkTrained plane n) s = .next u ∧ u.ports = put s.ports plane 8 ∧ u.joined = true ∧ u.pkg = n ∧ u.flows = []
              ∧ u.dstFlows = [] ∧ u.reqs = [] ∧ u.net = [] ∧ u.netReplies = [] ∧ (∀ k x, x ∈ (switchAt u k).flows → x.sdev ≠ n)
              ∧ u.threads = s.threads ∧ u.wgs = s.wgs ∧ u.mem = s.mem)

/-! ## The whole machine -/

/-- Words of the spec's examples decode to the instructions that they stand for (R64 to R79): one of each family, the all-zero word, and a pair word whose
bit 31 is set. -/
def Obligations.SpecWordsDecode : Prop :=
  (∀ p ∈ ([(0x1984850586000001, .ffma 9 10 11 12 .rz), (0x100202FFFFFFFE80, .iaddImm 4 5 0xFFFFFFFD), (0x6082030400000000, .iaddW 4 6 8),
      (0x2303038000004301, .cvt 6 7 .bf16 .fp32 .rz), (0x2502000000000004, .sysr 4 .tidx), (0x308004FFFFFFFFE9, .br 9 0xFFFFFFFFD true),
      (0x380F000000000029, .rbegin 30 5 true), (0x3880048600000004, .commit 9 12 true), (0x4002028000000004, .gred 4 5 0 .fadd .rne),
      (0x43848A0000030000, .arrive 9 20 0 (.rel .core)), (0x4807060000004580, .ld 14 12 0 .x64 .norm false (.acq .pkg)),
      (0x4B82060480043901, .atom 4 12 9 8 .x32 .norm .fadd (.rel .die)), (0x50040A0000100000, .mxgo 8 20 1),
      (0x51840B0000200000, .cpgo 8 22 2), (0x5484060707BC0000, .freeze 8 12 14 15 3 .sys), (0x55848000000D8000, .fence 9 (.acqrel .sys)),
      (0x5604880000000032, .fork 9 16 6 .die), (0x57040A0005400000, .launch 8 20 10 4), (0x5804080000300000, .xfer 8 16 3),
      (0x5885060687000000, .swalloc 10 12 13 14), (0x82101800441A1401, .iaddPair 8 12 ⟨.fmul .rz, 13, 10⟩),
      (0x9C121C022A140004, .icmpPair .lt 9 14 ⟨.shlImm 4, 10, 0⟩)] : List (Nat × Instr)), decodeTableWord 64 p.1 = some p.2)
    ∧ decodeTableWord 64 0 = none ∧ decodeTableWord 64 0x82101800C41A1401 = none

/-- Decoding undoes encoding (R63 to R79): every well-formed instruction that has a word is what its word decodes to, as a number, as a word and as the first
of bytes in memory order; so no two instructions share a word. -/
def Obligations.WordsDecodeToTheirInstruction : Prop :=
  ∀ (i : Instr) (w : DWord), i.wf = true → encode i = some w →
    decode w = .ok i ∧ decodeTableWord 64 w.toNat = some i ∧ (∀ rest, decodeBytes (bytesOfWord w ++ rest) = .ok (i, rest))
      ∧ ∀ j, j.wf = true → encode j = some w → j = i

/-- Words that are no instruction (R66, R72, R75, R78, R79). A word that decodes is exactly the encoding of its instruction, so a set bit of a reserved
field or code, or a modifier that the entry forbids, is refused; so is every opcode and pair opcode that the maps leave unassigned, and a
pair word with bit 31 set. -/
def Obligations.OtherWordsAreRefused : Prop :=
  ∀ (w : DWord),
    (∀ i, decode w = .ok i → encode i = some w ∧ i.wf = true)
      ∧ (w.getLsbD 63 = false → decode w ≠ .error .unassigned →
          let op := (w.extractLsb' 55 8).toNat
          op ≠ 0 ∧ op / 16 ≠ 15 ∧ op % 16 < [16, 11, 13, 16, 13, 7, 11, 8, 14, 13, 15, 3, 16, 11, 13].getD (op / 16) 0 ∧ op ≠ 0xC0)
      ∧ (w.getLsbD 63 = true → decode w ≠ .error .unassigned →
          ∀ pop ∈ [(w.extractLsb' 57 6).toNat, (w.extractLsb' 25 6).toNat], (1 ≤ pop ∧ pop ≤ 0x1C) ∨ (0x20 ≤ pop ∧ pop ≤ 0x31))
      ∧ (w.getLsbD 63 = true → w.getLsbD 31 = true → ∀ i, decode w ≠ .ok i)

/-- What reset leaves (R8, R329, R330, R364 to R366, R376, R377; logs 1, 5 and 9 for what the spec does not give). Read by a manager, every queue window holds 0 but
QQUANTUM, every partition block 0 but PALLOW and PSAVESZ, and the manager block 0 but CCPART, which makes every control core a manager;
CXLSZ, whose reset is U, is left out. No thread, group, launch or access exists, no measurement is taken, and the tables are in order. -/
def Obligations.ResetLeavesItsValues : Prop :=
  tidy State.reset
    ∧ (∀ who, who < 32 →
      (∀ q o, q < 16384 → o < 128 → o % 8 = 0 → hubRead State.reset who (128 * q + o) true = if o = 0x60 then 0x100000 else 0)
        ∧ (∀ p o, p < 16 → o < 0x1000 → o % 8 = 0 →
            hubRead State.reset who (0x200000 + 0x1000 * p + o) true = if o = 0x20 then 64 else if o = 0x30 then 0x40000000 else 0)
        ∧ ∀ o, o < 0x4000 → o % 8 = 0 → ¬(0x2040 ≤ o ∧ o < 0x2060) →
            hubRead State.reset who (0x1000000 + o) true = if o < 0x100 then 16 else 0)
    ∧ (∀ (k : Nat) (m : List Byte), State.reset.measure[k]? = some m → m = List.replicate 64 0)
    ∧ State.reset.threads = [] ∧ State.reset.wgs = [] ∧ State.reset.groups = [] ∧ State.reset.launches = [] ∧ State.reset.ops = []
    ∧ State.reset.focus = none ∧ State.reset.power = .on

/-- Every step keeps the tables in order (log 1 for the canonical form of memory): whatever state it starts from, the step of a state in order is a
state in order. -/
def Obligations.StepsKeepTablesInOrder : Prop :=
  ∀ (s t : State), tidy s → step s = .next t → tidy t

/-- Memory reads back (R6, R150, R195, R366). Bytes written at a place without poison are what the next read of it gives, in a scratchpad and in memory under
any key, and every other byte of the scratchpad, or of memory that bears no key, reads as before. A thread's write to a poisoned sector
changes nothing; an engine's write of the whole sector cleans it. A barrier object written reads back field by field. -/
def Obligations.MemoryReadsBack : Prop :=
  ∀ (s : State) (bs : List Byte) (engine : Bool),
    (∀ k a w, wgAt s k = some w → memWf w.spad = true →
        (w.spadPoison = [] →
          ∃ w', writeLoc s engine (.spad k a) bs = { s with wgs := put s.wgs k w' } ∧ memWf w'.spad = true ∧ w'.spadPoison = []
            ∧ (readLoc (writeLoc s engine (.spad k a) bs) (.spad k a) bs.length).1 = bs
            ∧ ∀ x, (x < a ∨ a + bs.length ≤ x) → memGet w'.spad x = memGet w.spad x)
          ∧ (∀ c, look w.spadPoison (a / 64) = some c → a % 64 + bs.length ≤ 64 → bs ≠ [] →
            (engine = false → writeLoc s engine (.spad k a) bs = s)
              ∧ (engine = true → bs.length = 64 → ∃ w', wgAt (writeLoc s engine (.spad k a) bs) k = some w'
                  ∧ w'.spadPoison = del w.spadPoison (a / 64) ∧ memGetN w'.spad a 64 = bs)))
      ∧ (∀ pa mode key part, memWf s.mem = true → s.poison = [] →
        let t := writeLoc s engine (.phys pa mode key part) bs
        memWf t.mem = true ∧ t.poison = [] ∧ memGetN t.mem pa bs.length = bs ∧ (readLoc t (.phys pa mode key part) bs.length).1 = bs
          ∧ ((∀ x, pa / 64 ≤ x / 64 → x / 64 ≤ (pa + bs.length) / 64 → isKeyed (homeOf s x) = false) → ∀ x, (x < pa ∨ pa + bs.length ≤ x) → memGet t.mem x = memGet s.mem x))
      ∧ ∀ k a w o, wgAt s k = some w → w.spadPoison = [] → memWf w.spad = true → o.tcount < 2 ^ 16 → o.acount < 2 ^ 16 → o.tbytes < 2 ^ 32 →
        o.abytes < 2 ^ 32 →
        ∃ v, wgAt (setObj s k a o) k = some v ∧ objAt v a = o ∧ objectRefused v a = none
          ∧ ∀ x, (x < a ∨ a + 16 ≤ x) → memGet v.spad x = memGet w.spad x
end

