-- ==== Sys2Proof/Laws/Maps.lean ====
section
/-! SUPPORT. Laws of tables and of memory: what is read after a write, and that every operation keeps the order of keys and the canonical
form of memory. -/

namespace Sys2Proof.Machine

variable {α : Type}

/-! ## Reading after an update -/

@[simp] theorem look_nil (i : Nat) : look ([] : NMap α) i = none := rfl

@[simp] theorem look_put_same (m : NMap α) (i : Nat) (x : α) : look (put m i x) i = some x := by
  induction m with
  | nil => simp [put, look]
  | cons p m ih =>
    obtain ⟨k, v⟩ := p
    simp only [put]
    split
    · simp [look]
    · split
      · simp [look]
      · rename_i h1 h2
        simp [look, h1, h2, ih]

theorem look_put_other (m : NMap α) {i j : Nat} (x : α) (h : j ≠ i) : look (put m i x) j = look m j := by
  induction m with
  | nil => simp [put, look, h]
  | cons p m ih =>
    obtain ⟨k, v⟩ := p
    simp only [put]
    split
    · rename_i e
      subst e
      simp [look, h]
    · split
      · rename_i h1 h2
        by_cases hj : j < i
        · have : ¬ j = k := by omega
          have : j < k := by omega
          simp [look, *]
        · simp [look, h, hj]
      · simp [look, ih]

theorem look_put (m : NMap α) (i j : Nat) (x : α) : look (put m i x) j = if j = i then some x else look m j := by
  split
  · subst_vars; simp
  · exact look_put_other m x ‹_›

/-- Writing the entry that a key has changes nothing. -/
theorem put_look (m : NMap α) (i : Nat) (x : α) (h : look m i = some x) : put m i x = m := by
  induction m with
  | nil => simp [look] at h
  | cons p m ih =>
    obtain ⟨k, v⟩ := p
    simp only [look] at h
    simp only [put]
    split
    · simp_all
    · split
      · simp_all
      · simp_all

@[simp] theorem look_alter_same (m : NMap α) (i : Nat) (f : α → α) : look (alter m i f) i = (look m i).map f := by
  unfold alter
  cases h : look m i <;> simp [h]

theorem look_alter_other (m : NMap α) {i j : Nat} (f : α → α) (h : j ≠ i) : look (alter m i f) j = look m j := by
  unfold alter
  cases look m i
  · rfl
  · simp only; exact look_put_other m _ h

theorem look_alter (m : NMap α) (i j : Nat) (f : α → α) :
    look (alter m i f) j = if j = i then (look m i).map f else look m j := by
  split
  · subst_vars; simp
  · exact look_alter_other m f ‹_›

theorem look_map (m : NMap α) (f : Nat → α → α) (i : Nat) :
    look (m.map fun p => (p.1, f p.1 p.2)) i = (look m i).map (f i) := by
  induction m with
  | nil => rfl
  | cons p m ih =>
    obtain ⟨k, v⟩ := p
    simp only [List.map_cons, look]
    split
    · subst_vars; simp
    · split
      · rfl
      · exact ih

/-! ## Order of keys -/

theorem rising_tail {p : Nat × α} {m : NMap α} (h : rising (p :: m) = true) : rising m = true := by
  cases m with
  | nil => rfl
  | cons q m => obtain ⟨k, v⟩ := p; obtain ⟨j, y⟩ := q; simp [rising] at h; exact h.2

/-- The keys after the first are above it. -/
theorem rising_above {k : Nat} {v : α} {m : NMap α} (h : rising ((k, v) :: m) = true) : ∀ q ∈ m, k < q.1 := by
  induction m generalizing k v with
  | nil => simp
  | cons q m ih =>
    obtain ⟨j, y⟩ := q
    simp [rising] at h
    intro r hr
    rcases List.mem_cons.mp hr with rfl | hr
    · exact h.1
    · exact Nat.lt_trans h.1 (ih h.2 r hr)

theorem rising_cons {k : Nat} {v : α} {m : NMap α} (h : rising m = true) (a : ∀ q ∈ m, k < q.1) : rising ((k, v) :: m) = true := by
  cases m with
  | nil => rfl
  | cons q m => obtain ⟨j, y⟩ := q; simp [rising, h]; exact a (j, y) (by simp)

theorem look_above {k : Nat} {m : NMap α} (a : ∀ q ∈ m, k < q.1) : look m k = none := by
  cases m with
  | nil => rfl
  | cons q m =>
    obtain ⟨j, y⟩ := q
    have : k < j := a (j, y) (by simp)
    have : ¬ k = j := by omega
    simp [look, *]

theorem mem_put {m : NMap α} {i : Nat} {x : α} {q : Nat × α} (h : q ∈ put m i x) : q = (i, x) ∨ q ∈ m := by
  induction m with
  | nil => simp [put] at h; exact .inl h
  | cons p m ih =>
    obtain ⟨k, v⟩ := p
    simp only [put] at h
    split at h
    · rcases List.mem_cons.mp h with h | h
      · exact .inl h
      · exact .inr (List.mem_cons_of_mem _ h)
    · split at h
      · rcases List.mem_cons.mp h with h | h
        · exact .inl h
        · exact .inr h
      · rcases List.mem_cons.mp h with h | h
        · exact .inr (h ▸ List.mem_cons_self)
        · rcases ih h with h | h
          · exact .inl h
          · exact .inr (List.mem_cons_of_mem _ h)

theorem mem_del {m : NMap α} {i : Nat} {q : Nat × α} (h : q ∈ del m i) : q ∈ m := by
  induction m with
  | nil => simp [del] at h
  | cons p m ih =>
    obtain ⟨k, v⟩ := p
    simp only [del] at h
    split at h
    · exact List.mem_cons_of_mem _ h
    · split at h
      · exact h
      · rcases List.mem_cons.mp h with h | h
        · exact h ▸ List.mem_cons_self
        · exact List.mem_cons_of_mem _ (ih h)

theorem rising_put {m : NMap α} (i : Nat) (x : α) (h : rising m = true) : rising (put m i x) = true := by
  induction m with
  | nil => rfl
  | cons p m ih =>
    obtain ⟨k, v⟩ := p
    have ab := rising_above h
    have tl := rising_tail h
    simp only [put]
    split
    · rename_i e; subst e; exact rising_cons tl ab
    · split
      · rename_i _ lt
        refine rising_cons h ?_
        intro q hq
        rcases List.mem_cons.mp hq with rfl | hq
        · exact lt
        · exact Nat.lt_trans lt (ab q hq)
      · refine rising_cons (ih tl) ?_
        intro q hq
        rcases mem_put hq with rfl | hq
        · simp only; omega
        · exact ab q hq

theorem rising_del {m : NMap α} (i : Nat) (h : rising m = true) : rising (del m i) = true := by
  induction m with
  | nil => rfl
  | cons p m ih =>
    obtain ⟨k, v⟩ := p
    have ab := rising_above h
    have tl := rising_tail h
    simp only [del]
    split
    · exact tl
    · split
      · exact h
      · exact rising_cons (ih tl) fun q hq => ab q (mem_del hq)

theorem look_del_same {m : NMap α} (i : Nat) (h : rising m = true) : look (del m i) i = none := by
  induction m with
  | nil => rfl
  | cons p m ih =>
    obtain ⟨k, v⟩ := p
    simp only [del]
    split
    · rename_i e; subst e; exact look_above (rising_above h)
    · split
      · rename_i h1 h2; simp [look, h1, h2]
      · rename_i h1 h2; simp [look, h1, h2, ih (rising_tail h)]

theorem look_del_other {m : NMap α} {i j : Nat} (h : rising m = true) (n : j ≠ i) : look (del m i) j = look m j := by
  induction m with
  | nil => rfl
  | cons p m ih =>
    obtain ⟨k, v⟩ := p
    simp only [del]
    split
    · rename_i e
      subst e
      by_cases lt : j < i
      · have : ∀ q ∈ m, j < q.1 := fun q hq => Nat.lt_trans lt (rising_above h q hq)
        simp [look, n, lt, look_above this]
      · simp [look, n, lt]
    · split
      · rfl
      · simp [look, ih (rising_tail h)]

/-! ## Memory -/

theorem memWf_rising {m : Memory} (h : memWf m = true) : rising m = true := by
  simp [memWf] at h; exact h.1

theorem memWf_listed {m : Memory} (h : memWf m = true) : ∀ c ∈ m, c.2 ≠ unlistedByte := by
  simp [memWf] at h
  intro c hc
  exact h.2 c.1 c.2 hc

theorem memWf_of {m : Memory} (r : rising m = true) (n : ∀ c ∈ m, c.2 ≠ unlistedByte) : memWf m = true := by
  simp only [memWf, r, Bool.true_and, List.all_eq_true, decide_eq_true_eq]
  exact n

theorem memWf_nil : memWf [] = true := rfl

/-- Writing a byte keeps memory canonical. -/
theorem memWf_memSet {m : Memory} (a : Nat) (b : Byte) (h : memWf m = true) : memWf (memSet m a b) = true := by
  unfold memSet
  split
  · exact memWf_of (rising_del a (memWf_rising h)) fun c hc => memWf_listed h c (mem_del hc)
  · refine memWf_of (rising_put a b (memWf_rising h)) fun c hc => ?_
    rcases mem_put hc with rfl | hc
    · assumption
    · exact memWf_listed h c hc

/-- Writing bytes keeps memory canonical. -/
theorem memWf_memSetN (bs : List Byte) (m : Memory) (a : Nat) (h : memWf m = true) : memWf (memSetN m a bs) = true := by
  induction bs generalizing m a with
  | nil => exact h
  | cons b bs ih => exact ih _ _ (memWf_memSet a b h)

/-- A byte written is read back. -/
theorem memGet_memSet_same {m : Memory} (a : Nat) (b : Byte) (h : memWf m = true) : memGet (memSet m a b) a = b := by
  unfold memGet memSet lookD
  split
  · subst_vars; simp [look_del_same a (memWf_rising h)]
  · simp

/-- Every other byte stays. -/
theorem memGet_memSet_other {m : Memory} {a x : Nat} (b : Byte) (h : memWf m = true) (n : x ≠ a) :
    memGet (memSet m a b) x = memGet m x := by
  unfold memGet memSet lookD
  split
  · rw [look_del_other (memWf_rising h) n]
  · rw [look_put_other m b n]

/-- Bytes outside a write stay. -/
theorem memGet_memSetN_outside (bs : List Byte) {m : Memory} {a x : Nat} (h : memWf m = true) (n : x < a ∨ a + bs.length ≤ x) :
    memGet (memSetN m a bs) x = memGet m x := by
  induction bs generalizing m a with
  | nil => rfl
  | cons b bs ih =>
    have hx : x ≠ a := by simp at n; omega
    have := ih (a := a + 1) (memWf_memSet a b h) (by simp at n; omega)
    simp only [memSetN, this]
    exact memGet_memSet_other b h hx

/-- Bytes written are read back. -/
theorem memGetN_memSetN (bs : List Byte) {m : Memory} (a : Nat) (h : memWf m = true) :
    memGetN (memSetN m a bs) a bs.length = bs := by
  induction bs generalizing m a with
  | nil => rfl
  | cons b bs ih =>
    simp only [memSetN, List.length_cons, memGetN]
    rw [ih (a + 1) (memWf_memSet a b h)]
    rw [memGet_memSetN_outside bs (memWf_memSet a b h) (Or.inl (Nat.lt_succ_self a)), memGet_memSet_same a b h]

/-- Equal contents in canonical form are equal data. -/
theorem mem_ext {m n : Memory} (hm : memWf m = true) (hn : memWf n = true) (h : ∀ a, memGet m a = memGet n a) : m = n := by
  have key : ∀ {m n : Memory}, memWf m = true → memWf n = true → (∀ a, look m a = look n a) → m = n := by
    intro m
    induction m with
    | nil =>
      intro n _ _ e
      cases n with
      | nil => rfl
      | cons q n => obtain ⟨j, y⟩ := q; have := e j; simp [look] at this
    | cons p m ih =>
      intro n hm hn e
      obtain ⟨k, v⟩ := p
      cases n with
      | nil => have := e k; simp [look] at this
      | cons q n =>
        obtain ⟨j, y⟩ := q
        have rm := memWf_rising hm
        have rn := memWf_rising hn
        have hkj : k = j := by
          rcases Nat.lt_trichotomy k j with lt | eq | lt
          · have := e k; simp [look, lt, Nat.ne_of_lt lt] at this
          · exact eq
          · have := e j; simp [look, lt, Nat.ne_of_lt lt] at this
        subst hkj
        have hv : v = y := by have := e k; simpa [look] using this
        subst hv
        have wt : ∀ {l : Memory}, memWf ((k, v) :: l) = true → memWf l = true := fun {l} w =>
          memWf_of (rising_tail (memWf_rising w)) fun c hc => memWf_listed w c (List.mem_cons_of_mem _ hc)
        congr 1
        refine ih (wt hm) (wt hn) fun a => ?_
        by_cases ha : a = k
        · subst ha; rw [look_above (rising_above rm), look_above (rising_above rn)]
        · have := e a
          simp only [look, ha, if_false] at this
          by_cases lt : a < k
          · rw [look_above fun q hq => Nat.lt_trans lt (rising_above rm q hq),
              look_above fun q hq => Nat.lt_trans lt (rising_above rn q hq)]
          · simpa [lt] using this
  refine key hm hn fun a => ?_
  have ha := h a
  have listed : ∀ {m : Memory}, memWf m = true → ∀ {b}, look m a = some b → b ≠ unlistedByte := by
    intro m
    induction m with
    | nil => intro _ b hb; simp [look] at hb
    | cons p m ih =>
      intro hm b hb
      obtain ⟨k, v⟩ := p
      simp only [look] at hb
      split at hb
      · simp at hb; subst hb; exact memWf_listed hm (k, v) (by simp)
      · split at hb
        · simp at hb
        · exact ih (memWf_of (rising_tail (memWf_rising hm)) fun c hc => memWf_listed hm c (List.mem_cons_of_mem _ hc)) hb
  unfold memGet lookD at ha
  cases hx : look m a with
  | none =>
    cases hy : look n a with
    | none => rfl
    | some y => rw [hx, hy] at ha; exact absurd ha.symm (listed hn hy)
  | some x =>
    cases hy : look n a with
    | none => rw [hx, hy] at ha; exact absurd ha (listed hm hx)
    | some y => rw [hx, hy] at ha; simp at ha; rw [ha]

end Sys2Proof.Machine
end

