-- ==== Sys2Proof/Laws/Refocus.lean ====
section
/-! SUPPORT. Which member of a group a word waits for depends neither on the group in focus nor on the number of the issue. -/

namespace Sys2Proof.Machine

/-- The state with another focus and another issue number. -/
def refocus (f : Option Nat) (n : Nat) (s : State) : State := { s with focus := f, nextIssue := n }

section Refocus
variable (i : Instr) (s : State) (f : Option Nat) (n : Nat)

theorem drawBytes_refocus (k : Nat) : drawBytes (refocus f n s) k = ((drawBytes s k).1, refocus f n (drawBytes s k).2) := by
  induction k generalizing s with
  | zero => rfl
  | succ k ih => exact congrArg (fun r : List Byte × State => ((drawByte s).1 :: r.1, r.2)) (ih (drawByte s).2)

theorem readSectors_refocus (key j a k : Nat) :
    readSectors (refocus f n s) key j a k = ((readSectors s key j a k).1, refocus f n (readSectors s key j a k).2) := by
  induction j generalizing s a k with
  | zero => rfl
  | succ j ih =>
    have h : wrongKey (refocus f n s) a key = wrongKey s a key := rfl
    have hm : (refocus f n s).mem = s.mem := rfl
    simp only [readSectors, h, hm, drawBytes_refocus]
    split
    · rfl
    · cases wrongKey s a key <;> simp only [Bool.false_eq_true, if_false, if_true, ih]

theorem readLoc_refocus (l : Loc) (k : Nat) : readLoc (refocus f n s) l k = ((readLoc s l k).1, refocus f n (readLoc s l k).2) := by
  cases l with
  | spad wg a =>
    have h : wgAt (refocus f n s) wg = wgAt s wg := rfl
    simp only [readLoc, h]
    cases wgAt s wg <;> rfl
  | phys pa m key part =>
    have h (a : Nat) : wrongKey (refocus f n s) a key = wrongKey s a key := rfl
    simp only [readLoc, h, readSectors_refocus]
    split <;> rfl

theorem walkStep_refocus (p : Partition) (part table va level : Nat) :
    walkStep (refocus f n s) p part table va level =
      ((walkStep s p part table va level).1, refocus f n (walkStep s p part table va level).2) := by
  have h (s : State) : (refocus f n s).poison = s.poison := rfl
  have hl (s : State) (e : DWord) : leafFault (refocus f n s) p level e = leafFault s p level e := rfl
  have hp (s : State) (e : DWord) : pointerFault (refocus f n s) p level e = pointerFault s p level e := rfl
  simp only [walkStep, h, hl, hp, readLoc_refocus]
  split
  · rfl
  · split
    · rfl
    · split <;> rfl

theorem walkFrom_refocus (p : Partition) (part table va k : Nat) :
    walkFrom (refocus f n s) p part table va k =
      ((walkFrom s p part table va k).1, refocus f n (walkFrom s p part table va k).2) := by
  induction k generalizing s table with
  | zero => rfl
  | succ k ih =>
    rw [walkFrom, walkFrom, walkStep_refocus]
    rcases walkStep s p part table va k with ⟨_ | ⟨_ | _, e⟩, t⟩
    · rfl
    · exact ih t _
    · rfl

theorem walk_refocus (part root va : Nat) : walk (refocus f n s) part root va = ((walk s part root va).1, refocus f n (walk s part root va).2) := by
  have hh (a : Nat) : homeOf (refocus f n s) a = homeOf s a := rfl
  have hp : partAt (refocus f n s) part = partAt s part := rfl
  simp only [walk, hh, hp, walkFrom_refocus]
  split
  · rfl
  · split <;> rfl

theorem tlbLookup_refocus (core part va : Nat) (acc : AccKind) :
    (tlbLookup (refocus f n s) core part va acc).1 = (tlbLookup s core part va acc).1 := by
  have hp : partAt (refocus f n s) part = partAt s part := rfl
  have hc : coreAt (refocus f n s) core = coreAt s core := rfl
  have ht : (refocus f n s).clusterTlb = s.clusterTlb := rfl
  have he (s : State) (x : Nat) (e : DWord) (l : Nat) : tlbEntry (refocus f n s) part x va e l = tlbEntry s part x va e l := rfl
  simp only [tlbLookup, walkInstall, hp, hc, ht, walk_refocus, he]
  cases (coreAt s core).tlb.find? (tlbHit part (partAt s part).asid va) with
  | some e => rfl
  | none =>
    cases (lookD s.clusterTlb (cluOf core) []).find? (tlbHit part (partAt s part).asid va) with
    | some e => rfl
    | none =>
      rcases walk s part (partAt s part).proot va with ⟨_ | ⟨e, l⟩, t⟩
      · rfl
      · cases h : permits e acc <;> simp only [h] <;> rfl

theorem translate_refocus (core part va : Nat) (acc : AccKind) (coh : Nat) :
    (translate (refocus f n s) core part va acc coh).1 = (translate s core part va acc coh).1 := by
  simp only [translate, tlbLookup_refocus]
  split
  · rfl
  · split <;> rfl

theorem swfreeSends_refocus (w : Workgroup) (va : DWord) : swfreeSends (refocus f n s) w va = swfreeSends s w va := by
  unfold swfreeSends
  rw [translate_refocus]
  rfl

theorem flatChecks_refocus (core part : Nat) (va : DWord) (k : Nat) (acc : AccKind) (coh : Nat) :
    (flatChecks (refocus f n s) core part va k acc coh).1 = (flatChecks s core part va k acc coh).1 := by
  simp only [flatChecks]
  split
  · rfl
  · split
    · rfl
    · rw [translate_refocus]
      split <;> simp_all

theorem formFlat_refocus (th : Thread) (w : Workgroup) (a : Nat) (off : BitVec 16) (k : Nat) (acc : AccKind) (cp : CPol) :
    (formFlat (refocus f n s) th w a off k acc cp).1 = (formFlat s th w a off k acc cp).1 := by
  simp only [formFlat]
  split
  · rfl
  · rw [flatChecks_refocus]
    split <;> simp_all

theorem formRec_refocus (th : Thread) (w : Workgroup) (a b : Nat) (two : Bool) (off : BitVec 16) (kind : RecAcc) (fits : Fmt → Bool)
    (acc : AccKind) (cp : CPol) :
    (formRec (refocus f n s) th w a b two off kind fits acc cp).1 = (formRec s th w a b two off kind fits acc cp).1 := by
  simp only [formRec]
  split
  · rfl
  · rfl
  · rw [flatChecks_refocus]
    split <;> simp_all

theorem atomCommits_refocus (t : Nat) (th : Thread) (w : Workgroup) : atomCommits i (refocus f n s) t th w = atomCommits i s t th w := by
  have h : atomPlace i (refocus f n s) t th w = atomPlace i s t th w := by
    cases i <;> simp only [atomPlace, formFlat_refocus, formRec_refocus]
  simp only [atomCommits, h]

theorem mayCommit_refocus (t : Nat) (th : Thread) (w : Workgroup) : mayCommit i (refocus f n s) t th w = mayCommit i s t th w := by
  unfold mayCommit
  rw [atomCommits_refocus]

theorem counterFull_refocus (t : Nat) (th : Thread) (w : Workgroup) : counterFull i (refocus f n s) t th w = counterFull i s t th w := by
  unfold counterFull atomFull
  rw [atomCommits_refocus]

theorem entryStall_refocus (t : Nat) (th : Thread) (w : Workgroup) : entryStall i (refocus f n s) t th w = entryStall i s t th w := by
  cases i <;> first | rfl | simp only [entryStall, swfreeSends_refocus]; rfl

theorem stallOf_refocus (t : Nat) : stallOf i (refocus f n s) t = stallOf i s t := by
  have hb (th : Thread) : blocked (refocus f n s) t th = blocked s t th := rfl
  have hk (th : Thread) : forking (refocus f n s) t th = forking s t th := rfl
  have hx (th : Thread) : txWaits (refocus f n s) t th = txWaits s t th := rfl
  have ht : thOf (refocus f n s) t = thOf s t := rfl
  have hw : wgAt (refocus f n s) (wgOf t) = wgAt s (wgOf t) := rfl
  unfold stallOf
  rw [ht, hw]
  cases thOf s t with
  | none => rfl
  | some th =>
    cases wgAt s (wgOf t) with
    | none => rfl
    | some w =>
      simp only [entryStall_refocus, mayCommit_refocus, counterFull_refocus, hb, hk, hx]

end Refocus

end Sys2Proof.Machine
end

