-- ==== Sys2Proof/Laws/State.lean ====
section
/-! SUPPORT. The parts of the state after each named update: one equation for each field and update. -/

namespace Sys2Proof.Machine

/-! `setTh` changes `threads` only. -/

@[simp] theorem setTh_now (s : State) (t : Nat) (x : Thread) : (setTh s t x).now = s.now := rfl
@[simp] theorem setTh_clkOff (s : State) (t : Nat) (x : Thread) : (setTh s t x).clkOff = s.clkOff := rfl
@[simp] theorem setTh_agenda (s : State) (t : Nat) (x : Thread) : (setTh s t x).agenda = s.agenda := rfl
@[simp] theorem setTh_focus (s : State) (t : Nat) (x : Thread) : (setTh s t x).focus = s.focus := rfl
@[simp] theorem setTh_turn (s : State) (t : Nat) (x : Thread) : (setTh s t x).turn = s.turn := rfl
@[simp] theorem setTh_freeCtr (s : State) (t : Nat) (x : Thread) : (setTh s t x).freeCtr = s.freeCtr := rfl
@[simp] theorem setTh_issueFaults (s : State) (t : Nat) (x : Thread) : (setTh s t x).issueFaults = s.issueFaults := rfl
@[simp] theorem setTh_nextIssue (s : State) (t : Nat) (x : Thread) : (setTh s t x).nextIssue = s.nextIssue := rfl
@[simp] theorem setTh_nextWg (s : State) (t : Nat) (x : Thread) : (setTh s t x).nextWg = s.nextWg := rfl
@[simp] theorem setTh_nextLaunch (s : State) (t : Nat) (x : Thread) : (setTh s t x).nextLaunch = s.nextLaunch := rfl
@[simp] theorem setTh_nextSerial (s : State) (t : Nat) (x : Thread) : (setTh s t x).nextSerial = s.nextSerial := rfl
@[simp] theorem setTh_nextId (s : State) (t : Nat) (x : Thread) : (setTh s t x).nextId = s.nextId := rfl
@[simp] theorem setTh_perfCtr (s : State) (t : Nat) (x : Thread) : (setTh s t x).perfCtr = s.perfCtr := rfl
@[simp] theorem setTh_useCtr (s : State) (t : Nat) (x : Thread) : (setTh s t x).useCtr = s.useCtr := rfl
@[simp] theorem setTh_threads (s : State) (t : Nat) (x : Thread) : (setTh s t x).threads = put s.threads t x := rfl
@[simp] theorem setTh_wgs (s : State) (t : Nat) (x : Thread) : (setTh s t x).wgs = s.wgs := rfl
@[simp] theorem setTh_groups (s : State) (t : Nat) (x : Thread) : (setTh s t x).groups = s.groups := rfl
@[simp] theorem setTh_cores (s : State) (t : Nat) (x : Thread) : (setTh s t x).cores = s.cores := rfl
@[simp] theorem setTh_mem (s : State) (t : Nat) (x : Thread) : (setTh s t x).mem = s.mem := rfl
@[simp] theorem setTh_poison (s : State) (t : Nat) (x : Thread) : (setTh s t x).poison = s.poison := rfl
@[simp] theorem setTh_sliceClean (s : State) (t : Nat) (x : Thread) : (setTh s t x).sliceClean = s.sliceClean := rfl
@[simp] theorem setTh_sliceDirty (s : State) (t : Nat) (x : Thread) : (setTh s t x).sliceDirty = s.sliceDirty := rfl
@[simp] theorem setTh_slicePinned (s : State) (t : Nat) (x : Thread) : (setTh s t x).slicePinned = s.slicePinned := rfl
@[simp] theorem setTh_memKey (s : State) (t : Nat) (x : Thread) : (setTh s t x).memKey = s.memKey := rfl
@[simp] theorem setTh_ops (s : State) (t : Nat) (x : Thread) : (setTh s t x).ops = s.ops := rfl
@[simp] theorem setTh_acks (s : State) (t : Nat) (x : Thread) : (setTh s t x).acks = s.acks := rfl
@[simp] theorem setTh_late (s : State) (t : Nat) (x : Thread) : (setTh s t x).late = s.late := rfl
@[simp] theorem setTh_fills (s : State) (t : Nat) (x : Thread) : (setTh s t x).fills = s.fills := rfl
@[simp] theorem setTh_ccStores (s : State) (t : Nat) (x : Thread) : (setTh s t x).ccStores = s.ccStores := rfl
@[simp] theorem setTh_clusters (s : State) (t : Nat) (x : Thread) : (setTh s t x).clusters = s.clusters := rfl
@[simp] theorem setTh_clusterTlb (s : State) (t : Nat) (x : Thread) : (setTh s t x).clusterTlb = s.clusterTlb := rfl
@[simp] theorem setTh_dirs (s : State) (t : Nat) (x : Thread) : (setTh s t x).dirs = s.dirs := rfl
@[simp] theorem setTh_pkgDir (s : State) (t : Nat) (x : Thread) : (setTh s t x).pkgDir = s.pkgDir := rfl
@[simp] theorem setTh_msgs (s : State) (t : Nat) (x : Thread) : (setTh s t x).msgs = s.msgs := rfl
@[simp] theorem setTh_freezes (s : State) (t : Nat) (x : Thread) : (setTh s t x).freezes = s.freezes := rfl
@[simp] theorem setTh_freezeOps (s : State) (t : Nat) (x : Thread) : (setTh s t x).freezeOps = s.freezeOps := rfl
@[simp] theorem setTh_queues (s : State) (t : Nat) (x : Thread) : (setTh s t x).queues = s.queues := rfl
@[simp] theorem setTh_roundPtr (s : State) (t : Nat) (x : Thread) : (setTh s t x).roundPtr = s.roundPtr := rfl
@[simp] theorem setTh_parts (s : State) (t : Nat) (x : Thread) : (setTh s t x).parts = s.parts := rfl
@[simp] theorem setTh_ccpart (s : State) (t : Nat) (x : Thread) : (setTh s t x).ccpart = s.ccpart := rfl
@[simp] theorem setTh_keystat (s : State) (t : Nat) (x : Thread) : (setTh s t x).keystat = s.keystat := rfl
@[simp] theorem setTh_keyGen (s : State) (t : Nat) (x : Thread) : (setTh s t x).keyGen = s.keyGen := rfl
@[simp] theorem setTh_pinmap (s : State) (t : Nat) (x : Thread) : (setTh s t x).pinmap = s.pinmap := rfl
@[simp] theorem setTh_coreoff (s : State) (t : Nat) (x : Thread) : (setTh s t x).coreoff = s.coreoff := rfl
@[simp] theorem setTh_cxlsz (s : State) (t : Nat) (x : Thread) : (setTh s t x).cxlsz = s.cxlsz := rfl
@[simp] theorem setTh_launches (s : State) (t : Nat) (x : Thread) : (setTh s t x).launches = s.launches := rfl
@[simp] theorem setTh_pendingStore (s : State) (t : Nat) (x : Thread) : (setTh s t x).pendingStore = s.pendingStore := rfl
@[simp] theorem setTh_gone (s : State) (t : Nat) (x : Thread) : (setTh s t x).gone = s.gone := rfl
@[simp] theorem setTh_activity (s : State) (t : Nat) (x : Thread) : (setTh s t x).activity = s.activity := rfl
@[simp] theorem setTh_intWrites (s : State) (t : Nat) (x : Thread) : (setTh s t x).intWrites = s.intWrites := rfl
@[simp] theorem setTh_thermal (s : State) (t : Nat) (x : Thread) : (setTh s t x).thermal = s.thermal := rfl
@[simp] theorem setTh_measure (s : State) (t : Nat) (x : Thread) : (setTh s t x).measure = s.measure := rfl
@[simp] theorem setTh_power (s : State) (t : Nat) (x : Thread) : (setTh s t x).power = s.power := rfl
@[simp] theorem setTh_bootStage (s : State) (t : Nat) (x : Thread) : (setTh s t x).bootStage = s.bootStage := rfl
@[simp] theorem setTh_bootHalted (s : State) (t : Nat) (x : Thread) : (setTh s t x).bootHalted = s.bootHalted := rfl
@[simp] theorem setTh_debugUnlocked (s : State) (t : Nat) (x : Thread) : (setTh s t x).debugUnlocked = s.debugUnlocked := rfl
@[simp] theorem setTh_stagedFw (s : State) (t : Nat) (x : Thread) : (setTh s t x).stagedFw = s.stagedFw := rfl
@[simp] theorem setTh_firmware (s : State) (t : Nat) (x : Thread) : (setTh s t x).firmware = s.firmware := rfl
@[simp] theorem setTh_eccCorrected (s : State) (t : Nat) (x : Thread) : (setTh s t x).eccCorrected = s.eccCorrected := rfl
@[simp] theorem setTh_eccUncorrected (s : State) (t : Nat) (x : Thread) : (setTh s t x).eccUncorrected = s.eccUncorrected := rfl
@[simp] theorem setTh_portOut (s : State) (t : Nat) (x : Thread) : (setTh s t x).portOut = s.portOut := rfl
@[simp] theorem setTh_pkg (s : State) (t : Nat) (x : Thread) : (setTh s t x).pkg = s.pkg := rfl
@[simp] theorem setTh_joined (s : State) (t : Nat) (x : Thread) : (setTh s t x).joined = s.joined := rfl
@[simp] theorem setTh_ports (s : State) (t : Nat) (x : Thread) : (setTh s t x).ports = s.ports := rfl
@[simp] theorem setTh_flows (s : State) (t : Nat) (x : Thread) : (setTh s t x).flows = s.flows := rfl
@[simp] theorem setTh_reqs (s : State) (t : Nat) (x : Thread) : (setTh s t x).reqs = s.reqs := rfl
@[simp] theorem setTh_dstFlows (s : State) (t : Nat) (x : Thread) : (setTh s t x).dstFlows = s.dstFlows := rfl
@[simp] theorem setTh_net (s : State) (t : Nat) (x : Thread) : (setTh s t x).net = s.net := rfl
@[simp] theorem setTh_netReplies (s : State) (t : Nat) (x : Thread) : (setTh s t x).netReplies = s.netReplies := rfl
@[simp] theorem setTh_flowMsgs (s : State) (t : Nat) (x : Thread) : (setTh s t x).flowMsgs = s.flowMsgs := rfl
@[simp] theorem setTh_fabKeys (s : State) (t : Nat) (x : Thread) : (setTh s t x).fabKeys = s.fabKeys := rfl
@[simp] theorem setTh_peers (s : State) (t : Nat) (x : Thread) : (setTh s t x).peers = s.peers := rfl
@[simp] theorem setTh_lostDevs (s : State) (t : Nat) (x : Thread) : (setTh s t x).lostDevs = s.lostDevs := rfl
@[simp] theorem setTh_noticed (s : State) (t : Nat) (x : Thread) : (setTh s t x).noticed = s.noticed := rfl
@[simp] theorem setTh_switches (s : State) (t : Nat) (x : Thread) : (setTh s t x).switches = s.switches := rfl
@[simp] theorem setTh_mirrorUpds (s : State) (t : Nat) (x : Thread) : (setTh s t x).mirrorUpds = s.mirrorUpds := rfl
@[simp] theorem setTh_xfers (s : State) (t : Nat) (x : Thread) : (setTh s t x).xfers = s.xfers := rfl

/-! `modTh` changes `threads` only. -/

@[simp] theorem modTh_now (s : State) (t : Nat) (f : Thread → Thread) : (modTh s t f).now = s.now := rfl
@[simp] theorem modTh_clkOff (s : State) (t : Nat) (f : Thread → Thread) : (modTh s t f).clkOff = s.clkOff := rfl
@[simp] theorem modTh_agenda (s : State) (t : Nat) (f : Thread → Thread) : (modTh s t f).agenda = s.agenda := rfl
@[simp] theorem modTh_focus (s : State) (t : Nat) (f : Thread → Thread) : (modTh s t f).focus = s.focus := rfl
@[simp] theorem modTh_turn (s : State) (t : Nat) (f : Thread → Thread) : (modTh s t f).turn = s.turn := rfl
@[simp] theorem modTh_freeCtr (s : State) (t : Nat) (f : Thread → Thread) : (modTh s t f).freeCtr = s.freeCtr := rfl
@[simp] theorem modTh_issueFaults (s : State) (t : Nat) (f : Thread → Thread) : (modTh s t f).issueFaults = s.issueFaults := rfl
@[simp] theorem modTh_nextIssue (s : State) (t : Nat) (f : Thread → Thread) : (modTh s t f).nextIssue = s.nextIssue := rfl
@[simp] theorem modTh_nextWg (s : State) (t : Nat) (f : Thread → Thread) : (modTh s t f).nextWg = s.nextWg := rfl
@[simp] theorem modTh_nextLaunch (s : State) (t : Nat) (f : Thread → Thread) : (modTh s t f).nextLaunch = s.nextLaunch := rfl
@[simp] theorem modTh_nextSerial (s : State) (t : Nat) (f : Thread → Thread) : (modTh s t f).nextSerial = s.nextSerial := rfl
@[simp] theorem modTh_nextId (s : State) (t : Nat) (f : Thread → Thread) : (modTh s t f).nextId = s.nextId := rfl
@[simp] theorem modTh_perfCtr (s : State) (t : Nat) (f : Thread → Thread) : (modTh s t f).perfCtr = s.perfCtr := rfl
@[simp] theorem modTh_useCtr (s : State) (t : Nat) (f : Thread → Thread) : (modTh s t f).useCtr = s.useCtr := rfl
@[simp] theorem modTh_threads (s : State) (t : Nat) (f : Thread → Thread) : (modTh s t f).threads = alter s.threads t f := rfl
@[simp] theorem modTh_wgs (s : State) (t : Nat) (f : Thread → Thread) : (modTh s t f).wgs = s.wgs := rfl
@[simp] theorem modTh_groups (s : State) (t : Nat) (f : Thread → Thread) : (modTh s t f).groups = s.groups := rfl
@[simp] theorem modTh_cores (s : State) (t : Nat) (f : Thread → Thread) : (modTh s t f).cores = s.cores := rfl
@[simp] theorem modTh_mem (s : State) (t : Nat) (f : Thread → Thread) : (modTh s t f).mem = s.mem := rfl
@[simp] theorem modTh_poison (s : State) (t : Nat) (f : Thread → Thread) : (modTh s t f).poison = s.poison := rfl
@[simp] theorem modTh_sliceClean (s : State) (t : Nat) (f : Thread → Thread) : (modTh s t f).sliceClean = s.sliceClean := rfl
@[simp] theorem modTh_sliceDirty (s : State) (t : Nat) (f : Thread → Thread) : (modTh s t f).sliceDirty = s.sliceDirty := rfl
@[simp] theorem modTh_slicePinned (s : State) (t : Nat) (f : Thread → Thread) : (modTh s t f).slicePinned = s.slicePinned := rfl
@[simp] theorem modTh_memKey (s : State) (t : Nat) (f : Thread → Thread) : (modTh s t f).memKey = s.memKey := rfl
@[simp] theorem modTh_ops (s : State) (t : Nat) (f : Thread → Thread) : (modTh s t f).ops = s.ops := rfl
@[simp] theorem modTh_acks (s : State) (t : Nat) (f : Thread → Thread) : (modTh s t f).acks = s.acks := rfl
@[simp] theorem modTh_late (s : State) (t : Nat) (f : Thread → Thread) : (modTh s t f).late = s.late := rfl
@[simp] theorem modTh_fills (s : State) (t : Nat) (f : Thread → Thread) : (modTh s t f).fills = s.fills := rfl
@[simp] theorem modTh_ccStores (s : State) (t : Nat) (f : Thread → Thread) : (modTh s t f).ccStores = s.ccStores := rfl
@[simp] theorem modTh_clusters (s : State) (t : Nat) (f : Thread → Thread) : (modTh s t f).clusters = s.clusters := rfl
@[simp] theorem modTh_clusterTlb (s : State) (t : Nat) (f : Thread → Thread) : (modTh s t f).clusterTlb = s.clusterTlb := rfl
@[simp] theorem modTh_dirs (s : State) (t : Nat) (f : Thread → Thread) : (modTh s t f).dirs = s.dirs := rfl
@[simp] theorem modTh_pkgDir (s : State) (t : Nat) (f : Thread → Thread) : (modTh s t f).pkgDir = s.pkgDir := rfl
@[simp] theorem modTh_msgs (s : State) (t : Nat) (f : Thread → Thread) : (modTh s t f).msgs = s.msgs := rfl
@[simp] theorem modTh_freezes (s : State) (t : Nat) (f : Thread → Thread) : (modTh s t f).freezes = s.freezes := rfl
@[simp] theorem modTh_freezeOps (s : State) (t : Nat) (f : Thread → Thread) : (modTh s t f).freezeOps = s.freezeOps := rfl
@[simp] theorem modTh_queues (s : State) (t : Nat) (f : Thread → Thread) : (modTh s t f).queues = s.queues := rfl
@[simp] theorem modTh_roundPtr (s : State) (t : Nat) (f : Thread → Thread) : (modTh s t f).roundPtr = s.roundPtr := rfl
@[simp] theorem modTh_parts (s : State) (t : Nat) (f : Thread → Thread) : (modTh s t f).parts = s.parts := rfl
@[simp] theorem modTh_ccpart (s : State) (t : Nat) (f : Thread → Thread) : (modTh s t f).ccpart = s.ccpart := rfl
@[simp] theorem modTh_keystat (s : State) (t : Nat) (f : Thread → Thread) : (modTh s t f).keystat = s.keystat := rfl
@[simp] theorem modTh_keyGen (s : State) (t : Nat) (f : Thread → Thread) : (modTh s t f).keyGen = s.keyGen := rfl
@[simp] theorem modTh_pinmap (s : State) (t : Nat) (f : Thread → Thread) : (modTh s t f).pinmap = s.pinmap := rfl
@[simp] theorem modTh_coreoff (s : State) (t : Nat) (f : Thread → Thread) : (modTh s t f).coreoff = s.coreoff := rfl
@[simp] theorem modTh_cxlsz (s : State) (t : Nat) (f : Thread → Thread) : (modTh s t f).cxlsz = s.cxlsz := rfl
@[simp] theorem modTh_launches (s : State) (t : Nat) (f : Thread → Thread) : (modTh s t f).launches = s.launches := rfl
@[simp] theorem modTh_pendingStore (s : State) (t : Nat) (f : Thread → Thread) : (modTh s t f).pendingStore = s.pendingStore := rfl
@[simp] theorem modTh_gone (s : State) (t : Nat) (f : Thread → Thread) : (modTh s t f).gone = s.gone := rfl
@[simp] theorem modTh_activity (s : State) (t : Nat) (f : Thread → Thread) : (modTh s t f).activity = s.activity := rfl
@[simp] theorem modTh_intWrites (s : State) (t : Nat) (f : Thread → Thread) : (modTh s t f).intWrites = s.intWrites := rfl
@[simp] theorem modTh_thermal (s : State) (t : Nat) (f : Thread → Thread) : (modTh s t f).thermal = s.thermal := rfl
@[simp] theorem modTh_measure (s : State) (t : Nat) (f : Thread → Thread) : (modTh s t f).measure = s.measure := rfl
@[simp] theorem modTh_power (s : State) (t : Nat) (f : Thread → Thread) : (modTh s t f).power = s.power := rfl
@[simp] theorem modTh_bootStage (s : State) (t : Nat) (f : Thread → Thread) : (modTh s t f).bootStage = s.bootStage := rfl
@[simp] theorem modTh_bootHalted (s : State) (t : Nat) (f : Thread → Thread) : (modTh s t f).bootHalted = s.bootHalted := rfl
@[simp] theorem modTh_debugUnlocked (s : State) (t : Nat) (f : Thread → Thread) : (modTh s t f).debugUnlocked = s.debugUnlocked := rfl
@[simp] theorem modTh_stagedFw (s : State) (t : Nat) (f : Thread → Thread) : (modTh s t f).stagedFw = s.stagedFw := rfl
@[simp] theorem modTh_firmware (s : State) (t : Nat) (f : Thread → Thread) : (modTh s t f).firmware = s.firmware := rfl
@[simp] theorem modTh_eccCorrected (s : State) (t : Nat) (f : Thread → Thread) : (modTh s t f).eccCorrected = s.eccCorrected := rfl
@[simp] theorem modTh_eccUncorrected (s : State) (t : Nat) (f : Thread → Thread) : (modTh s t f).eccUncorrected = s.eccUncorrected := rfl
@[simp] theorem modTh_portOut (s : State) (t : Nat) (f : Thread → Thread) : (modTh s t f).portOut = s.portOut := rfl
@[simp] theorem modTh_pkg (s : State) (t : Nat) (f : Thread → Thread) : (modTh s t f).pkg = s.pkg := rfl
@[simp] theorem modTh_joined (s : State) (t : Nat) (f : Thread → Thread) : (modTh s t f).joined = s.joined := rfl
@[simp] theorem modTh_ports (s : State) (t : Nat) (f : Thread → Thread) : (modTh s t f).ports = s.ports := rfl
@[simp] theorem modTh_flows (s : State) (t : Nat) (f : Thread → Thread) : (modTh s t f).flows = s.flows := rfl
@[simp] theorem modTh_reqs (s : State) (t : Nat) (f : Thread → Thread) : (modTh s t f).reqs = s.reqs := rfl
@[simp] theorem modTh_dstFlows (s : State) (t : Nat) (f : Thread → Thread) : (modTh s t f).dstFlows = s.dstFlows := rfl
@[simp] theorem modTh_net (s : State) (t : Nat) (f : Thread → Thread) : (modTh s t f).net = s.net := rfl
@[simp] theorem modTh_netReplies (s : State) (t : Nat) (f : Thread → Thread) : (modTh s t f).netReplies = s.netReplies := rfl
@[simp] theorem modTh_flowMsgs (s : State) (t : Nat) (f : Thread → Thread) : (modTh s t f).flowMsgs = s.flowMsgs := rfl
@[simp] theorem modTh_fabKeys (s : State) (t : Nat) (f : Thread → Thread) : (modTh s t f).fabKeys = s.fabKeys := rfl
@[simp] theorem modTh_peers (s : State) (t : Nat) (f : Thread → Thread) : (modTh s t f).peers = s.peers := rfl
@[simp] theorem modTh_lostDevs (s : State) (t : Nat) (f : Thread → Thread) : (modTh s t f).lostDevs = s.lostDevs := rfl
@[simp] theorem modTh_noticed (s : State) (t : Nat) (f : Thread → Thread) : (modTh s t f).noticed = s.noticed := rfl
@[simp] theorem modTh_switches (s : State) (t : Nat) (f : Thread → Thread) : (modTh s t f).switches = s.switches := rfl
@[simp] theorem modTh_mirrorUpds (s : State) (t : Nat) (f : Thread → Thread) : (modTh s t f).mirrorUpds = s.mirrorUpds := rfl
@[simp] theorem modTh_xfers (s : State) (t : Nat) (f : Thread → Thread) : (modTh s t f).xfers = s.xfers := rfl

/-! `setWg` changes `wgs` only. -/

@[simp] theorem setWg_now (s : State) (w : Nat) (x : Workgroup) : (setWg s w x).now = s.now := rfl
@[simp] theorem setWg_clkOff (s : State) (w : Nat) (x : Workgroup) : (setWg s w x).clkOff = s.clkOff := rfl
@[simp] theorem setWg_agenda (s : State) (w : Nat) (x : Workgroup) : (setWg s w x).agenda = s.agenda := rfl
@[simp] theorem setWg_focus (s : State) (w : Nat) (x : Workgroup) : (setWg s w x).focus = s.focus := rfl
@[simp] theorem setWg_turn (s : State) (w : Nat) (x : Workgroup) : (setWg s w x).turn = s.turn := rfl
@[simp] theorem setWg_freeCtr (s : State) (w : Nat) (x : Workgroup) : (setWg s w x).freeCtr = s.freeCtr := rfl
@[simp] theorem setWg_issueFaults (s : State) (w : Nat) (x : Workgroup) : (setWg s w x).issueFaults = s.issueFaults := rfl
@[simp] theorem setWg_nextIssue (s : State) (w : Nat) (x : Workgroup) : (setWg s w x).nextIssue = s.nextIssue := rfl
@[simp] theorem setWg_nextWg (s : State) (w : Nat) (x : Workgroup) : (setWg s w x).nextWg = s.nextWg := rfl
@[simp] theorem setWg_nextLaunch (s : State) (w : Nat) (x : Workgroup) : (setWg s w x).nextLaunch = s.nextLaunch := rfl
@[simp] theorem setWg_nextSerial (s : State) (w : Nat) (x : Workgroup) : (setWg s w x).nextSerial = s.nextSerial := rfl
@[simp] theorem setWg_nextId (s : State) (w : Nat) (x : Workgroup) : (setWg s w x).nextId = s.nextId := rfl
@[simp] theorem setWg_perfCtr (s : State) (w : Nat) (x : Workgroup) : (setWg s w x).perfCtr = s.perfCtr := rfl
@[simp] theorem setWg_useCtr (s : State) (w : Nat) (x : Workgroup) : (setWg s w x).useCtr = s.useCtr := rfl
@[simp] theorem setWg_threads (s : State) (w : Nat) (x : Workgroup) : (setWg s w x).threads = s.threads := rfl
@[simp] theorem setWg_wgs (s : State) (w : Nat) (x : Workgroup) : (setWg s w x).wgs = put s.wgs w x := rfl
@[simp] theorem setWg_groups (s : State) (w : Nat) (x : Workgroup) : (setWg s w x).groups = s.groups := rfl
@[simp] theorem setWg_cores (s : State) (w : Nat) (x : Workgroup) : (setWg s w x).cores = s.cores := rfl
@[simp] theorem setWg_mem (s : State) (w : Nat) (x : Workgroup) : (setWg s w x).mem = s.mem := rfl
@[simp] theorem setWg_poison (s : State) (w : Nat) (x : Workgroup) : (setWg s w x).poison = s.poison := rfl
@[simp] theorem setWg_sliceClean (s : State) (w : Nat) (x : Workgroup) : (setWg s w x).sliceClean = s.sliceClean := rfl
@[simp] theorem setWg_sliceDirty (s : State) (w : Nat) (x : Workgroup) : (setWg s w x).sliceDirty = s.sliceDirty := rfl
@[simp] theorem setWg_slicePinned (s : State) (w : Nat) (x : Workgroup) : (setWg s w x).slicePinned = s.slicePinned := rfl
@[simp] theorem setWg_memKey (s : State) (w : Nat) (x : Workgroup) : (setWg s w x).memKey = s.memKey := rfl
@[simp] theorem setWg_ops (s : State) (w : Nat) (x : Workgroup) : (setWg s w x).ops = s.ops := rfl
@[simp] theorem setWg_acks (s : State) (w : Nat) (x : Workgroup) : (setWg s w x).acks = s.acks := rfl
@[simp] theorem setWg_late (s : State) (w : Nat) (x : Workgroup) : (setWg s w x).late = s.late := rfl
@[simp] theorem setWg_fills (s : State) (w : Nat) (x : Workgroup) : (setWg s w x).fills = s.fills := rfl
@[simp] theorem setWg_ccStores (s : State) (w : Nat) (x : Workgroup) : (setWg s w x).ccStores = s.ccStores := rfl
@[simp] theorem setWg_clusters (s : State) (w : Nat) (x : Workgroup) : (setWg s w x).clusters = s.clusters := rfl
@[simp] theorem setWg_clusterTlb (s : State) (w : Nat) (x : Workgroup) : (setWg s w x).clusterTlb = s.clusterTlb := rfl
@[simp] theorem setWg_dirs (s : State) (w : Nat) (x : Workgroup) : (setWg s w x).dirs = s.dirs := rfl
@[simp] theorem setWg_pkgDir (s : State) (w : Nat) (x : Workgroup) : (setWg s w x).pkgDir = s.pkgDir := rfl
@[simp] theorem setWg_msgs (s : State) (w : Nat) (x : Workgroup) : (setWg s w x).msgs = s.msgs := rfl
@[simp] theorem setWg_freezes (s : State) (w : Nat) (x : Workgroup) : (setWg s w x).freezes = s.freezes := rfl
@[simp] theorem setWg_freezeOps (s : State) (w : Nat) (x : Workgroup) : (setWg s w x).freezeOps = s.freezeOps := rfl
@[simp] theorem setWg_queues (s : State) (w : Nat) (x : Workgroup) : (setWg s w x).queues = s.queues := rfl
@[simp] theorem setWg_roundPtr (s : State) (w : Nat) (x : Workgroup) : (setWg s w x).roundPtr = s.roundPtr := rfl
@[simp] theorem setWg_parts (s : State) (w : Nat) (x : Workgroup) : (setWg s w x).parts = s.parts := rfl
@[simp] theorem setWg_ccpart (s : State) (w : Nat) (x : Workgroup) : (setWg s w x).ccpart = s.ccpart := rfl
@[simp] theorem setWg_keystat (s : State) (w : Nat) (x : Workgroup) : (setWg s w x).keystat = s.keystat := rfl
@[simp] theorem setWg_keyGen (s : State) (w : Nat) (x : Workgroup) : (setWg s w x).keyGen = s.keyGen := rfl
@[simp] theorem setWg_pinmap (s : State) (w : Nat) (x : Workgroup) : (setWg s w x).pinmap = s.pinmap := rfl
@[simp] theorem setWg_coreoff (s : State) (w : Nat) (x : Workgroup) : (setWg s w x).coreoff = s.coreoff := rfl
@[simp] theorem setWg_cxlsz (s : State) (w : Nat) (x : Workgroup) : (setWg s w x).cxlsz = s.cxlsz := rfl
@[simp] theorem setWg_launches (s : State) (w : Nat) (x : Workgroup) : (setWg s w x).launches = s.launches := rfl
@[simp] theorem setWg_pendingStore (s : State) (w : Nat) (x : Workgroup) : (setWg s w x).pendingStore = s.pendingStore := rfl
@[simp] theorem setWg_gone (s : State) (w : Nat) (x : Workgroup) : (setWg s w x).gone = s.gone := rfl
@[simp] theorem setWg_activity (s : State) (w : Nat) (x : Workgroup) : (setWg s w x).activity = s.activity := rfl
@[simp] theorem setWg_intWrites (s : State) (w : Nat) (x : Workgroup) : (setWg s w x).intWrites = s.intWrites := rfl
@[simp] theorem setWg_thermal (s : State) (w : Nat) (x : Workgroup) : (setWg s w x).thermal = s.thermal := rfl
@[simp] theorem setWg_measure (s : State) (w : Nat) (x : Workgroup) : (setWg s w x).measure = s.measure := rfl
@[simp] theorem setWg_power (s : State) (w : Nat) (x : Workgroup) : (setWg s w x).power = s.power := rfl
@[simp] theorem setWg_bootStage (s : State) (w : Nat) (x : Workgroup) : (setWg s w x).bootStage = s.bootStage := rfl
@[simp] theorem setWg_bootHalted (s : State) (w : Nat) (x : Workgroup) : (setWg s w x).bootHalted = s.bootHalted := rfl
@[simp] theorem setWg_debugUnlocked (s : State) (w : Nat) (x : Workgroup) : (setWg s w x).debugUnlocked = s.debugUnlocked := rfl
@[simp] theorem setWg_stagedFw (s : State) (w : Nat) (x : Workgroup) : (setWg s w x).stagedFw = s.stagedFw := rfl
@[simp] theorem setWg_firmware (s : State) (w : Nat) (x : Workgroup) : (setWg s w x).firmware = s.firmware := rfl
@[simp] theorem setWg_eccCorrected (s : State) (w : Nat) (x : Workgroup) : (setWg s w x).eccCorrected = s.eccCorrected := rfl
@[simp] theorem setWg_eccUncorrected (s : State) (w : Nat) (x : Workgroup) : (setWg s w x).eccUncorrected = s.eccUncorrected := rfl
@[simp] theorem setWg_portOut (s : State) (w : Nat) (x : Workgroup) : (setWg s w x).portOut = s.portOut := rfl
@[simp] theorem setWg_pkg (s : State) (w : Nat) (x : Workgroup) : (setWg s w x).pkg = s.pkg := rfl
@[simp] theorem setWg_joined (s : State) (w : Nat) (x : Workgroup) : (setWg s w x).joined = s.joined := rfl
@[simp] theorem setWg_ports (s : State) (w : Nat) (x : Workgroup) : (setWg s w x).ports = s.ports := rfl
@[simp] theorem setWg_flows (s : State) (w : Nat) (x : Workgroup) : (setWg s w x).flows = s.flows := rfl
@[simp] theorem setWg_reqs (s : State) (w : Nat) (x : Workgroup) : (setWg s w x).reqs = s.reqs := rfl
@[simp] theorem setWg_dstFlows (s : State) (w : Nat) (x : Workgroup) : (setWg s w x).dstFlows = s.dstFlows := rfl
@[simp] theorem setWg_net (s : State) (w : Nat) (x : Workgroup) : (setWg s w x).net = s.net := rfl
@[simp] theorem setWg_netReplies (s : State) (w : Nat) (x : Workgroup) : (setWg s w x).netReplies = s.netReplies := rfl
@[simp] theorem setWg_flowMsgs (s : State) (w : Nat) (x : Workgroup) : (setWg s w x).flowMsgs = s.flowMsgs := rfl
@[simp] theorem setWg_fabKeys (s : State) (w : Nat) (x : Workgroup) : (setWg s w x).fabKeys = s.fabKeys := rfl
@[simp] theorem setWg_peers (s : State) (w : Nat) (x : Workgroup) : (setWg s w x).peers = s.peers := rfl
@[simp] theorem setWg_lostDevs (s : State) (w : Nat) (x : Workgroup) : (setWg s w x).lostDevs = s.lostDevs := rfl
@[simp] theorem setWg_noticed (s : State) (w : Nat) (x : Workgroup) : (setWg s w x).noticed = s.noticed := rfl
@[simp] theorem setWg_switches (s : State) (w : Nat) (x : Workgroup) : (setWg s w x).switches = s.switches := rfl
@[simp] theorem setWg_mirrorUpds (s : State) (w : Nat) (x : Workgroup) : (setWg s w x).mirrorUpds = s.mirrorUpds := rfl
@[simp] theorem setWg_xfers (s : State) (w : Nat) (x : Workgroup) : (setWg s w x).xfers = s.xfers := rfl

/-! `modWg` changes `wgs` only. -/

@[simp] theorem modWg_now (s : State) (w : Nat) (f : Workgroup → Workgroup) : (modWg s w f).now = s.now := rfl
@[simp] theorem modWg_clkOff (s : State) (w : Nat) (f : Workgroup → Workgroup) : (modWg s w f).clkOff = s.clkOff := rfl
@[simp] theorem modWg_agenda (s : State) (w : Nat) (f : Workgroup → Workgroup) : (modWg s w f).agenda = s.agenda := rfl
@[simp] theorem modWg_focus (s : State) (w : Nat) (f : Workgroup → Workgroup) : (modWg s w f).focus = s.focus := rfl
@[simp] theorem modWg_turn (s : State) (w : Nat) (f : Workgroup → Workgroup) : (modWg s w f).turn = s.turn := rfl
@[simp] theorem modWg_freeCtr (s : State) (w : Nat) (f : Workgroup → Workgroup) : (modWg s w f).freeCtr = s.freeCtr := rfl
@[simp] theorem modWg_issueFaults (s : State) (w : Nat) (f : Workgroup → Workgroup) : (modWg s w f).issueFaults = s.issueFaults := rfl
@[simp] theorem modWg_nextIssue (s : State) (w : Nat) (f : Workgroup → Workgroup) : (modWg s w f).nextIssue = s.nextIssue := rfl
@[simp] theorem modWg_nextWg (s : State) (w : Nat) (f : Workgroup → Workgroup) : (modWg s w f).nextWg = s.nextWg := rfl
@[simp] theorem modWg_nextLaunch (s : State) (w : Nat) (f : Workgroup → Workgroup) : (modWg s w f).nextLaunch = s.nextLaunch := rfl
@[simp] theorem modWg_nextSerial (s : State) (w : Nat) (f : Workgroup → Workgroup) : (modWg s w f).nextSerial = s.nextSerial := rfl
@[simp] theorem modWg_nextId (s : State) (w : Nat) (f : Workgroup → Workgroup) : (modWg s w f).nextId = s.nextId := rfl
@[simp] theorem modWg_perfCtr (s : State) (w : Nat) (f : Workgroup → Workgroup) : (modWg s w f).perfCtr = s.perfCtr := rfl
@[simp] theorem modWg_useCtr (s : State) (w : Nat) (f : Workgroup → Workgroup) : (modWg s w f).useCtr = s.useCtr := rfl
@[simp] theorem modWg_threads (s : State) (w : Nat) (f : Workgroup → Workgroup) : (modWg s w f).threads = s.threads := rfl
@[simp] theorem modWg_wgs (s : State) (w : Nat) (f : Workgroup → Workgroup) : (modWg s w f).wgs = alter s.wgs w f := rfl
@[simp] theorem modWg_groups (s : State) (w : Nat) (f : Workgroup → Workgroup) : (modWg s w f).groups = s.groups := rfl
@[simp] theorem modWg_cores (s : State) (w : Nat) (f : Workgroup → Workgroup) : (modWg s w f).cores = s.cores := rfl
@[simp] theorem modWg_mem (s : State) (w : Nat) (f : Workgroup → Workgroup) : (modWg s w f).mem = s.mem := rfl
@[simp] theorem modWg_poison (s : State) (w : Nat) (f : Workgroup → Workgroup) : (modWg s w f).poison = s.poison := rfl
@[simp] theorem modWg_sliceClean (s : State) (w : Nat) (f : Workgroup → Workgroup) : (modWg s w f).sliceClean = s.sliceClean := rfl
@[simp] theorem modWg_sliceDirty (s : State) (w : Nat) (f : Workgroup → Workgroup) : (modWg s w f).sliceDirty = s.sliceDirty := rfl
@[simp] theorem modWg_slicePinned (s : State) (w : Nat) (f : Workgroup → Workgroup) : (modWg s w f).slicePinned = s.slicePinned := rfl
@[simp] theorem modWg_memKey (s : State) (w : Nat) (f : Workgroup → Workgroup) : (modWg s w f).memKey = s.memKey := rfl
@[simp] theorem modWg_ops (s : State) (w : Nat) (f : Workgroup → Workgroup) : (modWg s w f).ops = s.ops := rfl
@[simp] theorem modWg_acks (s : State) (w : Nat) (f : Workgroup → Workgroup) : (modWg s w f).acks = s.acks := rfl
@[simp] theorem modWg_late (s : State) (w : Nat) (f : Workgroup → Workgroup) : (modWg s w f).late = s.late := rfl
@[simp] theorem modWg_fills (s : State) (w : Nat) (f : Workgroup → Workgroup) : (modWg s w f).fills = s.fills := rfl
@[simp] theorem modWg_ccStores (s : State) (w : Nat) (f : Workgroup → Workgroup) : (modWg s w f).ccStores = s.ccStores := rfl
@[simp] theorem modWg_clusters (s : State) (w : Nat) (f : Workgroup → Workgroup) : (modWg s w f).clusters = s.clusters := rfl
@[simp] theorem modWg_clusterTlb (s : State) (w : Nat) (f : Workgroup → Workgroup) : (modWg s w f).clusterTlb = s.clusterTlb := rfl
@[simp] theorem modWg_dirs (s : State) (w : Nat) (f : Workgroup → Workgroup) : (modWg s w f).dirs = s.dirs := rfl
@[simp] theorem modWg_pkgDir (s : State) (w : Nat) (f : Workgroup → Workgroup) : (modWg s w f).pkgDir = s.pkgDir := rfl
@[simp] theorem modWg_msgs (s : State) (w : Nat) (f : Workgroup → Workgroup) : (modWg s w f).msgs = s.msgs := rfl
@[simp] theorem modWg_freezes (s : State) (w : Nat) (f : Workgroup → Workgroup) : (modWg s w f).freezes = s.freezes := rfl
@[simp] theorem modWg_freezeOps (s : State) (w : Nat) (f : Workgroup → Workgroup) : (modWg s w f).freezeOps = s.freezeOps := rfl
@[simp] theorem modWg_queues (s : State) (w : Nat) (f : Workgroup → Workgroup) : (modWg s w f).queues = s.queues := rfl
@[simp] theorem modWg_roundPtr (s : State) (w : Nat) (f : Workgroup → Workgroup) : (modWg s w f).roundPtr = s.roundPtr := rfl
@[simp] theorem modWg_parts (s : State) (w : Nat) (f : Workgroup → Workgroup) : (modWg s w f).parts = s.parts := rfl
@[simp] theorem modWg_ccpart (s : State) (w : Nat) (f : Workgroup → Workgroup) : (modWg s w f).ccpart = s.ccpart := rfl
@[simp] theorem modWg_keystat (s : State) (w : Nat) (f : Workgroup → Workgroup) : (modWg s w f).keystat = s.keystat := rfl
@[simp] theorem modWg_keyGen (s : State) (w : Nat) (f : Workgroup → Workgroup) : (modWg s w f).keyGen = s.keyGen := rfl
@[simp] theorem modWg_pinmap (s : State) (w : Nat) (f : Workgroup → Workgroup) : (modWg s w f).pinmap = s.pinmap := rfl
@[simp] theorem modWg_coreoff (s : State) (w : Nat) (f : Workgroup → Workgroup) : (modWg s w f).coreoff = s.coreoff := rfl
@[simp] theorem modWg_cxlsz (s : State) (w : Nat) (f : Workgroup → Workgroup) : (modWg s w f).cxlsz = s.cxlsz := rfl
@[simp] theorem modWg_launches (s : State) (w : Nat) (f : Workgroup → Workgroup) : (modWg s w f).launches = s.launches := rfl
@[simp] theorem modWg_pendingStore (s : State) (w : Nat) (f : Workgroup → Workgroup) : (modWg s w f).pendingStore = s.pendingStore := rfl
@[simp] theorem modWg_gone (s : State) (w : Nat) (f : Workgroup → Workgroup) : (modWg s w f).gone = s.gone := rfl
@[simp] theorem modWg_activity (s : State) (w : Nat) (f : Workgroup → Workgroup) : (modWg s w f).activity = s.activity := rfl
@[simp] theorem modWg_intWrites (s : State) (w : Nat) (f : Workgroup → Workgroup) : (modWg s w f).intWrites = s.intWrites := rfl
@[simp] theorem modWg_thermal (s : State) (w : Nat) (f : Workgroup → Workgroup) : (modWg s w f).thermal = s.thermal := rfl
@[simp] theorem modWg_measure (s : State) (w : Nat) (f : Workgroup → Workgroup) : (modWg s w f).measure = s.measure := rfl
@[simp] theorem modWg_power (s : State) (w : Nat) (f : Workgroup → Workgroup) : (modWg s w f).power = s.power := rfl
@[simp] theorem modWg_bootStage (s : State) (w : Nat) (f : Workgroup → Workgroup) : (modWg s w f).bootStage = s.bootStage := rfl
@[simp] theorem modWg_bootHalted (s : State) (w : Nat) (f : Workgroup → Workgroup) : (modWg s w f).bootHalted = s.bootHalted := rfl
@[simp] theorem modWg_debugUnlocked (s : State) (w : Nat) (f : Workgroup → Workgroup) : (modWg s w f).debugUnlocked = s.debugUnlocked := rfl
@[simp] theorem modWg_stagedFw (s : State) (w : Nat) (f : Workgroup → Workgroup) : (modWg s w f).stagedFw = s.stagedFw := rfl
@[simp] theorem modWg_firmware (s : State) (w : Nat) (f : Workgroup → Workgroup) : (modWg s w f).firmware = s.firmware := rfl
@[simp] theorem modWg_eccCorrected (s : State) (w : Nat) (f : Workgroup → Workgroup) : (modWg s w f).eccCorrected = s.eccCorrected := rfl
@[simp] theorem modWg_eccUncorrected (s : State) (w : Nat) (f : Workgroup → Workgroup) : (modWg s w f).eccUncorrected = s.eccUncorrected := rfl
@[simp] theorem modWg_portOut (s : State) (w : Nat) (f : Workgroup → Workgroup) : (modWg s w f).portOut = s.portOut := rfl
@[simp] theorem modWg_pkg (s : State) (w : Nat) (f : Workgroup → Workgroup) : (modWg s w f).pkg = s.pkg := rfl
@[simp] theorem modWg_joined (s : State) (w : Nat) (f : Workgroup → Workgroup) : (modWg s w f).joined = s.joined := rfl
@[simp] theorem modWg_ports (s : State) (w : Nat) (f : Workgroup → Workgroup) : (modWg s w f).ports = s.ports := rfl
@[simp] theorem modWg_flows (s : State) (w : Nat) (f : Workgroup → Workgroup) : (modWg s w f).flows = s.flows := rfl
@[simp] theorem modWg_reqs (s : State) (w : Nat) (f : Workgroup → Workgroup) : (modWg s w f).reqs = s.reqs := rfl
@[simp] theorem modWg_dstFlows (s : State) (w : Nat) (f : Workgroup → Workgroup) : (modWg s w f).dstFlows = s.dstFlows := rfl
@[simp] theorem modWg_net (s : State) (w : Nat) (f : Workgroup → Workgroup) : (modWg s w f).net = s.net := rfl
@[simp] theorem modWg_netReplies (s : State) (w : Nat) (f : Workgroup → Workgroup) : (modWg s w f).netReplies = s.netReplies := rfl
@[simp] theorem modWg_flowMsgs (s : State) (w : Nat) (f : Workgroup → Workgroup) : (modWg s w f).flowMsgs = s.flowMsgs := rfl
@[simp] theorem modWg_fabKeys (s : State) (w : Nat) (f : Workgroup → Workgroup) : (modWg s w f).fabKeys = s.fabKeys := rfl
@[simp] theorem modWg_peers (s : State) (w : Nat) (f : Workgroup → Workgroup) : (modWg s w f).peers = s.peers := rfl
@[simp] theorem modWg_lostDevs (s : State) (w : Nat) (f : Workgroup → Workgroup) : (modWg s w f).lostDevs = s.lostDevs := rfl
@[simp] theorem modWg_noticed (s : State) (w : Nat) (f : Workgroup → Workgroup) : (modWg s w f).noticed = s.noticed := rfl
@[simp] theorem modWg_switches (s : State) (w : Nat) (f : Workgroup → Workgroup) : (modWg s w f).switches = s.switches := rfl
@[simp] theorem modWg_mirrorUpds (s : State) (w : Nat) (f : Workgroup → Workgroup) : (modWg s w f).mirrorUpds = s.mirrorUpds := rfl
@[simp] theorem modWg_xfers (s : State) (w : Nat) (f : Workgroup → Workgroup) : (modWg s w f).xfers = s.xfers := rfl

/-! `setGrp` changes `groups` only. -/

@[simp] theorem setGrp_now (s : State) (g : Nat) (x : Group) : (setGrp s g x).now = s.now := rfl
@[simp] theorem setGrp_clkOff (s : State) (g : Nat) (x : Group) : (setGrp s g x).clkOff = s.clkOff := rfl
@[simp] theorem setGrp_agenda (s : State) (g : Nat) (x : Group) : (setGrp s g x).agenda = s.agenda := rfl
@[simp] theorem setGrp_focus (s : State) (g : Nat) (x : Group) : (setGrp s g x).focus = s.focus := rfl
@[simp] theorem setGrp_turn (s : State) (g : Nat) (x : Group) : (setGrp s g x).turn = s.turn := rfl
@[simp] theorem setGrp_freeCtr (s : State) (g : Nat) (x : Group) : (setGrp s g x).freeCtr = s.freeCtr := rfl
@[simp] theorem setGrp_issueFaults (s : State) (g : Nat) (x : Group) : (setGrp s g x).issueFaults = s.issueFaults := rfl
@[simp] theorem setGrp_nextIssue (s : State) (g : Nat) (x : Group) : (setGrp s g x).nextIssue = s.nextIssue := rfl
@[simp] theorem setGrp_nextWg (s : State) (g : Nat) (x : Group) : (setGrp s g x).nextWg = s.nextWg := rfl
@[simp] theorem setGrp_nextLaunch (s : State) (g : Nat) (x : Group) : (setGrp s g x).nextLaunch = s.nextLaunch := rfl
@[simp] theorem setGrp_nextSerial (s : State) (g : Nat) (x : Group) : (setGrp s g x).nextSerial = s.nextSerial := rfl
@[simp] theorem setGrp_nextId (s : State) (g : Nat) (x : Group) : (setGrp s g x).nextId = s.nextId := rfl
@[simp] theorem setGrp_perfCtr (s : State) (g : Nat) (x : Group) : (setGrp s g x).perfCtr = s.perfCtr := rfl
@[simp] theorem setGrp_useCtr (s : State) (g : Nat) (x : Group) : (setGrp s g x).useCtr = s.useCtr := rfl
@[simp] theorem setGrp_threads (s : State) (g : Nat) (x : Group) : (setGrp s g x).threads = s.threads := rfl
@[simp] theorem setGrp_wgs (s : State) (g : Nat) (x : Group) : (setGrp s g x).wgs = s.wgs := rfl
@[simp] theorem setGrp_groups (s : State) (g : Nat) (x : Group) : (setGrp s g x).groups = put s.groups g x := rfl
@[simp] theorem setGrp_cores (s : State) (g : Nat) (x : Group) : (setGrp s g x).cores = s.cores := rfl
@[simp] theorem setGrp_mem (s : State) (g : Nat) (x : Group) : (setGrp s g x).mem = s.mem := rfl
@[simp] theorem setGrp_poison (s : State) (g : Nat) (x : Group) : (setGrp s g x).poison = s.poison := rfl
@[simp] theorem setGrp_sliceClean (s : State) (g : Nat) (x : Group) : (setGrp s g x).sliceClean = s.sliceClean := rfl
@[simp] theorem setGrp_sliceDirty (s : State) (g : Nat) (x : Group) : (setGrp s g x).sliceDirty = s.sliceDirty := rfl
@[simp] theorem setGrp_slicePinned (s : State) (g : Nat) (x : Group) : (setGrp s g x).slicePinned = s.slicePinned := rfl
@[simp] theorem setGrp_memKey (s : State) (g : Nat) (x : Group) : (setGrp s g x).memKey = s.memKey := rfl
@[simp] theorem setGrp_ops (s : State) (g : Nat) (x : Group) : (setGrp s g x).ops = s.ops := rfl
@[simp] theorem setGrp_acks (s : State) (g : Nat) (x : Group) : (setGrp s g x).acks = s.acks := rfl
@[simp] theorem setGrp_late (s : State) (g : Nat) (x : Group) : (setGrp s g x).late = s.late := rfl
@[simp] theorem setGrp_fills (s : State) (g : Nat) (x : Group) : (setGrp s g x).fills = s.fills := rfl
@[simp] theorem setGrp_ccStores (s : State) (g : Nat) (x : Group) : (setGrp s g x).ccStores = s.ccStores := rfl
@[simp] theorem setGrp_clusters (s : State) (g : Nat) (x : Group) : (setGrp s g x).clusters = s.clusters := rfl
@[simp] theorem setGrp_clusterTlb (s : State) (g : Nat) (x : Group) : (setGrp s g x).clusterTlb = s.clusterTlb := rfl
@[simp] theorem setGrp_dirs (s : State) (g : Nat) (x : Group) : (setGrp s g x).dirs = s.dirs := rfl
@[simp] theorem setGrp_pkgDir (s : State) (g : Nat) (x : Group) : (setGrp s g x).pkgDir = s.pkgDir := rfl
@[simp] theorem setGrp_msgs (s : State) (g : Nat) (x : Group) : (setGrp s g x).msgs = s.msgs := rfl
@[simp] theorem setGrp_freezes (s : State) (g : Nat) (x : Group) : (setGrp s g x).freezes = s.freezes := rfl
@[simp] theorem setGrp_freezeOps (s : State) (g : Nat) (x : Group) : (setGrp s g x).freezeOps = s.freezeOps := rfl
@[simp] theorem setGrp_queues (s : State) (g : Nat) (x : Group) : (setGrp s g x).queues = s.queues := rfl
@[simp] theorem setGrp_roundPtr (s : State) (g : Nat) (x : Group) : (setGrp s g x).roundPtr = s.roundPtr := rfl
@[simp] theorem setGrp_parts (s : State) (g : Nat) (x : Group) : (setGrp s g x).parts = s.parts := rfl
@[simp] theorem setGrp_ccpart (s : State) (g : Nat) (x : Group) : (setGrp s g x).ccpart = s.ccpart := rfl
@[simp] theorem setGrp_keystat (s : State) (g : Nat) (x : Group) : (setGrp s g x).keystat = s.keystat := rfl
@[simp] theorem setGrp_keyGen (s : State) (g : Nat) (x : Group) : (setGrp s g x).keyGen = s.keyGen := rfl
@[simp] theorem setGrp_pinmap (s : State) (g : Nat) (x : Group) : (setGrp s g x).pinmap = s.pinmap := rfl
@[simp] theorem setGrp_coreoff (s : State) (g : Nat) (x : Group) : (setGrp s g x).coreoff = s.coreoff := rfl
@[simp] theorem setGrp_cxlsz (s : State) (g : Nat) (x : Group) : (setGrp s g x).cxlsz = s.cxlsz := rfl
@[simp] theorem setGrp_launches (s : State) (g : Nat) (x : Group) : (setGrp s g x).launches = s.launches := rfl
@[simp] theorem setGrp_pendingStore (s : State) (g : Nat) (x : Group) : (setGrp s g x).pendingStore = s.pendingStore := rfl
@[simp] theorem setGrp_gone (s : State) (g : Nat) (x : Group) : (setGrp s g x).gone = s.gone := rfl
@[simp] theorem setGrp_activity (s : State) (g : Nat) (x : Group) : (setGrp s g x).activity = s.activity := rfl
@[simp] theorem setGrp_intWrites (s : State) (g : Nat) (x : Group) : (setGrp s g x).intWrites = s.intWrites := rfl
@[simp] theorem setGrp_thermal (s : State) (g : Nat) (x : Group) : (setGrp s g x).thermal = s.thermal := rfl
@[simp] theorem setGrp_measure (s : State) (g : Nat) (x : Group) : (setGrp s g x).measure = s.measure := rfl
@[simp] theorem setGrp_power (s : State) (g : Nat) (x : Group) : (setGrp s g x).power = s.power := rfl
@[simp] theorem setGrp_bootStage (s : State) (g : Nat) (x : Group) : (setGrp s g x).bootStage = s.bootStage := rfl
@[simp] theorem setGrp_bootHalted (s : State) (g : Nat) (x : Group) : (setGrp s g x).bootHalted = s.bootHalted := rfl
@[simp] theorem setGrp_debugUnlocked (s : State) (g : Nat) (x : Group) : (setGrp s g x).debugUnlocked = s.debugUnlocked := rfl
@[simp] theorem setGrp_stagedFw (s : State) (g : Nat) (x : Group) : (setGrp s g x).stagedFw = s.stagedFw := rfl
@[simp] theorem setGrp_firmware (s : State) (g : Nat) (x : Group) : (setGrp s g x).firmware = s.firmware := rfl
@[simp] theorem setGrp_eccCorrected (s : State) (g : Nat) (x : Group) : (setGrp s g x).eccCorrected = s.eccCorrected := rfl
@[simp] theorem setGrp_eccUncorrected (s : State) (g : Nat) (x : Group) : (setGrp s g x).eccUncorrected = s.eccUncorrected := rfl
@[simp] theorem setGrp_portOut (s : State) (g : Nat) (x : Group) : (setGrp s g x).portOut = s.portOut := rfl
@[simp] theorem setGrp_pkg (s : State) (g : Nat) (x : Group) : (setGrp s g x).pkg = s.pkg := rfl
@[simp] theorem setGrp_joined (s : State) (g : Nat) (x : Group) : (setGrp s g x).joined = s.joined := rfl
@[simp] theorem setGrp_ports (s : State) (g : Nat) (x : Group) : (setGrp s g x).ports = s.ports := rfl
@[simp] theorem setGrp_flows (s : State) (g : Nat) (x : Group) : (setGrp s g x).flows = s.flows := rfl
@[simp] theorem setGrp_reqs (s : State) (g : Nat) (x : Group) : (setGrp s g x).reqs = s.reqs := rfl
@[simp] theorem setGrp_dstFlows (s : State) (g : Nat) (x : Group) : (setGrp s g x).dstFlows = s.dstFlows := rfl
@[simp] theorem setGrp_net (s : State) (g : Nat) (x : Group) : (setGrp s g x).net = s.net := rfl
@[simp] theorem setGrp_netReplies (s : State) (g : Nat) (x : Group) : (setGrp s g x).netReplies = s.netReplies := rfl
@[simp] theorem setGrp_flowMsgs (s : State) (g : Nat) (x : Group) : (setGrp s g x).flowMsgs = s.flowMsgs := rfl
@[simp] theorem setGrp_fabKeys (s : State) (g : Nat) (x : Group) : (setGrp s g x).fabKeys = s.fabKeys := rfl
@[simp] theorem setGrp_peers (s : State) (g : Nat) (x : Group) : (setGrp s g x).peers = s.peers := rfl
@[simp] theorem setGrp_lostDevs (s : State) (g : Nat) (x : Group) : (setGrp s g x).lostDevs = s.lostDevs := rfl
@[simp] theorem setGrp_noticed (s : State) (g : Nat) (x : Group) : (setGrp s g x).noticed = s.noticed := rfl
@[simp] theorem setGrp_switches (s : State) (g : Nat) (x : Group) : (setGrp s g x).switches = s.switches := rfl
@[simp] theorem setGrp_mirrorUpds (s : State) (g : Nat) (x : Group) : (setGrp s g x).mirrorUpds = s.mirrorUpds := rfl
@[simp] theorem setGrp_xfers (s : State) (g : Nat) (x : Group) : (setGrp s g x).xfers = s.xfers := rfl

/-! `modGrp` changes `groups` only. -/

@[simp] theorem modGrp_now (s : State) (g : Nat) (f : Group → Group) : (modGrp s g f).now = s.now := rfl
@[simp] theorem modGrp_clkOff (s : State) (g : Nat) (f : Group → Group) : (modGrp s g f).clkOff = s.clkOff := rfl
@[simp] theorem modGrp_agenda (s : State) (g : Nat) (f : Group → Group) : (modGrp s g f).agenda = s.agenda := rfl
@[simp] theorem modGrp_focus (s : State) (g : Nat) (f : Group → Group) : (modGrp s g f).focus = s.focus := rfl
@[simp] theorem modGrp_turn (s : State) (g : Nat) (f : Group → Group) : (modGrp s g f).turn = s.turn := rfl
@[simp] theorem modGrp_freeCtr (s : State) (g : Nat) (f : Group → Group) : (modGrp s g f).freeCtr = s.freeCtr := rfl
@[simp] theorem modGrp_issueFaults (s : State) (g : Nat) (f : Group → Group) : (modGrp s g f).issueFaults = s.issueFaults := rfl
@[simp] theorem modGrp_nextIssue (s : State) (g : Nat) (f : Group → Group) : (modGrp s g f).nextIssue = s.nextIssue := rfl
@[simp] theorem modGrp_nextWg (s : State) (g : Nat) (f : Group → Group) : (modGrp s g f).nextWg = s.nextWg := rfl
@[simp] theorem modGrp_nextLaunch (s : State) (g : Nat) (f : Group → Group) : (modGrp s g f).nextLaunch = s.nextLaunch := rfl
@[simp] theorem modGrp_nextSerial (s : State) (g : Nat) (f : Group → Group) : (modGrp s g f).nextSerial = s.nextSerial := rfl
@[simp] theorem modGrp_nextId (s : State) (g : Nat) (f : Group → Group) : (modGrp s g f).nextId = s.nextId := rfl
@[simp] theorem modGrp_perfCtr (s : State) (g : Nat) (f : Group → Group) : (modGrp s g f).perfCtr = s.perfCtr := rfl
@[simp] theorem modGrp_useCtr (s : State) (g : Nat) (f : Group → Group) : (modGrp s g f).useCtr = s.useCtr := rfl
@[simp] theorem modGrp_threads (s : State) (g : Nat) (f : Group → Group) : (modGrp s g f).threads = s.threads := rfl
@[simp] theorem modGrp_wgs (s : State) (g : Nat) (f : Group → Group) : (modGrp s g f).wgs = s.wgs := rfl
@[simp] theorem modGrp_groups (s : State) (g : Nat) (f : Group → Group) : (modGrp s g f).groups = alter s.groups g f := rfl
@[simp] theorem modGrp_cores (s : State) (g : Nat) (f : Group → Group) : (modGrp s g f).cores = s.cores := rfl
@[simp] theorem modGrp_mem (s : State) (g : Nat) (f : Group → Group) : (modGrp s g f).mem = s.mem := rfl
@[simp] theorem modGrp_poison (s : State) (g : Nat) (f : Group → Group) : (modGrp s g f).poison = s.poison := rfl
@[simp] theorem modGrp_sliceClean (s : State) (g : Nat) (f : Group → Group) : (modGrp s g f).sliceClean = s.sliceClean := rfl
@[simp] theorem modGrp_sliceDirty (s : State) (g : Nat) (f : Group → Group) : (modGrp s g f).sliceDirty = s.sliceDirty := rfl
@[simp] theorem modGrp_slicePinned (s : State) (g : Nat) (f : Group → Group) : (modGrp s g f).slicePinned = s.slicePinned := rfl
@[simp] theorem modGrp_memKey (s : State) (g : Nat) (f : Group → Group) : (modGrp s g f).memKey = s.memKey := rfl
@[simp] theorem modGrp_ops (s : State) (g : Nat) (f : Group → Group) : (modGrp s g f).ops = s.ops := rfl
@[simp] theorem modGrp_acks (s : State) (g : Nat) (f : Group → Group) : (modGrp s g f).acks = s.acks := rfl
@[simp] theorem modGrp_late (s : State) (g : Nat) (f : Group → Group) : (modGrp s g f).late = s.late := rfl
@[simp] theorem modGrp_fills (s : State) (g : Nat) (f : Group → Group) : (modGrp s g f).fills = s.fills := rfl
@[simp] theorem modGrp_ccStores (s : State) (g : Nat) (f : Group → Group) : (modGrp s g f).ccStores = s.ccStores := rfl
@[simp] theorem modGrp_clusters (s : State) (g : Nat) (f : Group → Group) : (modGrp s g f).clusters = s.clusters := rfl
@[simp] theorem modGrp_clusterTlb (s : State) (g : Nat) (f : Group → Group) : (modGrp s g f).clusterTlb = s.clusterTlb := rfl
@[simp] theorem modGrp_dirs (s : State) (g : Nat) (f : Group → Group) : (modGrp s g f).dirs = s.dirs := rfl
@[simp] theorem modGrp_pkgDir (s : State) (g : Nat) (f : Group → Group) : (modGrp s g f).pkgDir = s.pkgDir := rfl
@[simp] theorem modGrp_msgs (s : State) (g : Nat) (f : Group → Group) : (modGrp s g f).msgs = s.msgs := rfl
@[simp] theorem modGrp_freezes (s : State) (g : Nat) (f : Group → Group) : (modGrp s g f).freezes = s.freezes := rfl
@[simp] theorem modGrp_freezeOps (s : State) (g : Nat) (f : Group → Group) : (modGrp s g f).freezeOps = s.freezeOps := rfl
@[simp] theorem modGrp_queues (s : State) (g : Nat) (f : Group → Group) : (modGrp s g f).queues = s.queues := rfl
@[simp] theorem modGrp_roundPtr (s : State) (g : Nat) (f : Group → Group) : (modGrp s g f).roundPtr = s.roundPtr := rfl
@[simp] theorem modGrp_parts (s : State) (g : Nat) (f : Group → Group) : (modGrp s g f).parts = s.parts := rfl
@[simp] theorem modGrp_ccpart (s : State) (g : Nat) (f : Group → Group) : (modGrp s g f).ccpart = s.ccpart := rfl
@[simp] theorem modGrp_keystat (s : State) (g : Nat) (f : Group → Group) : (modGrp s g f).keystat = s.keystat := rfl
@[simp] theorem modGrp_keyGen (s : State) (g : Nat) (f : Group → Group) : (modGrp s g f).keyGen = s.keyGen := rfl
@[simp] theorem modGrp_pinmap (s : State) (g : Nat) (f : Group → Group) : (modGrp s g f).pinmap = s.pinmap := rfl
@[simp] theorem modGrp_coreoff (s : State) (g : Nat) (f : Group → Group) : (modGrp s g f).coreoff = s.coreoff := rfl
@[simp] theorem modGrp_cxlsz (s : State) (g : Nat) (f : Group → Group) : (modGrp s g f).cxlsz = s.cxlsz := rfl
@[simp] theorem modGrp_launches (s : State) (g : Nat) (f : Group → Group) : (modGrp s g f).launches = s.launches := rfl
@[simp] theorem modGrp_pendingStore (s : State) (g : Nat) (f : Group → Group) : (modGrp s g f).pendingStore = s.pendingStore := rfl
@[simp] theorem modGrp_gone (s : State) (g : Nat) (f : Group → Group) : (modGrp s g f).gone = s.gone := rfl
@[simp] theorem modGrp_activity (s : State) (g : Nat) (f : Group → Group) : (modGrp s g f).activity = s.activity := rfl
@[simp] theorem modGrp_intWrites (s : State) (g : Nat) (f : Group → Group) : (modGrp s g f).intWrites = s.intWrites := rfl
@[simp] theorem modGrp_thermal (s : State) (g : Nat) (f : Group → Group) : (modGrp s g f).thermal = s.thermal := rfl
@[simp] theorem modGrp_measure (s : State) (g : Nat) (f : Group → Group) : (modGrp s g f).measure = s.measure := rfl
@[simp] theorem modGrp_power (s : State) (g : Nat) (f : Group → Group) : (modGrp s g f).power = s.power := rfl
@[simp] theorem modGrp_bootStage (s : State) (g : Nat) (f : Group → Group) : (modGrp s g f).bootStage = s.bootStage := rfl
@[simp] theorem modGrp_bootHalted (s : State) (g : Nat) (f : Group → Group) : (modGrp s g f).bootHalted = s.bootHalted := rfl
@[simp] theorem modGrp_debugUnlocked (s : State) (g : Nat) (f : Group → Group) : (modGrp s g f).debugUnlocked = s.debugUnlocked := rfl
@[simp] theorem modGrp_stagedFw (s : State) (g : Nat) (f : Group → Group) : (modGrp s g f).stagedFw = s.stagedFw := rfl
@[simp] theorem modGrp_firmware (s : State) (g : Nat) (f : Group → Group) : (modGrp s g f).firmware = s.firmware := rfl
@[simp] theorem modGrp_eccCorrected (s : State) (g : Nat) (f : Group → Group) : (modGrp s g f).eccCorrected = s.eccCorrected := rfl
@[simp] theorem modGrp_eccUncorrected (s : State) (g : Nat) (f : Group → Group) : (modGrp s g f).eccUncorrected = s.eccUncorrected := rfl
@[simp] theorem modGrp_portOut (s : State) (g : Nat) (f : Group → Group) : (modGrp s g f).portOut = s.portOut := rfl
@[simp] theorem modGrp_pkg (s : State) (g : Nat) (f : Group → Group) : (modGrp s g f).pkg = s.pkg := rfl
@[simp] theorem modGrp_joined (s : State) (g : Nat) (f : Group → Group) : (modGrp s g f).joined = s.joined := rfl
@[simp] theorem modGrp_ports (s : State) (g : Nat) (f : Group → Group) : (modGrp s g f).ports = s.ports := rfl
@[simp] theorem modGrp_flows (s : State) (g : Nat) (f : Group → Group) : (modGrp s g f).flows = s.flows := rfl
@[simp] theorem modGrp_reqs (s : State) (g : Nat) (f : Group → Group) : (modGrp s g f).reqs = s.reqs := rfl
@[simp] theorem modGrp_dstFlows (s : State) (g : Nat) (f : Group → Group) : (modGrp s g f).dstFlows = s.dstFlows := rfl
@[simp] theorem modGrp_net (s : State) (g : Nat) (f : Group → Group) : (modGrp s g f).net = s.net := rfl
@[simp] theorem modGrp_netReplies (s : State) (g : Nat) (f : Group → Group) : (modGrp s g f).netReplies = s.netReplies := rfl
@[simp] theorem modGrp_flowMsgs (s : State) (g : Nat) (f : Group → Group) : (modGrp s g f).flowMsgs = s.flowMsgs := rfl
@[simp] theorem modGrp_fabKeys (s : State) (g : Nat) (f : Group → Group) : (modGrp s g f).fabKeys = s.fabKeys := rfl
@[simp] theorem modGrp_peers (s : State) (g : Nat) (f : Group → Group) : (modGrp s g f).peers = s.peers := rfl
@[simp] theorem modGrp_lostDevs (s : State) (g : Nat) (f : Group → Group) : (modGrp s g f).lostDevs = s.lostDevs := rfl
@[simp] theorem modGrp_noticed (s : State) (g : Nat) (f : Group → Group) : (modGrp s g f).noticed = s.noticed := rfl
@[simp] theorem modGrp_switches (s : State) (g : Nat) (f : Group → Group) : (modGrp s g f).switches = s.switches := rfl
@[simp] theorem modGrp_mirrorUpds (s : State) (g : Nat) (f : Group → Group) : (modGrp s g f).mirrorUpds = s.mirrorUpds := rfl
@[simp] theorem modGrp_xfers (s : State) (g : Nat) (f : Group → Group) : (modGrp s g f).xfers = s.xfers := rfl

/-! `setCore` changes `cores` only. -/

@[simp] theorem setCore_now (s : State) (c : Nat) (x : Core) : (setCore s c x).now = s.now := rfl
@[simp] theorem setCore_clkOff (s : State) (c : Nat) (x : Core) : (setCore s c x).clkOff = s.clkOff := rfl
@[simp] theorem setCore_agenda (s : State) (c : Nat) (x : Core) : (setCore s c x).agenda = s.agenda := rfl
@[simp] theorem setCore_focus (s : State) (c : Nat) (x : Core) : (setCore s c x).focus = s.focus := rfl
@[simp] theorem setCore_turn (s : State) (c : Nat) (x : Core) : (setCore s c x).turn = s.turn := rfl
@[simp] theorem setCore_freeCtr (s : State) (c : Nat) (x : Core) : (setCore s c x).freeCtr = s.freeCtr := rfl
@[simp] theorem setCore_issueFaults (s : State) (c : Nat) (x : Core) : (setCore s c x).issueFaults = s.issueFaults := rfl
@[simp] theorem setCore_nextIssue (s : State) (c : Nat) (x : Core) : (setCore s c x).nextIssue = s.nextIssue := rfl
@[simp] theorem setCore_nextWg (s : State) (c : Nat) (x : Core) : (setCore s c x).nextWg = s.nextWg := rfl
@[simp] theorem setCore_nextLaunch (s : State) (c : Nat) (x : Core) : (setCore s c x).nextLaunch = s.nextLaunch := rfl
@[simp] theorem setCore_nextSerial (s : State) (c : Nat) (x : Core) : (setCore s c x).nextSerial = s.nextSerial := rfl
@[simp] theorem setCore_nextId (s : State) (c : Nat) (x : Core) : (setCore s c x).nextId = s.nextId := rfl
@[simp] theorem setCore_perfCtr (s : State) (c : Nat) (x : Core) : (setCore s c x).perfCtr = s.perfCtr := rfl
@[simp] theorem setCore_useCtr (s : State) (c : Nat) (x : Core) : (setCore s c x).useCtr = s.useCtr := rfl
@[simp] theorem setCore_threads (s : State) (c : Nat) (x : Core) : (setCore s c x).threads = s.threads := rfl
@[simp] theorem setCore_wgs (s : State) (c : Nat) (x : Core) : (setCore s c x).wgs = s.wgs := rfl
@[simp] theorem setCore_groups (s : State) (c : Nat) (x : Core) : (setCore s c x).groups = s.groups := rfl
@[simp] theorem setCore_cores (s : State) (c : Nat) (x : Core) : (setCore s c x).cores = put s.cores c x := rfl
@[simp] theorem setCore_mem (s : State) (c : Nat) (x : Core) : (setCore s c x).mem = s.mem := rfl
@[simp] theorem setCore_poison (s : State) (c : Nat) (x : Core) : (setCore s c x).poison = s.poison := rfl
@[simp] theorem setCore_sliceClean (s : State) (c : Nat) (x : Core) : (setCore s c x).sliceClean = s.sliceClean := rfl
@[simp] theorem setCore_sliceDirty (s : State) (c : Nat) (x : Core) : (setCore s c x).sliceDirty = s.sliceDirty := rfl
@[simp] theorem setCore_slicePinned (s : State) (c : Nat) (x : Core) : (setCore s c x).slicePinned = s.slicePinned := rfl
@[simp] theorem setCore_memKey (s : State) (c : Nat) (x : Core) : (setCore s c x).memKey = s.memKey := rfl
@[simp] theorem setCore_ops (s : State) (c : Nat) (x : Core) : (setCore s c x).ops = s.ops := rfl
@[simp] theorem setCore_acks (s : State) (c : Nat) (x : Core) : (setCore s c x).acks = s.acks := rfl
@[simp] theorem setCore_late (s : State) (c : Nat) (x : Core) : (setCore s c x).late = s.late := rfl
@[simp] theorem setCore_fills (s : State) (c : Nat) (x : Core) : (setCore s c x).fills = s.fills := rfl
@[simp] theorem setCore_ccStores (s : State) (c : Nat) (x : Core) : (setCore s c x).ccStores = s.ccStores := rfl
@[simp] theorem setCore_clusters (s : State) (c : Nat) (x : Core) : (setCore s c x).clusters = s.clusters := rfl
@[simp] theorem setCore_clusterTlb (s : State) (c : Nat) (x : Core) : (setCore s c x).clusterTlb = s.clusterTlb := rfl
@[simp] theorem setCore_dirs (s : State) (c : Nat) (x : Core) : (setCore s c x).dirs = s.dirs := rfl
@[simp] theorem setCore_pkgDir (s : State) (c : Nat) (x : Core) : (setCore s c x).pkgDir = s.pkgDir := rfl
@[simp] theorem setCore_msgs (s : State) (c : Nat) (x : Core) : (setCore s c x).msgs = s.msgs := rfl
@[simp] theorem setCore_freezes (s : State) (c : Nat) (x : Core) : (setCore s c x).freezes = s.freezes := rfl
@[simp] theorem setCore_freezeOps (s : State) (c : Nat) (x : Core) : (setCore s c x).freezeOps = s.freezeOps := rfl
@[simp] theorem setCore_queues (s : State) (c : Nat) (x : Core) : (setCore s c x).queues = s.queues := rfl
@[simp] theorem setCore_roundPtr (s : State) (c : Nat) (x : Core) : (setCore s c x).roundPtr = s.roundPtr := rfl
@[simp] theorem setCore_parts (s : State) (c : Nat) (x : Core) : (setCore s c x).parts = s.parts := rfl
@[simp] theorem setCore_ccpart (s : State) (c : Nat) (x : Core) : (setCore s c x).ccpart = s.ccpart := rfl
@[simp] theorem setCore_keystat (s : State) (c : Nat) (x : Core) : (setCore s c x).keystat = s.keystat := rfl
@[simp] theorem setCore_keyGen (s : State) (c : Nat) (x : Core) : (setCore s c x).keyGen = s.keyGen := rfl
@[simp] theorem setCore_pinmap (s : State) (c : Nat) (x : Core) : (setCore s c x).pinmap = s.pinmap := rfl
@[simp] theorem setCore_coreoff (s : State) (c : Nat) (x : Core) : (setCore s c x).coreoff = s.coreoff := rfl
@[simp] theorem setCore_cxlsz (s : State) (c : Nat) (x : Core) : (setCore s c x).cxlsz = s.cxlsz := rfl
@[simp] theorem setCore_launches (s : State) (c : Nat) (x : Core) : (setCore s c x).launches = s.launches := rfl
@[simp] theorem setCore_pendingStore (s : State) (c : Nat) (x : Core) : (setCore s c x).pendingStore = s.pendingStore := rfl
@[simp] theorem setCore_gone (s : State) (c : Nat) (x : Core) : (setCore s c x).gone = s.gone := rfl
@[simp] theorem setCore_activity (s : State) (c : Nat) (x : Core) : (setCore s c x).activity = s.activity := rfl
@[simp] theorem setCore_intWrites (s : State) (c : Nat) (x : Core) : (setCore s c x).intWrites = s.intWrites := rfl
@[simp] theorem setCore_thermal (s : State) (c : Nat) (x : Core) : (setCore s c x).thermal = s.thermal := rfl
@[simp] theorem setCore_measure (s : State) (c : Nat) (x : Core) : (setCore s c x).measure = s.measure := rfl
@[simp] theorem setCore_power (s : State) (c : Nat) (x : Core) : (setCore s c x).power = s.power := rfl
@[simp] theorem setCore_bootStage (s : State) (c : Nat) (x : Core) : (setCore s c x).bootStage = s.bootStage := rfl
@[simp] theorem setCore_bootHalted (s : State) (c : Nat) (x : Core) : (setCore s c x).bootHalted = s.bootHalted := rfl
@[simp] theorem setCore_debugUnlocked (s : State) (c : Nat) (x : Core) : (setCore s c x).debugUnlocked = s.debugUnlocked := rfl
@[simp] theorem setCore_stagedFw (s : State) (c : Nat) (x : Core) : (setCore s c x).stagedFw = s.stagedFw := rfl
@[simp] theorem setCore_firmware (s : State) (c : Nat) (x : Core) : (setCore s c x).firmware = s.firmware := rfl
@[simp] theorem setCore_eccCorrected (s : State) (c : Nat) (x : Core) : (setCore s c x).eccCorrected = s.eccCorrected := rfl
@[simp] theorem setCore_eccUncorrected (s : State) (c : Nat) (x : Core) : (setCore s c x).eccUncorrected = s.eccUncorrected := rfl
@[simp] theorem setCore_portOut (s : State) (c : Nat) (x : Core) : (setCore s c x).portOut = s.portOut := rfl
@[simp] theorem setCore_pkg (s : State) (c : Nat) (x : Core) : (setCore s c x).pkg = s.pkg := rfl
@[simp] theorem setCore_joined (s : State) (c : Nat) (x : Core) : (setCore s c x).joined = s.joined := rfl
@[simp] theorem setCore_ports (s : State) (c : Nat) (x : Core) : (setCore s c x).ports = s.ports := rfl
@[simp] theorem setCore_flows (s : State) (c : Nat) (x : Core) : (setCore s c x).flows = s.flows := rfl
@[simp] theorem setCore_reqs (s : State) (c : Nat) (x : Core) : (setCore s c x).reqs = s.reqs := rfl
@[simp] theorem setCore_dstFlows (s : State) (c : Nat) (x : Core) : (setCore s c x).dstFlows = s.dstFlows := rfl
@[simp] theorem setCore_net (s : State) (c : Nat) (x : Core) : (setCore s c x).net = s.net := rfl
@[simp] theorem setCore_netReplies (s : State) (c : Nat) (x : Core) : (setCore s c x).netReplies = s.netReplies := rfl
@[simp] theorem setCore_flowMsgs (s : State) (c : Nat) (x : Core) : (setCore s c x).flowMsgs = s.flowMsgs := rfl
@[simp] theorem setCore_fabKeys (s : State) (c : Nat) (x : Core) : (setCore s c x).fabKeys = s.fabKeys := rfl
@[simp] theorem setCore_peers (s : State) (c : Nat) (x : Core) : (setCore s c x).peers = s.peers := rfl
@[simp] theorem setCore_lostDevs (s : State) (c : Nat) (x : Core) : (setCore s c x).lostDevs = s.lostDevs := rfl
@[simp] theorem setCore_noticed (s : State) (c : Nat) (x : Core) : (setCore s c x).noticed = s.noticed := rfl
@[simp] theorem setCore_switches (s : State) (c : Nat) (x : Core) : (setCore s c x).switches = s.switches := rfl
@[simp] theorem setCore_mirrorUpds (s : State) (c : Nat) (x : Core) : (setCore s c x).mirrorUpds = s.mirrorUpds := rfl
@[simp] theorem setCore_xfers (s : State) (c : Nat) (x : Core) : (setCore s c x).xfers = s.xfers := rfl

/-! `modCore` changes `cores` only. -/

@[simp] theorem modCore_now (s : State) (c : Nat) (f : Core → Core) : (modCore s c f).now = s.now := rfl
@[simp] theorem modCore_clkOff (s : State) (c : Nat) (f : Core → Core) : (modCore s c f).clkOff = s.clkOff := rfl
@[simp] theorem modCore_agenda (s : State) (c : Nat) (f : Core → Core) : (modCore s c f).agenda = s.agenda := rfl
@[simp] theorem modCore_focus (s : State) (c : Nat) (f : Core → Core) : (modCore s c f).focus = s.focus := rfl
@[simp] theorem modCore_turn (s : State) (c : Nat) (f : Core → Core) : (modCore s c f).turn = s.turn := rfl
@[simp] theorem modCore_freeCtr (s : State) (c : Nat) (f : Core → Core) : (modCore s c f).freeCtr = s.freeCtr := rfl
@[simp] theorem modCore_issueFaults (s : State) (c : Nat) (f : Core → Core) : (modCore s c f).issueFaults = s.issueFaults := rfl
@[simp] theorem modCore_nextIssue (s : State) (c : Nat) (f : Core → Core) : (modCore s c f).nextIssue = s.nextIssue := rfl
@[simp] theorem modCore_nextWg (s : State) (c : Nat) (f : Core → Core) : (modCore s c f).nextWg = s.nextWg := rfl
@[simp] theorem modCore_nextLaunch (s : State) (c : Nat) (f : Core → Core) : (modCore s c f).nextLaunch = s.nextLaunch := rfl
@[simp] theorem modCore_nextSerial (s : State) (c : Nat) (f : Core → Core) : (modCore s c f).nextSerial = s.nextSerial := rfl
@[simp] theorem modCore_nextId (s : State) (c : Nat) (f : Core → Core) : (modCore s c f).nextId = s.nextId := rfl
@[simp] theorem modCore_perfCtr (s : State) (c : Nat) (f : Core → Core) : (modCore s c f).perfCtr = s.perfCtr := rfl
@[simp] theorem modCore_useCtr (s : State) (c : Nat) (f : Core → Core) : (modCore s c f).useCtr = s.useCtr := rfl
@[simp] theorem modCore_threads (s : State) (c : Nat) (f : Core → Core) : (modCore s c f).threads = s.threads := rfl
@[simp] theorem modCore_wgs (s : State) (c : Nat) (f : Core → Core) : (modCore s c f).wgs = s.wgs := rfl
@[simp] theorem modCore_groups (s : State) (c : Nat) (f : Core → Core) : (modCore s c f).groups = s.groups := rfl
@[simp] theorem modCore_cores (s : State) (c : Nat) (f : Core → Core) : (modCore s c f).cores = put s.cores c (f (coreAt s c)) := rfl
@[simp] theorem modCore_mem (s : State) (c : Nat) (f : Core → Core) : (modCore s c f).mem = s.mem := rfl
@[simp] theorem modCore_poison (s : State) (c : Nat) (f : Core → Core) : (modCore s c f).poison = s.poison := rfl
@[simp] theorem modCore_sliceClean (s : State) (c : Nat) (f : Core → Core) : (modCore s c f).sliceClean = s.sliceClean := rfl
@[simp] theorem modCore_sliceDirty (s : State) (c : Nat) (f : Core → Core) : (modCore s c f).sliceDirty = s.sliceDirty := rfl
@[simp] theorem modCore_slicePinned (s : State) (c : Nat) (f : Core → Core) : (modCore s c f).slicePinned = s.slicePinned := rfl
@[simp] theorem modCore_memKey (s : State) (c : Nat) (f : Core → Core) : (modCore s c f).memKey = s.memKey := rfl
@[simp] theorem modCore_ops (s : State) (c : Nat) (f : Core → Core) : (modCore s c f).ops = s.ops := rfl
@[simp] theorem modCore_acks (s : State) (c : Nat) (f : Core → Core) : (modCore s c f).acks = s.acks := rfl
@[simp] theorem modCore_late (s : State) (c : Nat) (f : Core → Core) : (modCore s c f).late = s.late := rfl
@[simp] theorem modCore_fills (s : State) (c : Nat) (f : Core → Core) : (modCore s c f).fills = s.fills := rfl
@[simp] theorem modCore_ccStores (s : State) (c : Nat) (f : Core → Core) : (modCore s c f).ccStores = s.ccStores := rfl
@[simp] theorem modCore_clusters (s : State) (c : Nat) (f : Core → Core) : (modCore s c f).clusters = s.clusters := rfl
@[simp] theorem modCore_clusterTlb (s : State) (c : Nat) (f : Core → Core) : (modCore s c f).clusterTlb = s.clusterTlb := rfl
@[simp] theorem modCore_dirs (s : State) (c : Nat) (f : Core → Core) : (modCore s c f).dirs = s.dirs := rfl
@[simp] theorem modCore_pkgDir (s : State) (c : Nat) (f : Core → Core) : (modCore s c f).pkgDir = s.pkgDir := rfl
@[simp] theorem modCore_msgs (s : State) (c : Nat) (f : Core → Core) : (modCore s c f).msgs = s.msgs := rfl
@[simp] theorem modCore_freezes (s : State) (c : Nat) (f : Core → Core) : (modCore s c f).freezes = s.freezes := rfl
@[simp] theorem modCore_freezeOps (s : State) (c : Nat) (f : Core → Core) : (modCore s c f).freezeOps = s.freezeOps := rfl
@[simp] theorem modCore_queues (s : State) (c : Nat) (f : Core → Core) : (modCore s c f).queues = s.queues := rfl
@[simp] theorem modCore_roundPtr (s : State) (c : Nat) (f : Core → Core) : (modCore s c f).roundPtr = s.roundPtr := rfl
@[simp] theorem modCore_parts (s : State) (c : Nat) (f : Core → Core) : (modCore s c f).parts = s.parts := rfl
@[simp] theorem modCore_ccpart (s : State) (c : Nat) (f : Core → Core) : (modCore s c f).ccpart = s.ccpart := rfl
@[simp] theorem modCore_keystat (s : State) (c : Nat) (f : Core → Core) : (modCore s c f).keystat = s.keystat := rfl
@[simp] theorem modCore_keyGen (s : State) (c : Nat) (f : Core → Core) : (modCore s c f).keyGen = s.keyGen := rfl
@[simp] theorem modCore_pinmap (s : State) (c : Nat) (f : Core → Core) : (modCore s c f).pinmap = s.pinmap := rfl
@[simp] theorem modCore_coreoff (s : State) (c : Nat) (f : Core → Core) : (modCore s c f).coreoff = s.coreoff := rfl
@[simp] theorem modCore_cxlsz (s : State) (c : Nat) (f : Core → Core) : (modCore s c f).cxlsz = s.cxlsz := rfl
@[simp] theorem modCore_launches (s : State) (c : Nat) (f : Core → Core) : (modCore s c f).launches = s.launches := rfl
@[simp] theorem modCore_pendingStore (s : State) (c : Nat) (f : Core → Core) : (modCore s c f).pendingStore = s.pendingStore := rfl
@[simp] theorem modCore_gone (s : State) (c : Nat) (f : Core → Core) : (modCore s c f).gone = s.gone := rfl
@[simp] theorem modCore_activity (s : State) (c : Nat) (f : Core → Core) : (modCore s c f).activity = s.activity := rfl
@[simp] theorem modCore_intWrites (s : State) (c : Nat) (f : Core → Core) : (modCore s c f).intWrites = s.intWrites := rfl
@[simp] theorem modCore_thermal (s : State) (c : Nat) (f : Core → Core) : (modCore s c f).thermal = s.thermal := rfl
@[simp] theorem modCore_measure (s : State) (c : Nat) (f : Core → Core) : (modCore s c f).measure = s.measure := rfl
@[simp] theorem modCore_power (s : State) (c : Nat) (f : Core → Core) : (modCore s c f).power = s.power := rfl
@[simp] theorem modCore_bootStage (s : State) (c : Nat) (f : Core → Core) : (modCore s c f).bootStage = s.bootStage := rfl
@[simp] theorem modCore_bootHalted (s : State) (c : Nat) (f : Core → Core) : (modCore s c f).bootHalted = s.bootHalted := rfl
@[simp] theorem modCore_debugUnlocked (s : State) (c : Nat) (f : Core → Core) : (modCore s c f).debugUnlocked = s.debugUnlocked := rfl
@[simp] theorem modCore_stagedFw (s : State) (c : Nat) (f : Core → Core) : (modCore s c f).stagedFw = s.stagedFw := rfl
@[simp] theorem modCore_firmware (s : State) (c : Nat) (f : Core → Core) : (modCore s c f).firmware = s.firmware := rfl
@[simp] theorem modCore_eccCorrected (s : State) (c : Nat) (f : Core → Core) : (modCore s c f).eccCorrected = s.eccCorrected := rfl
@[simp] theorem modCore_eccUncorrected (s : State) (c : Nat) (f : Core → Core) : (modCore s c f).eccUncorrected = s.eccUncorrected := rfl
@[simp] theorem modCore_portOut (s : State) (c : Nat) (f : Core → Core) : (modCore s c f).portOut = s.portOut := rfl
@[simp] theorem modCore_pkg (s : State) (c : Nat) (f : Core → Core) : (modCore s c f).pkg = s.pkg := rfl
@[simp] theorem modCore_joined (s : State) (c : Nat) (f : Core → Core) : (modCore s c f).joined = s.joined := rfl
@[simp] theorem modCore_ports (s : State) (c : Nat) (f : Core → Core) : (modCore s c f).ports = s.ports := rfl
@[simp] theorem modCore_flows (s : State) (c : Nat) (f : Core → Core) : (modCore s c f).flows = s.flows := rfl
@[simp] theorem modCore_reqs (s : State) (c : Nat) (f : Core → Core) : (modCore s c f).reqs = s.reqs := rfl
@[simp] theorem modCore_dstFlows (s : State) (c : Nat) (f : Core → Core) : (modCore s c f).dstFlows = s.dstFlows := rfl
@[simp] theorem modCore_net (s : State) (c : Nat) (f : Core → Core) : (modCore s c f).net = s.net := rfl
@[simp] theorem modCore_netReplies (s : State) (c : Nat) (f : Core → Core) : (modCore s c f).netReplies = s.netReplies := rfl
@[simp] theorem modCore_flowMsgs (s : State) (c : Nat) (f : Core → Core) : (modCore s c f).flowMsgs = s.flowMsgs := rfl
@[simp] theorem modCore_fabKeys (s : State) (c : Nat) (f : Core → Core) : (modCore s c f).fabKeys = s.fabKeys := rfl
@[simp] theorem modCore_peers (s : State) (c : Nat) (f : Core → Core) : (modCore s c f).peers = s.peers := rfl
@[simp] theorem modCore_lostDevs (s : State) (c : Nat) (f : Core → Core) : (modCore s c f).lostDevs = s.lostDevs := rfl
@[simp] theorem modCore_noticed (s : State) (c : Nat) (f : Core → Core) : (modCore s c f).noticed = s.noticed := rfl
@[simp] theorem modCore_switches (s : State) (c : Nat) (f : Core → Core) : (modCore s c f).switches = s.switches := rfl
@[simp] theorem modCore_mirrorUpds (s : State) (c : Nat) (f : Core → Core) : (modCore s c f).mirrorUpds = s.mirrorUpds := rfl
@[simp] theorem modCore_xfers (s : State) (c : Nat) (f : Core → Core) : (modCore s c f).xfers = s.xfers := rfl

/-! `modPart` changes `parts` only. -/

@[simp] theorem modPart_now (s : State) (p : Nat) (f : Partition → Partition) : (modPart s p f).now = s.now := rfl
@[simp] theorem modPart_clkOff (s : State) (p : Nat) (f : Partition → Partition) : (modPart s p f).clkOff = s.clkOff := rfl
@[simp] theorem modPart_agenda (s : State) (p : Nat) (f : Partition → Partition) : (modPart s p f).agenda = s.agenda := rfl
@[simp] theorem modPart_focus (s : State) (p : Nat) (f : Partition → Partition) : (modPart s p f).focus = s.focus := rfl
@[simp] theorem modPart_turn (s : State) (p : Nat) (f : Partition → Partition) : (modPart s p f).turn = s.turn := rfl
@[simp] theorem modPart_freeCtr (s : State) (p : Nat) (f : Partition → Partition) : (modPart s p f).freeCtr = s.freeCtr := rfl
@[simp] theorem modPart_issueFaults (s : State) (p : Nat) (f : Partition → Partition) : (modPart s p f).issueFaults = s.issueFaults := rfl
@[simp] theorem modPart_nextIssue (s : State) (p : Nat) (f : Partition → Partition) : (modPart s p f).nextIssue = s.nextIssue := rfl
@[simp] theorem modPart_nextWg (s : State) (p : Nat) (f : Partition → Partition) : (modPart s p f).nextWg = s.nextWg := rfl
@[simp] theorem modPart_nextLaunch (s : State) (p : Nat) (f : Partition → Partition) : (modPart s p f).nextLaunch = s.nextLaunch := rfl
@[simp] theorem modPart_nextSerial (s : State) (p : Nat) (f : Partition → Partition) : (modPart s p f).nextSerial = s.nextSerial := rfl
@[simp] theorem modPart_nextId (s : State) (p : Nat) (f : Partition → Partition) : (modPart s p f).nextId = s.nextId := rfl
@[simp] theorem modPart_perfCtr (s : State) (p : Nat) (f : Partition → Partition) : (modPart s p f).perfCtr = s.perfCtr := rfl
@[simp] theorem modPart_useCtr (s : State) (p : Nat) (f : Partition → Partition) : (modPart s p f).useCtr = s.useCtr := rfl
@[simp] theorem modPart_threads (s : State) (p : Nat) (f : Partition → Partition) : (modPart s p f).threads = s.threads := rfl
@[simp] theorem modPart_wgs (s : State) (p : Nat) (f : Partition → Partition) : (modPart s p f).wgs = s.wgs := rfl
@[simp] theorem modPart_groups (s : State) (p : Nat) (f : Partition → Partition) : (modPart s p f).groups = s.groups := rfl
@[simp] theorem modPart_cores (s : State) (p : Nat) (f : Partition → Partition) : (modPart s p f).cores = s.cores := rfl
@[simp] theorem modPart_mem (s : State) (p : Nat) (f : Partition → Partition) : (modPart s p f).mem = s.mem := rfl
@[simp] theorem modPart_poison (s : State) (p : Nat) (f : Partition → Partition) : (modPart s p f).poison = s.poison := rfl
@[simp] theorem modPart_sliceClean (s : State) (p : Nat) (f : Partition → Partition) : (modPart s p f).sliceClean = s.sliceClean := rfl
@[simp] theorem modPart_sliceDirty (s : State) (p : Nat) (f : Partition → Partition) : (modPart s p f).sliceDirty = s.sliceDirty := rfl
@[simp] theorem modPart_slicePinned (s : State) (p : Nat) (f : Partition → Partition) : (modPart s p f).slicePinned = s.slicePinned := rfl
@[simp] theorem modPart_memKey (s : State) (p : Nat) (f : Partition → Partition) : (modPart s p f).memKey = s.memKey := rfl
@[simp] theorem modPart_ops (s : State) (p : Nat) (f : Partition → Partition) : (modPart s p f).ops = s.ops := rfl
@[simp] theorem modPart_acks (s : State) (p : Nat) (f : Partition → Partition) : (modPart s p f).acks = s.acks := rfl
@[simp] theorem modPart_late (s : State) (p : Nat) (f : Partition → Partition) : (modPart s p f).late = s.late := rfl
@[simp] theorem modPart_fills (s : State) (p : Nat) (f : Partition → Partition) : (modPart s p f).fills = s.fills := rfl
@[simp] theorem modPart_ccStores (s : State) (p : Nat) (f : Partition → Partition) : (modPart s p f).ccStores = s.ccStores := rfl
@[simp] theorem modPart_clusters (s : State) (p : Nat) (f : Partition → Partition) : (modPart s p f).clusters = s.clusters := rfl
@[simp] theorem modPart_clusterTlb (s : State) (p : Nat) (f : Partition → Partition) : (modPart s p f).clusterTlb = s.clusterTlb := rfl
@[simp] theorem modPart_dirs (s : State) (p : Nat) (f : Partition → Partition) : (modPart s p f).dirs = s.dirs := rfl
@[simp] theorem modPart_pkgDir (s : State) (p : Nat) (f : Partition → Partition) : (modPart s p f).pkgDir = s.pkgDir := rfl
@[simp] theorem modPart_msgs (s : State) (p : Nat) (f : Partition → Partition) : (modPart s p f).msgs = s.msgs := rfl
@[simp] theorem modPart_freezes (s : State) (p : Nat) (f : Partition → Partition) : (modPart s p f).freezes = s.freezes := rfl
@[simp] theorem modPart_freezeOps (s : State) (p : Nat) (f : Partition → Partition) : (modPart s p f).freezeOps = s.freezeOps := rfl
@[simp] theorem modPart_queues (s : State) (p : Nat) (f : Partition → Partition) : (modPart s p f).queues = s.queues := rfl
@[simp] theorem modPart_roundPtr (s : State) (p : Nat) (f : Partition → Partition) : (modPart s p f).roundPtr = s.roundPtr := rfl
@[simp] theorem modPart_parts (s : State) (p : Nat) (f : Partition → Partition) : (modPart s p f).parts = modAt s.parts p f := rfl
@[simp] theorem modPart_ccpart (s : State) (p : Nat) (f : Partition → Partition) : (modPart s p f).ccpart = s.ccpart := rfl
@[simp] theorem modPart_keystat (s : State) (p : Nat) (f : Partition → Partition) : (modPart s p f).keystat = s.keystat := rfl
@[simp] theorem modPart_keyGen (s : State) (p : Nat) (f : Partition → Partition) : (modPart s p f).keyGen = s.keyGen := rfl
@[simp] theorem modPart_pinmap (s : State) (p : Nat) (f : Partition → Partition) : (modPart s p f).pinmap = s.pinmap := rfl
@[simp] theorem modPart_coreoff (s : State) (p : Nat) (f : Partition → Partition) : (modPart s p f).coreoff = s.coreoff := rfl
@[simp] theorem modPart_cxlsz (s : State) (p : Nat) (f : Partition → Partition) : (modPart s p f).cxlsz = s.cxlsz := rfl
@[simp] theorem modPart_launches (s : State) (p : Nat) (f : Partition → Partition) : (modPart s p f).launches = s.launches := rfl
@[simp] theorem modPart_pendingStore (s : State) (p : Nat) (f : Partition → Partition) : (modPart s p f).pendingStore = s.pendingStore := rfl
@[simp] theorem modPart_gone (s : State) (p : Nat) (f : Partition → Partition) : (modPart s p f).gone = s.gone := rfl
@[simp] theorem modPart_activity (s : State) (p : Nat) (f : Partition → Partition) : (modPart s p f).activity = s.activity := rfl
@[simp] theorem modPart_intWrites (s : State) (p : Nat) (f : Partition → Partition) : (modPart s p f).intWrites = s.intWrites := rfl
@[simp] theorem modPart_thermal (s : State) (p : Nat) (f : Partition → Partition) : (modPart s p f).thermal = s.thermal := rfl
@[simp] theorem modPart_measure (s : State) (p : Nat) (f : Partition → Partition) : (modPart s p f).measure = s.measure := rfl
@[simp] theorem modPart_power (s : State) (p : Nat) (f : Partition → Partition) : (modPart s p f).power = s.power := rfl
@[simp] theorem modPart_bootStage (s : State) (p : Nat) (f : Partition → Partition) : (modPart s p f).bootStage = s.bootStage := rfl
@[simp] theorem modPart_bootHalted (s : State) (p : Nat) (f : Partition → Partition) : (modPart s p f).bootHalted = s.bootHalted := rfl
@[simp] theorem modPart_debugUnlocked (s : State) (p : Nat) (f : Partition → Partition) : (modPart s p f).debugUnlocked = s.debugUnlocked := rfl
@[simp] theorem modPart_stagedFw (s : State) (p : Nat) (f : Partition → Partition) : (modPart s p f).stagedFw = s.stagedFw := rfl
@[simp] theorem modPart_firmware (s : State) (p : Nat) (f : Partition → Partition) : (modPart s p f).firmware = s.firmware := rfl
@[simp] theorem modPart_eccCorrected (s : State) (p : Nat) (f : Partition → Partition) : (modPart s p f).eccCorrected = s.eccCorrected := rfl
@[simp] theorem modPart_eccUncorrected (s : State) (p : Nat) (f : Partition → Partition) : (modPart s p f).eccUncorrected = s.eccUncorrected := rfl
@[simp] theorem modPart_portOut (s : State) (p : Nat) (f : Partition → Partition) : (modPart s p f).portOut = s.portOut := rfl
@[simp] theorem modPart_pkg (s : State) (p : Nat) (f : Partition → Partition) : (modPart s p f).pkg = s.pkg := rfl
@[simp] theorem modPart_joined (s : State) (p : Nat) (f : Partition → Partition) : (modPart s p f).joined = s.joined := rfl
@[simp] theorem modPart_ports (s : State) (p : Nat) (f : Partition → Partition) : (modPart s p f).ports = s.ports := rfl
@[simp] theorem modPart_flows (s : State) (p : Nat) (f : Partition → Partition) : (modPart s p f).flows = s.flows := rfl
@[simp] theorem modPart_reqs (s : State) (p : Nat) (f : Partition → Partition) : (modPart s p f).reqs = s.reqs := rfl
@[simp] theorem modPart_dstFlows (s : State) (p : Nat) (f : Partition → Partition) : (modPart s p f).dstFlows = s.dstFlows := rfl
@[simp] theorem modPart_net (s : State) (p : Nat) (f : Partition → Partition) : (modPart s p f).net = s.net := rfl
@[simp] theorem modPart_netReplies (s : State) (p : Nat) (f : Partition → Partition) : (modPart s p f).netReplies = s.netReplies := rfl
@[simp] theorem modPart_flowMsgs (s : State) (p : Nat) (f : Partition → Partition) : (modPart s p f).flowMsgs = s.flowMsgs := rfl
@[simp] theorem modPart_fabKeys (s : State) (p : Nat) (f : Partition → Partition) : (modPart s p f).fabKeys = s.fabKeys := rfl
@[simp] theorem modPart_peers (s : State) (p : Nat) (f : Partition → Partition) : (modPart s p f).peers = s.peers := rfl
@[simp] theorem modPart_lostDevs (s : State) (p : Nat) (f : Partition → Partition) : (modPart s p f).lostDevs = s.lostDevs := rfl
@[simp] theorem modPart_noticed (s : State) (p : Nat) (f : Partition → Partition) : (modPart s p f).noticed = s.noticed := rfl
@[simp] theorem modPart_switches (s : State) (p : Nat) (f : Partition → Partition) : (modPart s p f).switches = s.switches := rfl
@[simp] theorem modPart_mirrorUpds (s : State) (p : Nat) (f : Partition → Partition) : (modPart s p f).mirrorUpds = s.mirrorUpds := rfl
@[simp] theorem modPart_xfers (s : State) (p : Nat) (f : Partition → Partition) : (modPart s p f).xfers = s.xfers := rfl

/-! `modQueue` changes `queues` only. -/

@[simp] theorem modQueue_now (s : State) (q : Nat) (f : Queue → Queue) : (modQueue s q f).now = s.now := rfl
@[simp] theorem modQueue_clkOff (s : State) (q : Nat) (f : Queue → Queue) : (modQueue s q f).clkOff = s.clkOff := rfl
@[simp] theorem modQueue_agenda (s : State) (q : Nat) (f : Queue → Queue) : (modQueue s q f).agenda = s.agenda := rfl
@[simp] theorem modQueue_focus (s : State) (q : Nat) (f : Queue → Queue) : (modQueue s q f).focus = s.focus := rfl
@[simp] theorem modQueue_turn (s : State) (q : Nat) (f : Queue → Queue) : (modQueue s q f).turn = s.turn := rfl
@[simp] theorem modQueue_freeCtr (s : State) (q : Nat) (f : Queue → Queue) : (modQueue s q f).freeCtr = s.freeCtr := rfl
@[simp] theorem modQueue_issueFaults (s : State) (q : Nat) (f : Queue → Queue) : (modQueue s q f).issueFaults = s.issueFaults := rfl
@[simp] theorem modQueue_nextIssue (s : State) (q : Nat) (f : Queue → Queue) : (modQueue s q f).nextIssue = s.nextIssue := rfl
@[simp] theorem modQueue_nextWg (s : State) (q : Nat) (f : Queue → Queue) : (modQueue s q f).nextWg = s.nextWg := rfl
@[simp] theorem modQueue_nextLaunch (s : State) (q : Nat) (f : Queue → Queue) : (modQueue s q f).nextLaunch = s.nextLaunch := rfl
@[simp] theorem modQueue_nextSerial (s : State) (q : Nat) (f : Queue → Queue) : (modQueue s q f).nextSerial = s.nextSerial := rfl
@[simp] theorem modQueue_nextId (s : State) (q : Nat) (f : Queue → Queue) : (modQueue s q f).nextId = s.nextId := rfl
@[simp] theorem modQueue_perfCtr (s : State) (q : Nat) (f : Queue → Queue) : (modQueue s q f).perfCtr = s.perfCtr := rfl
@[simp] theorem modQueue_useCtr (s : State) (q : Nat) (f : Queue → Queue) : (modQueue s q f).useCtr = s.useCtr := rfl
@[simp] theorem modQueue_threads (s : State) (q : Nat) (f : Queue → Queue) : (modQueue s q f).threads = s.threads := rfl
@[simp] theorem modQueue_wgs (s : State) (q : Nat) (f : Queue → Queue) : (modQueue s q f).wgs = s.wgs := rfl
@[simp] theorem modQueue_groups (s : State) (q : Nat) (f : Queue → Queue) : (modQueue s q f).groups = s.groups := rfl
@[simp] theorem modQueue_cores (s : State) (q : Nat) (f : Queue → Queue) : (modQueue s q f).cores = s.cores := rfl
@[simp] theorem modQueue_mem (s : State) (q : Nat) (f : Queue → Queue) : (modQueue s q f).mem = s.mem := rfl
@[simp] theorem modQueue_poison (s : State) (q : Nat) (f : Queue → Queue) : (modQueue s q f).poison = s.poison := rfl
@[simp] theorem modQueue_sliceClean (s : State) (q : Nat) (f : Queue → Queue) : (modQueue s q f).sliceClean = s.sliceClean := rfl
@[simp] theorem modQueue_sliceDirty (s : State) (q : Nat) (f : Queue → Queue) : (modQueue s q f).sliceDirty = s.sliceDirty := rfl
@[simp] theorem modQueue_slicePinned (s : State) (q : Nat) (f : Queue → Queue) : (modQueue s q f).slicePinned = s.slicePinned := rfl
@[simp] theorem modQueue_memKey (s : State) (q : Nat) (f : Queue → Queue) : (modQueue s q f).memKey = s.memKey := rfl
@[simp] theorem modQueue_ops (s : State) (q : Nat) (f : Queue → Queue) : (modQueue s q f).ops = s.ops := rfl
@[simp] theorem modQueue_acks (s : State) (q : Nat) (f : Queue → Queue) : (modQueue s q f).acks = s.acks := rfl
@[simp] theorem modQueue_late (s : State) (q : Nat) (f : Queue → Queue) : (modQueue s q f).late = s.late := rfl
@[simp] theorem modQueue_fills (s : State) (q : Nat) (f : Queue → Queue) : (modQueue s q f).fills = s.fills := rfl
@[simp] theorem modQueue_ccStores (s : State) (q : Nat) (f : Queue → Queue) : (modQueue s q f).ccStores = s.ccStores := rfl
@[simp] theorem modQueue_clusters (s : State) (q : Nat) (f : Queue → Queue) : (modQueue s q f).clusters = s.clusters := rfl
@[simp] theorem modQueue_clusterTlb (s : State) (q : Nat) (f : Queue → Queue) : (modQueue s q f).clusterTlb = s.clusterTlb := rfl
@[simp] theorem modQueue_dirs (s : State) (q : Nat) (f : Queue → Queue) : (modQueue s q f).dirs = s.dirs := rfl
@[simp] theorem modQueue_pkgDir (s : State) (q : Nat) (f : Queue → Queue) : (modQueue s q f).pkgDir = s.pkgDir := rfl
@[simp] theorem modQueue_msgs (s : State) (q : Nat) (f : Queue → Queue) : (modQueue s q f).msgs = s.msgs := rfl
@[simp] theorem modQueue_freezes (s : State) (q : Nat) (f : Queue → Queue) : (modQueue s q f).freezes = s.freezes := rfl
@[simp] theorem modQueue_freezeOps (s : State) (q : Nat) (f : Queue → Queue) : (modQueue s q f).freezeOps = s.freezeOps := rfl
@[simp] theorem modQueue_queues (s : State) (q : Nat) (f : Queue → Queue) : (modQueue s q f).queues = put s.queues q (f (queueAt s q)) := rfl
@[simp] theorem modQueue_roundPtr (s : State) (q : Nat) (f : Queue → Queue) : (modQueue s q f).roundPtr = s.roundPtr := rfl
@[simp] theorem modQueue_parts (s : State) (q : Nat) (f : Queue → Queue) : (modQueue s q f).parts = s.parts := rfl
@[simp] theorem modQueue_ccpart (s : State) (q : Nat) (f : Queue → Queue) : (modQueue s q f).ccpart = s.ccpart := rfl
@[simp] theorem modQueue_keystat (s : State) (q : Nat) (f : Queue → Queue) : (modQueue s q f).keystat = s.keystat := rfl
@[simp] theorem modQueue_keyGen (s : State) (q : Nat) (f : Queue → Queue) : (modQueue s q f).keyGen = s.keyGen := rfl
@[simp] theorem modQueue_pinmap (s : State) (q : Nat) (f : Queue → Queue) : (modQueue s q f).pinmap = s.pinmap := rfl
@[simp] theorem modQueue_coreoff (s : State) (q : Nat) (f : Queue → Queue) : (modQueue s q f).coreoff = s.coreoff := rfl
@[simp] theorem modQueue_cxlsz (s : State) (q : Nat) (f : Queue → Queue) : (modQueue s q f).cxlsz = s.cxlsz := rfl
@[simp] theorem modQueue_launches (s : State) (q : Nat) (f : Queue → Queue) : (modQueue s q f).launches = s.launches := rfl
@[simp] theorem modQueue_pendingStore (s : State) (q : Nat) (f : Queue → Queue) : (modQueue s q f).pendingStore = s.pendingStore := rfl
@[simp] theorem modQueue_gone (s : State) (q : Nat) (f : Queue → Queue) : (modQueue s q f).gone = s.gone := rfl
@[simp] theorem modQueue_activity (s : State) (q : Nat) (f : Queue → Queue) : (modQueue s q f).activity = s.activity := rfl
@[simp] theorem modQueue_intWrites (s : State) (q : Nat) (f : Queue → Queue) : (modQueue s q f).intWrites = s.intWrites := rfl
@[simp] theorem modQueue_thermal (s : State) (q : Nat) (f : Queue → Queue) : (modQueue s q f).thermal = s.thermal := rfl
@[simp] theorem modQueue_measure (s : State) (q : Nat) (f : Queue → Queue) : (modQueue s q f).measure = s.measure := rfl
@[simp] theorem modQueue_power (s : State) (q : Nat) (f : Queue → Queue) : (modQueue s q f).power = s.power := rfl
@[simp] theorem modQueue_bootStage (s : State) (q : Nat) (f : Queue → Queue) : (modQueue s q f).bootStage = s.bootStage := rfl
@[simp] theorem modQueue_bootHalted (s : State) (q : Nat) (f : Queue → Queue) : (modQueue s q f).bootHalted = s.bootHalted := rfl
@[simp] theorem modQueue_debugUnlocked (s : State) (q : Nat) (f : Queue → Queue) : (modQueue s q f).debugUnlocked = s.debugUnlocked := rfl
@[simp] theorem modQueue_stagedFw (s : State) (q : Nat) (f : Queue → Queue) : (modQueue s q f).stagedFw = s.stagedFw := rfl
@[simp] theorem modQueue_firmware (s : State) (q : Nat) (f : Queue → Queue) : (modQueue s q f).firmware = s.firmware := rfl
@[simp] theorem modQueue_eccCorrected (s : State) (q : Nat) (f : Queue → Queue) : (modQueue s q f).eccCorrected = s.eccCorrected := rfl
@[simp] theorem modQueue_eccUncorrected (s : State) (q : Nat) (f : Queue → Queue) : (modQueue s q f).eccUncorrected = s.eccUncorrected := rfl
@[simp] theorem modQueue_portOut (s : State) (q : Nat) (f : Queue → Queue) : (modQueue s q f).portOut = s.portOut := rfl
@[simp] theorem modQueue_pkg (s : State) (q : Nat) (f : Queue → Queue) : (modQueue s q f).pkg = s.pkg := rfl
@[simp] theorem modQueue_joined (s : State) (q : Nat) (f : Queue → Queue) : (modQueue s q f).joined = s.joined := rfl
@[simp] theorem modQueue_ports (s : State) (q : Nat) (f : Queue → Queue) : (modQueue s q f).ports = s.ports := rfl
@[simp] theorem modQueue_flows (s : State) (q : Nat) (f : Queue → Queue) : (modQueue s q f).flows = s.flows := rfl
@[simp] theorem modQueue_reqs (s : State) (q : Nat) (f : Queue → Queue) : (modQueue s q f).reqs = s.reqs := rfl
@[simp] theorem modQueue_dstFlows (s : State) (q : Nat) (f : Queue → Queue) : (modQueue s q f).dstFlows = s.dstFlows := rfl
@[simp] theorem modQueue_net (s : State) (q : Nat) (f : Queue → Queue) : (modQueue s q f).net = s.net := rfl
@[simp] theorem modQueue_netReplies (s : State) (q : Nat) (f : Queue → Queue) : (modQueue s q f).netReplies = s.netReplies := rfl
@[simp] theorem modQueue_flowMsgs (s : State) (q : Nat) (f : Queue → Queue) : (modQueue s q f).flowMsgs = s.flowMsgs := rfl
@[simp] theorem modQueue_fabKeys (s : State) (q : Nat) (f : Queue → Queue) : (modQueue s q f).fabKeys = s.fabKeys := rfl
@[simp] theorem modQueue_peers (s : State) (q : Nat) (f : Queue → Queue) : (modQueue s q f).peers = s.peers := rfl
@[simp] theorem modQueue_lostDevs (s : State) (q : Nat) (f : Queue → Queue) : (modQueue s q f).lostDevs = s.lostDevs := rfl
@[simp] theorem modQueue_noticed (s : State) (q : Nat) (f : Queue → Queue) : (modQueue s q f).noticed = s.noticed := rfl
@[simp] theorem modQueue_switches (s : State) (q : Nat) (f : Queue → Queue) : (modQueue s q f).switches = s.switches := rfl
@[simp] theorem modQueue_mirrorUpds (s : State) (q : Nat) (f : Queue → Queue) : (modQueue s q f).mirrorUpds = s.mirrorUpds := rfl
@[simp] theorem modQueue_xfers (s : State) (q : Nat) (f : Queue → Queue) : (modQueue s q f).xfers = s.xfers := rfl

/-! `modLaunch` changes `launches` only. -/

@[simp] theorem modLaunch_now (s : State) (l : Nat) (f : Launch → Launch) : (modLaunch s l f).now = s.now := rfl
@[simp] theorem modLaunch_clkOff (s : State) (l : Nat) (f : Launch → Launch) : (modLaunch s l f).clkOff = s.clkOff := rfl
@[simp] theorem modLaunch_agenda (s : State) (l : Nat) (f : Launch → Launch) : (modLaunch s l f).agenda = s.agenda := rfl
@[simp] theorem modLaunch_focus (s : State) (l : Nat) (f : Launch → Launch) : (modLaunch s l f).focus = s.focus := rfl
@[simp] theorem modLaunch_turn (s : State) (l : Nat) (f : Launch → Launch) : (modLaunch s l f).turn = s.turn := rfl
@[simp] theorem modLaunch_freeCtr (s : State) (l : Nat) (f : Launch → Launch) : (modLaunch s l f).freeCtr = s.freeCtr := rfl
@[simp] theorem modLaunch_issueFaults (s : State) (l : Nat) (f : Launch → Launch) : (modLaunch s l f).issueFaults = s.issueFaults := rfl
@[simp] theorem modLaunch_nextIssue (s : State) (l : Nat) (f : Launch → Launch) : (modLaunch s l f).nextIssue = s.nextIssue := rfl
@[simp] theorem modLaunch_nextWg (s : State) (l : Nat) (f : Launch → Launch) : (modLaunch s l f).nextWg = s.nextWg := rfl
@[simp] theorem modLaunch_nextLaunch (s : State) (l : Nat) (f : Launch → Launch) : (modLaunch s l f).nextLaunch = s.nextLaunch := rfl
@[simp] theorem modLaunch_nextSerial (s : State) (l : Nat) (f : Launch → Launch) : (modLaunch s l f).nextSerial = s.nextSerial := rfl
@[simp] theorem modLaunch_nextId (s : State) (l : Nat) (f : Launch → Launch) : (modLaunch s l f).nextId = s.nextId := rfl
@[simp] theorem modLaunch_perfCtr (s : State) (l : Nat) (f : Launch → Launch) : (modLaunch s l f).perfCtr = s.perfCtr := rfl
@[simp] theorem modLaunch_useCtr (s : State) (l : Nat) (f : Launch → Launch) : (modLaunch s l f).useCtr = s.useCtr := rfl
@[simp] theorem modLaunch_threads (s : State) (l : Nat) (f : Launch → Launch) : (modLaunch s l f).threads = s.threads := rfl
@[simp] theorem modLaunch_wgs (s : State) (l : Nat) (f : Launch → Launch) : (modLaunch s l f).wgs = s.wgs := rfl
@[simp] theorem modLaunch_groups (s : State) (l : Nat) (f : Launch → Launch) : (modLaunch s l f).groups = s.groups := rfl
@[simp] theorem modLaunch_cores (s : State) (l : Nat) (f : Launch → Launch) : (modLaunch s l f).cores = s.cores := rfl
@[simp] theorem modLaunch_mem (s : State) (l : Nat) (f : Launch → Launch) : (modLaunch s l f).mem = s.mem := rfl
@[simp] theorem modLaunch_poison (s : State) (l : Nat) (f : Launch → Launch) : (modLaunch s l f).poison = s.poison := rfl
@[simp] theorem modLaunch_sliceClean (s : State) (l : Nat) (f : Launch → Launch) : (modLaunch s l f).sliceClean = s.sliceClean := rfl
@[simp] theorem modLaunch_sliceDirty (s : State) (l : Nat) (f : Launch → Launch) : (modLaunch s l f).sliceDirty = s.sliceDirty := rfl
@[simp] theorem modLaunch_slicePinned (s : State) (l : Nat) (f : Launch → Launch) : (modLaunch s l f).slicePinned = s.slicePinned := rfl
@[simp] theorem modLaunch_memKey (s : State) (l : Nat) (f : Launch → Launch) : (modLaunch s l f).memKey = s.memKey := rfl
@[simp] theorem modLaunch_ops (s : State) (l : Nat) (f : Launch → Launch) : (modLaunch s l f).ops = s.ops := rfl
@[simp] theorem modLaunch_acks (s : State) (l : Nat) (f : Launch → Launch) : (modLaunch s l f).acks = s.acks := rfl
@[simp] theorem modLaunch_late (s : State) (l : Nat) (f : Launch → Launch) : (modLaunch s l f).late = s.late := rfl
@[simp] theorem modLaunch_fills (s : State) (l : Nat) (f : Launch → Launch) : (modLaunch s l f).fills = s.fills := rfl
@[simp] theorem modLaunch_ccStores (s : State) (l : Nat) (f : Launch → Launch) : (modLaunch s l f).ccStores = s.ccStores := rfl
@[simp] theorem modLaunch_clusters (s : State) (l : Nat) (f : Launch → Launch) : (modLaunch s l f).clusters = s.clusters := rfl
@[simp] theorem modLaunch_clusterTlb (s : State) (l : Nat) (f : Launch → Launch) : (modLaunch s l f).clusterTlb = s.clusterTlb := rfl
@[simp] theorem modLaunch_dirs (s : State) (l : Nat) (f : Launch → Launch) : (modLaunch s l f).dirs = s.dirs := rfl
@[simp] theorem modLaunch_pkgDir (s : State) (l : Nat) (f : Launch → Launch) : (modLaunch s l f).pkgDir = s.pkgDir := rfl
@[simp] theorem modLaunch_msgs (s : State) (l : Nat) (f : Launch → Launch) : (modLaunch s l f).msgs = s.msgs := rfl
@[simp] theorem modLaunch_freezes (s : State) (l : Nat) (f : Launch → Launch) : (modLaunch s l f).freezes = s.freezes := rfl
@[simp] theorem modLaunch_freezeOps (s : State) (l : Nat) (f : Launch → Launch) : (modLaunch s l f).freezeOps = s.freezeOps := rfl
@[simp] theorem modLaunch_queues (s : State) (l : Nat) (f : Launch → Launch) : (modLaunch s l f).queues = s.queues := rfl
@[simp] theorem modLaunch_roundPtr (s : State) (l : Nat) (f : Launch → Launch) : (modLaunch s l f).roundPtr = s.roundPtr := rfl
@[simp] theorem modLaunch_parts (s : State) (l : Nat) (f : Launch → Launch) : (modLaunch s l f).parts = s.parts := rfl
@[simp] theorem modLaunch_ccpart (s : State) (l : Nat) (f : Launch → Launch) : (modLaunch s l f).ccpart = s.ccpart := rfl
@[simp] theorem modLaunch_keystat (s : State) (l : Nat) (f : Launch → Launch) : (modLaunch s l f).keystat = s.keystat := rfl
@[simp] theorem modLaunch_keyGen (s : State) (l : Nat) (f : Launch → Launch) : (modLaunch s l f).keyGen = s.keyGen := rfl
@[simp] theorem modLaunch_pinmap (s : State) (l : Nat) (f : Launch → Launch) : (modLaunch s l f).pinmap = s.pinmap := rfl
@[simp] theorem modLaunch_coreoff (s : State) (l : Nat) (f : Launch → Launch) : (modLaunch s l f).coreoff = s.coreoff := rfl
@[simp] theorem modLaunch_cxlsz (s : State) (l : Nat) (f : Launch → Launch) : (modLaunch s l f).cxlsz = s.cxlsz := rfl
@[simp] theorem modLaunch_launches (s : State) (l : Nat) (f : Launch → Launch) : (modLaunch s l f).launches = alter s.launches l f := rfl
@[simp] theorem modLaunch_pendingStore (s : State) (l : Nat) (f : Launch → Launch) : (modLaunch s l f).pendingStore = s.pendingStore := rfl
@[simp] theorem modLaunch_gone (s : State) (l : Nat) (f : Launch → Launch) : (modLaunch s l f).gone = s.gone := rfl
@[simp] theorem modLaunch_activity (s : State) (l : Nat) (f : Launch → Launch) : (modLaunch s l f).activity = s.activity := rfl
@[simp] theorem modLaunch_intWrites (s : State) (l : Nat) (f : Launch → Launch) : (modLaunch s l f).intWrites = s.intWrites := rfl
@[simp] theorem modLaunch_thermal (s : State) (l : Nat) (f : Launch → Launch) : (modLaunch s l f).thermal = s.thermal := rfl
@[simp] theorem modLaunch_measure (s : State) (l : Nat) (f : Launch → Launch) : (modLaunch s l f).measure = s.measure := rfl
@[simp] theorem modLaunch_power (s : State) (l : Nat) (f : Launch → Launch) : (modLaunch s l f).power = s.power := rfl
@[simp] theorem modLaunch_bootStage (s : State) (l : Nat) (f : Launch → Launch) : (modLaunch s l f).bootStage = s.bootStage := rfl
@[simp] theorem modLaunch_bootHalted (s : State) (l : Nat) (f : Launch → Launch) : (modLaunch s l f).bootHalted = s.bootHalted := rfl
@[simp] theorem modLaunch_debugUnlocked (s : State) (l : Nat) (f : Launch → Launch) : (modLaunch s l f).debugUnlocked = s.debugUnlocked := rfl
@[simp] theorem modLaunch_stagedFw (s : State) (l : Nat) (f : Launch → Launch) : (modLaunch s l f).stagedFw = s.stagedFw := rfl
@[simp] theorem modLaunch_firmware (s : State) (l : Nat) (f : Launch → Launch) : (modLaunch s l f).firmware = s.firmware := rfl
@[simp] theorem modLaunch_eccCorrected (s : State) (l : Nat) (f : Launch → Launch) : (modLaunch s l f).eccCorrected = s.eccCorrected := rfl
@[simp] theorem modLaunch_eccUncorrected (s : State) (l : Nat) (f : Launch → Launch) : (modLaunch s l f).eccUncorrected = s.eccUncorrected := rfl
@[simp] theorem modLaunch_portOut (s : State) (l : Nat) (f : Launch → Launch) : (modLaunch s l f).portOut = s.portOut := rfl
@[simp] theorem modLaunch_pkg (s : State) (l : Nat) (f : Launch → Launch) : (modLaunch s l f).pkg = s.pkg := rfl
@[simp] theorem modLaunch_joined (s : State) (l : Nat) (f : Launch → Launch) : (modLaunch s l f).joined = s.joined := rfl
@[simp] theorem modLaunch_ports (s : State) (l : Nat) (f : Launch → Launch) : (modLaunch s l f).ports = s.ports := rfl
@[simp] theorem modLaunch_flows (s : State) (l : Nat) (f : Launch → Launch) : (modLaunch s l f).flows = s.flows := rfl
@[simp] theorem modLaunch_reqs (s : State) (l : Nat) (f : Launch → Launch) : (modLaunch s l f).reqs = s.reqs := rfl
@[simp] theorem modLaunch_dstFlows (s : State) (l : Nat) (f : Launch → Launch) : (modLaunch s l f).dstFlows = s.dstFlows := rfl
@[simp] theorem modLaunch_net (s : State) (l : Nat) (f : Launch → Launch) : (modLaunch s l f).net = s.net := rfl
@[simp] theorem modLaunch_netReplies (s : State) (l : Nat) (f : Launch → Launch) : (modLaunch s l f).netReplies = s.netReplies := rfl
@[simp] theorem modLaunch_flowMsgs (s : State) (l : Nat) (f : Launch → Launch) : (modLaunch s l f).flowMsgs = s.flowMsgs := rfl
@[simp] theorem modLaunch_fabKeys (s : State) (l : Nat) (f : Launch → Launch) : (modLaunch s l f).fabKeys = s.fabKeys := rfl
@[simp] theorem modLaunch_peers (s : State) (l : Nat) (f : Launch → Launch) : (modLaunch s l f).peers = s.peers := rfl
@[simp] theorem modLaunch_lostDevs (s : State) (l : Nat) (f : Launch → Launch) : (modLaunch s l f).lostDevs = s.lostDevs := rfl
@[simp] theorem modLaunch_noticed (s : State) (l : Nat) (f : Launch → Launch) : (modLaunch s l f).noticed = s.noticed := rfl
@[simp] theorem modLaunch_switches (s : State) (l : Nat) (f : Launch → Launch) : (modLaunch s l f).switches = s.switches := rfl
@[simp] theorem modLaunch_mirrorUpds (s : State) (l : Nat) (f : Launch → Launch) : (modLaunch s l f).mirrorUpds = s.mirrorUpds := rfl
@[simp] theorem modLaunch_xfers (s : State) (l : Nat) (f : Launch → Launch) : (modLaunch s l f).xfers = s.xfers := rfl

/-! `modOp` changes `ops` only. -/

@[simp] theorem modOp_now (s : State) (k : Nat) (f : Op → Op) : (modOp s k f).now = s.now := rfl
@[simp] theorem modOp_clkOff (s : State) (k : Nat) (f : Op → Op) : (modOp s k f).clkOff = s.clkOff := rfl
@[simp] theorem modOp_agenda (s : State) (k : Nat) (f : Op → Op) : (modOp s k f).agenda = s.agenda := rfl
@[simp] theorem modOp_focus (s : State) (k : Nat) (f : Op → Op) : (modOp s k f).focus = s.focus := rfl
@[simp] theorem modOp_turn (s : State) (k : Nat) (f : Op → Op) : (modOp s k f).turn = s.turn := rfl
@[simp] theorem modOp_freeCtr (s : State) (k : Nat) (f : Op → Op) : (modOp s k f).freeCtr = s.freeCtr := rfl
@[simp] theorem modOp_issueFaults (s : State) (k : Nat) (f : Op → Op) : (modOp s k f).issueFaults = s.issueFaults := rfl
@[simp] theorem modOp_nextIssue (s : State) (k : Nat) (f : Op → Op) : (modOp s k f).nextIssue = s.nextIssue := rfl
@[simp] theorem modOp_nextWg (s : State) (k : Nat) (f : Op → Op) : (modOp s k f).nextWg = s.nextWg := rfl
@[simp] theorem modOp_nextLaunch (s : State) (k : Nat) (f : Op → Op) : (modOp s k f).nextLaunch = s.nextLaunch := rfl
@[simp] theorem modOp_nextSerial (s : State) (k : Nat) (f : Op → Op) : (modOp s k f).nextSerial = s.nextSerial := rfl
@[simp] theorem modOp_nextId (s : State) (k : Nat) (f : Op → Op) : (modOp s k f).nextId = s.nextId := rfl
@[simp] theorem modOp_perfCtr (s : State) (k : Nat) (f : Op → Op) : (modOp s k f).perfCtr = s.perfCtr := rfl
@[simp] theorem modOp_useCtr (s : State) (k : Nat) (f : Op → Op) : (modOp s k f).useCtr = s.useCtr := rfl
@[simp] theorem modOp_threads (s : State) (k : Nat) (f : Op → Op) : (modOp s k f).threads = s.threads := rfl
@[simp] theorem modOp_wgs (s : State) (k : Nat) (f : Op → Op) : (modOp s k f).wgs = s.wgs := rfl
@[simp] theorem modOp_groups (s : State) (k : Nat) (f : Op → Op) : (modOp s k f).groups = s.groups := rfl
@[simp] theorem modOp_cores (s : State) (k : Nat) (f : Op → Op) : (modOp s k f).cores = s.cores := rfl
@[simp] theorem modOp_mem (s : State) (k : Nat) (f : Op → Op) : (modOp s k f).mem = s.mem := rfl
@[simp] theorem modOp_poison (s : State) (k : Nat) (f : Op → Op) : (modOp s k f).poison = s.poison := rfl
@[simp] theorem modOp_sliceClean (s : State) (k : Nat) (f : Op → Op) : (modOp s k f).sliceClean = s.sliceClean := rfl
@[simp] theorem modOp_sliceDirty (s : State) (k : Nat) (f : Op → Op) : (modOp s k f).sliceDirty = s.sliceDirty := rfl
@[simp] theorem modOp_slicePinned (s : State) (k : Nat) (f : Op → Op) : (modOp s k f).slicePinned = s.slicePinned := rfl
@[simp] theorem modOp_memKey (s : State) (k : Nat) (f : Op → Op) : (modOp s k f).memKey = s.memKey := rfl
@[simp] theorem modOp_ops (s : State) (k : Nat) (f : Op → Op) : (modOp s k f).ops = alter s.ops k f := rfl
@[simp] theorem modOp_acks (s : State) (k : Nat) (f : Op → Op) : (modOp s k f).acks = s.acks := rfl
@[simp] theorem modOp_late (s : State) (k : Nat) (f : Op → Op) : (modOp s k f).late = s.late := rfl
@[simp] theorem modOp_fills (s : State) (k : Nat) (f : Op → Op) : (modOp s k f).fills = s.fills := rfl
@[simp] theorem modOp_ccStores (s : State) (k : Nat) (f : Op → Op) : (modOp s k f).ccStores = s.ccStores := rfl
@[simp] theorem modOp_clusters (s : State) (k : Nat) (f : Op → Op) : (modOp s k f).clusters = s.clusters := rfl
@[simp] theorem modOp_clusterTlb (s : State) (k : Nat) (f : Op → Op) : (modOp s k f).clusterTlb = s.clusterTlb := rfl
@[simp] theorem modOp_dirs (s : State) (k : Nat) (f : Op → Op) : (modOp s k f).dirs = s.dirs := rfl
@[simp] theorem modOp_pkgDir (s : State) (k : Nat) (f : Op → Op) : (modOp s k f).pkgDir = s.pkgDir := rfl
@[simp] theorem modOp_msgs (s : State) (k : Nat) (f : Op → Op) : (modOp s k f).msgs = s.msgs := rfl
@[simp] theorem modOp_freezes (s : State) (k : Nat) (f : Op → Op) : (modOp s k f).freezes = s.freezes := rfl
@[simp] theorem modOp_freezeOps (s : State) (k : Nat) (f : Op → Op) : (modOp s k f).freezeOps = s.freezeOps := rfl
@[simp] theorem modOp_queues (s : State) (k : Nat) (f : Op → Op) : (modOp s k f).queues = s.queues := rfl
@[simp] theorem modOp_roundPtr (s : State) (k : Nat) (f : Op → Op) : (modOp s k f).roundPtr = s.roundPtr := rfl
@[simp] theorem modOp_parts (s : State) (k : Nat) (f : Op → Op) : (modOp s k f).parts = s.parts := rfl
@[simp] theorem modOp_ccpart (s : State) (k : Nat) (f : Op → Op) : (modOp s k f).ccpart = s.ccpart := rfl
@[simp] theorem modOp_keystat (s : State) (k : Nat) (f : Op → Op) : (modOp s k f).keystat = s.keystat := rfl
@[simp] theorem modOp_keyGen (s : State) (k : Nat) (f : Op → Op) : (modOp s k f).keyGen = s.keyGen := rfl
@[simp] theorem modOp_pinmap (s : State) (k : Nat) (f : Op → Op) : (modOp s k f).pinmap = s.pinmap := rfl
@[simp] theorem modOp_coreoff (s : State) (k : Nat) (f : Op → Op) : (modOp s k f).coreoff = s.coreoff := rfl
@[simp] theorem modOp_cxlsz (s : State) (k : Nat) (f : Op → Op) : (modOp s k f).cxlsz = s.cxlsz := rfl
@[simp] theorem modOp_launches (s : State) (k : Nat) (f : Op → Op) : (modOp s k f).launches = s.launches := rfl
@[simp] theorem modOp_pendingStore (s : State) (k : Nat) (f : Op → Op) : (modOp s k f).pendingStore = s.pendingStore := rfl
@[simp] theorem modOp_gone (s : State) (k : Nat) (f : Op → Op) : (modOp s k f).gone = s.gone := rfl
@[simp] theorem modOp_activity (s : State) (k : Nat) (f : Op → Op) : (modOp s k f).activity = s.activity := rfl
@[simp] theorem modOp_intWrites (s : State) (k : Nat) (f : Op → Op) : (modOp s k f).intWrites = s.intWrites := rfl
@[simp] theorem modOp_thermal (s : State) (k : Nat) (f : Op → Op) : (modOp s k f).thermal = s.thermal := rfl
@[simp] theorem modOp_measure (s : State) (k : Nat) (f : Op → Op) : (modOp s k f).measure = s.measure := rfl
@[simp] theorem modOp_power (s : State) (k : Nat) (f : Op → Op) : (modOp s k f).power = s.power := rfl
@[simp] theorem modOp_bootStage (s : State) (k : Nat) (f : Op → Op) : (modOp s k f).bootStage = s.bootStage := rfl
@[simp] theorem modOp_bootHalted (s : State) (k : Nat) (f : Op → Op) : (modOp s k f).bootHalted = s.bootHalted := rfl
@[simp] theorem modOp_debugUnlocked (s : State) (k : Nat) (f : Op → Op) : (modOp s k f).debugUnlocked = s.debugUnlocked := rfl
@[simp] theorem modOp_stagedFw (s : State) (k : Nat) (f : Op → Op) : (modOp s k f).stagedFw = s.stagedFw := rfl
@[simp] theorem modOp_firmware (s : State) (k : Nat) (f : Op → Op) : (modOp s k f).firmware = s.firmware := rfl
@[simp] theorem modOp_eccCorrected (s : State) (k : Nat) (f : Op → Op) : (modOp s k f).eccCorrected = s.eccCorrected := rfl
@[simp] theorem modOp_eccUncorrected (s : State) (k : Nat) (f : Op → Op) : (modOp s k f).eccUncorrected = s.eccUncorrected := rfl
@[simp] theorem modOp_portOut (s : State) (k : Nat) (f : Op → Op) : (modOp s k f).portOut = s.portOut := rfl
@[simp] theorem modOp_pkg (s : State) (k : Nat) (f : Op → Op) : (modOp s k f).pkg = s.pkg := rfl
@[simp] theorem modOp_joined (s : State) (k : Nat) (f : Op → Op) : (modOp s k f).joined = s.joined := rfl
@[simp] theorem modOp_ports (s : State) (k : Nat) (f : Op → Op) : (modOp s k f).ports = s.ports := rfl
@[simp] theorem modOp_flows (s : State) (k : Nat) (f : Op → Op) : (modOp s k f).flows = s.flows := rfl
@[simp] theorem modOp_reqs (s : State) (k : Nat) (f : Op → Op) : (modOp s k f).reqs = s.reqs := rfl
@[simp] theorem modOp_dstFlows (s : State) (k : Nat) (f : Op → Op) : (modOp s k f).dstFlows = s.dstFlows := rfl
@[simp] theorem modOp_net (s : State) (k : Nat) (f : Op → Op) : (modOp s k f).net = s.net := rfl
@[simp] theorem modOp_netReplies (s : State) (k : Nat) (f : Op → Op) : (modOp s k f).netReplies = s.netReplies := rfl
@[simp] theorem modOp_flowMsgs (s : State) (k : Nat) (f : Op → Op) : (modOp s k f).flowMsgs = s.flowMsgs := rfl
@[simp] theorem modOp_fabKeys (s : State) (k : Nat) (f : Op → Op) : (modOp s k f).fabKeys = s.fabKeys := rfl
@[simp] theorem modOp_peers (s : State) (k : Nat) (f : Op → Op) : (modOp s k f).peers = s.peers := rfl
@[simp] theorem modOp_lostDevs (s : State) (k : Nat) (f : Op → Op) : (modOp s k f).lostDevs = s.lostDevs := rfl
@[simp] theorem modOp_noticed (s : State) (k : Nat) (f : Op → Op) : (modOp s k f).noticed = s.noticed := rfl
@[simp] theorem modOp_switches (s : State) (k : Nat) (f : Op → Op) : (modOp s k f).switches = s.switches := rfl
@[simp] theorem modOp_mirrorUpds (s : State) (k : Nat) (f : Op → Op) : (modOp s k f).mirrorUpds = s.mirrorUpds := rfl
@[simp] theorem modOp_xfers (s : State) (k : Nat) (f : Op → Op) : (modOp s k f).xfers = s.xfers := rfl

end Sys2Proof.Machine
end

