-- ==== Sys2Proof/Laws/Issue.lean ====
section
/-! SUPPORT. What the issue of a word does: the word step where the word issues, waits or parks, and what the end of the issue leaves. -/

namespace Sys2Proof.Machine

theorem filter_eq_self_of_all {α : Type} {p : α → Bool} {l : List α} (h : l.all p = true) : l.filter p = l :=
  List.filter_eq_self.mpr (by simpa using h)

theorem filter_not_eq_nil {α : Type} {p : α → Bool} {l : List α} (h : l.all p = true) : l.filter (fun x => !p x) = [] := by
  simpa [List.filter_eq_nil_iff] using h

/-! ## Threads after an update -/

theorem thOf_modTh (s : State) (t u : Nat) (f : Thread → Thread) :
    thOf (modTh s t f) u = if u = t then (thOf s t).map f else thOf s u := look_alter _ _ _ _

@[simp] theorem thOf_modTh_same (s : State) (t : Nat) (f : Thread → Thread) : thOf (modTh s t f) t = (thOf s t).map f := by
  simp [thOf_modTh]

theorem thOf_modTh_other (s : State) {t u : Nat} (f : Thread → Thread) (h : u ≠ t) : thOf (modTh s t f) u = thOf s u := by
  simp [thOf_modTh, h]

theorem thOf_setTh (s : State) (t u : Nat) (x : Thread) : thOf (setTh s t x) u = if u = t then some x else thOf s u :=
  look_put _ _ _ _

/-- Setting a thread to what a change of it gives is the change. -/
theorem setTh_eq_modTh {s : State} {t : Nat} {th : Thread} (h : thOf s t = some th) (f : Thread → Thread) :
    setTh s t (f th) = modTh s t f := by
  unfold setTh modTh alter
  unfold thOf at h
  rw [h]

/-- Threads changed one after another by a change of their own: each member is changed once, and no other thread. -/
theorem thOf_foldl_modTh (f : Nat → Thread → Thread) (ts : List Nat) (s : State) (nd : ts.Nodup) (u : Nat) :
    thOf (ts.foldl (fun s t => modTh s t (f t)) s) u = if u ∈ ts then (thOf s u).map (f u) else thOf s u := by
  induction ts generalizing s with
  | nil => simp
  | cons t ts ih =>
    obtain ⟨ht, nd⟩ := List.nodup_cons.mp nd
    simp only [List.foldl_cons, ih _ nd, thOf_modTh, List.mem_cons]
    by_cases e : u = t
    · subst e; simp [ht]
    · simp [e]

theorem isInFlight_noteRelease (i : Instr) (s : State) (ts : List Nat) (u : Nat) :
    isInFlight (noteRelease i s ts) u = isInFlight s u := by
  unfold noteRelease
  split
  · induction ts generalizing s with
    | nil => rfl
    | cons t ts ih =>
      rw [List.foldl_cons, ih]
      simp only [isInFlight, thOf_modTh]
      by_cases e : u = t
      · subst e; cases h : thOf s u <;> simp
      · simp [e]
  · rfl

/-! ## What the entry of an issue leaves as it was -/

section Enter
variable (i : Instr) (s : State) (f : Option Nat) (n c : Nat) (ts : List Nat)

theorem entriesNeeded_enter : entriesNeeded i { s with focus := f, nextIssue := n } ts = entriesNeeded i s ts := by unfold entriesNeeded; rfl

theorem entriesFree_enter : entriesFree i { s with focus := f, nextIssue := n } c = entriesFree i s c := by
  unfold entriesFree entriesTaken; rfl

theorem exceedsQueue_enter : exceedsQueue i { s with focus := f, nextIssue := n } ts = exceedsQueue i s ts := by
  unfold exceedsQueue; rw [entriesNeeded_enter]

theorem fittingPrefix_enter (k : Nat) : fittingPrefix i { s with focus := f, nextIssue := n } k ts = fittingPrefix i s k ts := by
  induction ts generalizing k with
  | nil => rfl
  | cons t ts ih => simp only [fittingPrefix, entriesNeeded_enter, ih]

theorem stallAmong_enter : stallAmong i { s with focus := f, nextIssue := n } c ts = stallAmong i s c ts := by
  have h : entriesLack i { s with focus := f, nextIssue := n } c ts = entriesLack i s c ts := by
    unfold entriesLack
    rw [exceedsQueue_enter, entriesFree_enter, fittingPrefix_enter, entriesNeeded_enter]
  have e : stallOf i { s with focus := f, nextIssue := n } = stallOf i s := funext (stallOf_refocus i s f n)
  unfold stallAmong
  rw [h, e]

end Enter

/-- Where no member meets an unread error, reading its sources changes nothing. -/
theorem meetErrors_none {i : Instr} {n : Nat} {s : State} {ts : List Nat} (h : ∀ t ∈ ts, meetsErrorHere i s t = false) :
    meetErrors i n s ts = s := by
  unfold meetErrors
  induction ts with
  | nil => rfl
  | cons t ts ih =>
    rw [List.foldl_cons]
    simp only [h t (by simp), Bool.false_eq_true, if_false]
    exact ih fun u hu => h u (by simp [hu])

/-! ## The word step -/

/-- Where a word issues for its whole group, its effect acts on the state after the implicit commits, and the issue ends. -/
theorem wordStep_issues {i : Instr} {s : State} {g : Nat} {G : Group} (h : issuesNow i s g G = true)
    (body : Nat → List Nat → State → State) :
    wordStep i body s = finishWord (countWork i G.members (body s.nextIssue G.members (issued i s G))) g G s.nextIssue (isSpanEnd i) := by
  simp only [issuesNow, Bool.and_eq_true, decide_eq_true_eq] at h
  obtain ⟨⟨⟨⟨⟨⟨⟨⟨hf, hg⟩, hl⟩, hs⟩, hq⟩, hi⟩, ht⟩, hp⟩, he⟩ := h
  have hg' : grpOf { s with focus := none } g = some G := hg
  have hl' : G.members.all (fun t => legalHere i s t && !txStops i s t) = true := by
    simp only [List.all_eq_true, Bool.and_eq_true] at hl ⊢
    exact fun t m => (hl t m).1
  have hr : G.members.filter (fun t => legalHere i { s with focus := none } t && !txStops i { s with focus := none } t
      && !hasActed { s with focus := none } t) = G.members := filter_eq_self_of_all hl
  have hr' : G.members.filter (fun t => !(legalHere i { s with focus := none, nextIssue := s.nextIssue + 1 } t
      && !txStops i { s with focus := none, nextIssue := s.nextIssue + 1 } t)) = [] := filter_not_eq_nil hl'
  have hq' : exceedsQueue i { s with focus := none, nextIssue := s.nextIssue + 1 } G.members = false := by
    rw [exceedsQueue_enter]; simpa using hq
  have hs' : stallAmong i { s with focus := none } G.core G.members = none := by
    cases hx : stallAmong i { s with focus := none } G.core G.members with
    | none => rfl
    | some y =>
      have : stallAmong i s G.core G.members = some y := (stallAmong_enter i s none s.nextIssue G.core G.members).symm.trans hx
      simp [this] at hs
  have hc : ∀ t, preCommit i { s with focus := none, nextIssue := s.nextIssue + 1 } t = preCommit i s t := fun _ => rfl
  have hi' : G.members.filter (isInFlight (commitBefore (entered s) s.nextIssue (G.members.filter (preCommit i s)))) = G.members := by
    refine filter_eq_self_of_all ?_
    simpa only [issued, isInFlight_noteRelease, List.all_eq_true] using hi
  have hp' : G.members.findSome? (phaseStallHere i (issued i s G)) = none := Option.isNone_iff_eq_none.mp hp
  have he' : ∀ t ∈ G.members, meetsErrorHere i (issued i s G) t = false := by simpa using he
  unfold wordStep
  simp only [hf, hg', hr, hr', hs', List.foldl_nil, hq', Bool.false_eq_true, if_false]
  have hc' : G.members.filter (preCommit i { s with focus := none, nextIssue := s.nextIssue + 1 }) = G.members.filter (preCommit i s) := rfl
  rw [hc']
  change wordActs i body g G s.nextIssue (commitBefore (entered s) s.nextIssue (G.members.filter (preCommit i s))) G.members = _
  unfold wordActs
  simp only [hi']
  change (if (!G.members.all (settled i (issued i s G))) = true then _ else _) = _
  simp only [ht, Bool.not_true, Bool.false_eq_true, if_false]
  change (match G.members.findSome? (phaseStallHere i (issued i s G)) with
    | some _ => _
    | none => finishWord (countWork i G.members (body s.nextIssue G.members (meetErrors i s.nextIssue (issued i s G) G.members))) g G s.nextIssue (isSpanEnd i)) = _
  rw [hp', meetErrors_none he']

/-- The outcome of a word that issues for its whole group. -/
theorem runWord_issues {i : Instr} {s : State} {g : Nat} {G : Group} (h : issuesNow i s g G = true)
    (body : Nat → List Nat → State → State) :
    runWord i body s = .next (finishWord (countWork i G.members (body s.nextIssue G.members (issued i s G))) g G s.nextIssue (isSpanEnd i)) := by
  rw [runWord, wordStep_issues h]

/-- What the issue of a word in focus needs of the state. -/
theorem issuesNow_focus {i : Instr} {s : State} {g : Nat} {G : Group} (h : issuesNow i s g G = true) :
    s.focus = some g ∧ grpOf s g = some G := by
  simp only [issuesNow, Bool.and_eq_true, decide_eq_true_eq] at h
  exact h.1.1.1.1.1.1.1

theorem issuesNow_inFlight {i : Instr} {s : State} {g : Nat} {G : Group} (h : issuesNow i s g G = true) {t : Nat} (ht : t ∈ G.members) :
    isInFlight (issued i s G) t = true := by
  simp only [issuesNow, Bool.and_eq_true] at h
  exact List.all_eq_true.mp h.1.1.1.2 t ht

theorem commitBefore_nil (s : State) (n : Nat) : commitBefore s n [] = s := rfl

/-- A word that is no release and commits nothing acts at once. -/
theorem issued_plain {i : Instr} (s : State) (G : Group) (hr : isRelease i = false) (hc : ∀ t ∈ G.members, preCommit i s t = false) :
    issued i s G = entered s := by
  unfold issued
  have : G.members.filter (preCommit i s) = [] := by
    rw [List.filter_eq_nil_iff]
    intro t ht
    simp [hc t ht]
  rw [this, commitBefore_nil]
  simp [noteRelease, hr]

/-! ## The end of an issue -/

theorem sameOutside_refl (s : State) : sameOutside s s := rfl

theorem sameOutside_trans {s t u : State} (h : sameOutside s t) (k : sameOutside t u) : sameOutside s u := by
  unfold sameOutside at *
  rw [k, h]

theorem sameOutside_modTh (s : State) (t : Nat) (f : Thread → Thread) : sameOutside s (modTh s t f) := rfl
theorem sameOutside_setTh (s : State) (t : Nat) (x : Thread) : sameOutside s (setTh s t x) := rfl

theorem sameOutside_foldl {β : Type} (f : State → β → State) (hf : ∀ s b, sameOutside s (f s b)) (l : List β) (s : State) :
    sameOutside s (l.foldl f s) := by
  induction l generalizing s with
  | nil => rfl
  | cons b l ih => exact sameOutside_trans (hf s b) (ih _)

theorem sameOutside_endIssue (s : State) (n : Nat) : sameOutside s (endIssue s n) := by
  unfold endIssue; split <;> rfl

theorem sameOutside_trimGroup (s : State) (g : Nat) : sameOutside s (trimGroup s g) := by
  unfold trimGroup
  split
  · rfl
  · simp only
    split <;> rfl

theorem sameOutside_endOpportunity (s : State) (c p : Nat) (o : Option (List Nat)) : sameOutside s (endOpportunity s c p o) := by
  unfold endOpportunity nextTurn
  simp only
  split
  · split
    · rfl
    · split <;> rfl
  · rfl

theorem sameOutside_countWork (i : Instr) (ts : List Nat) (s : State) : sameOutside s (countWork i ts s) := rfl

@[simp] theorem thOf_countWork (i : Instr) (ts : List Nat) (s : State) (t : Nat) : thOf (countWork i ts s) t = thOf s t := rfl
@[simp] theorem wgAt_countWork (i : Instr) (ts : List Nat) (s : State) (k : Nat) : wgAt (countWork i ts s) k = wgAt s k := rfl

theorem sameOutside_entered (s : State) : sameOutside s (entered s) := rfl

theorem sameOutside_moveOn (s : State) (g : Nat) (G : Group) (e : Bool) : sameOutside s (moveOn s g G e) := by
  unfold moveOn
  split
  · rfl
  · exact sameOutside_trans (sameOutside_foldl _ (fun s t => sameOutside_modTh s t _) _ _) (sameOutside_trimGroup _ _)

theorem sameOutside_finishWord (s : State) (g : Nat) (G : Group) (n : Nat) (e : Bool) : sameOutside s (finishWord s g G n e) :=
  sameOutside_trans (sameOutside_endIssue s n) (sameOutside_trans (sameOutside_moveOn _ _ _ _) (sameOutside_endOpportunity _ _ _ _))

/-! ### Threads at the end of an issue -/

@[simp] theorem thOf_endIssue (s : State) (n t : Nat) : thOf (endIssue s n) t = thOf s t := by
  unfold endIssue; split <;> rfl

@[simp] theorem thOf_trimGroup (s : State) (g t : Nat) : thOf (trimGroup s g) t = thOf s t := by
  unfold trimGroup
  split
  · rfl
  · simp only
    split <;> rfl

/-- An opportunity that ends changes of a thread no more than its wait after a YIELD. -/
theorem thOf_endOpportunity (s : State) (c p : Nat) (o : Option (List Nat)) (t : Nat) :
    thOf (endOpportunity s c p o) t = (thOf s t).map fun th => { th with cond := yieldCond c p o s t th } := by
  have hy : thOf (endOpportunity s c p o) t = thOf (yieldTick c p o s) t := by
    unfold endOpportunity nextTurn
    simp only
    split
    · split
      · rfl
      · split <;> rfl
    · rfl
  rw [hy]
  exact look_map s.threads (fun t th => { th with cond := yieldCond c p o s t th }) t

theorem yieldCond_still {s : State} {t : Nat} {th : Thread} (hc : th.cond = .inFlight ∨ ∃ n, th.cond = .ready n 0) (c p : Nat)
    (o : Option (List Nat)) : yieldCond c p o s t th = th.cond := by
  unfold yieldCond
  rcases hc with e | ⟨n, e⟩ <;> rw [e] <;> cases wgAt s (wgOf t) <;> simp

/-- A thread that is in flight, or ready without a wait, stays as it is when an opportunity ends. -/
theorem thOf_endOpportunity_still {s : State} {t : Nat} {th : Thread} (h : thOf s t = some th)
    (hc : th.cond = .inFlight ∨ ∃ n, th.cond = .ready n 0) (c p : Nat) (o : Option (List Nat)) :
    thOf (endOpportunity s c p o) t = some th := by
  rw [thOf_endOpportunity, h, Option.map_some, yieldCond_still hc]

theorem sameButWait_endOpportunity {s : State} {t : Nat} {th : Thread} (h : thOf s t = some th) (c p : Nat) (o : Option (List Nat)) :
    ∃ th', thOf (endOpportunity s c p o) t = some th' ∧ sameButWait th th' :=
  ⟨{ th with cond := yieldCond c p o s t th }, by rw [thOf_endOpportunity, h]; rfl, rfl⟩

theorem thOf_moveOn (s : State) (g : Nat) (G : Group) (e : Bool) (nd : G.members.Nodup) (t : Nat) :
    thOf (moveOn s g G e) t =
      if e = false ∧ t ∈ G.members ∧ isInFlight s t = true then (thOf s t).map fun th => { th with off := th.off + 1, acted := false } else thOf s t := by
  unfold moveOn
  cases e
  · simp only [Bool.false_eq_true, if_false, thOf_trimGroup]
    rw [thOf_foldl_modTh (fun _ th => { th with off := th.off + 1, acted := false }) _ _ (nd.filter _)]
    simp [List.mem_filter]
  · simp; rfl

/-- A word that ends no span: a member that is still in flight stands at the next word. -/
theorem thOf_finishWord_member {s : State} {g : Nat} {G : Group} {n t : Nat} {th : Thread} (nd : G.members.Nodup) (ht : t ∈ G.members)
    (h : thOf s t = some th) (hc : th.cond = .inFlight) :
    thOf (finishWord s g G n false) t = some { th with off := th.off + 1, acted := false } := by
  unfold finishWord
  refine thOf_endOpportunity_still (th := { th with off := th.off + 1, acted := false }) ?_ (.inl hc) _ _ _
  rw [thOf_moveOn _ _ _ _ nd, if_pos ⟨rfl, ht, by simp [isInFlight, h, hc]⟩, thOf_endIssue, h, Option.map_some]

/-- A word that ends no span: a member that is no longer in flight, and every other thread, stays where the word put it, but for its wait. -/
theorem thOf_finishWord_out {s : State} {g : Nat} {G : Group} {n t : Nat} {th : Thread} (nd : G.members.Nodup)
    (h : thOf s t = some th) (hc : t ∉ G.members ∨ th.cond ≠ .inFlight) :
    ∃ th', thOf (finishWord s g G n false) t = some th' ∧ sameButWait th th' := by
  unfold finishWord
  refine sameButWait_endOpportunity ?_ _ _ _
  rw [thOf_moveOn _ _ _ _ nd, if_neg, thOf_endIssue, h]
  rintro ⟨-, h1, h2⟩
  rcases hc with hc | hc
  · exact hc h1
  · simp [isInFlight, h, hc] at h2

theorem thOf_moveOn_spanEnd (s : State) (g : Nat) (G : Group) (t : Nat) : thOf (moveOn s g G true) t = thOf s t := rfl

/-- A span end leaves every thread where the word put it, but for waits. -/
theorem thOf_finishWord_spanEnd {s : State} {g : Nat} {G : Group} {n t : Nat} {th : Thread} (h : thOf s t = some th) :
    ∃ th', thOf (finishWord s g G n true) t = some th' ∧ sameButWait th th' :=
  sameButWait_endOpportunity (by rw [thOf_moveOn_spanEnd, thOf_endIssue, h]) _ _ _

/-- A span end leaves a thread that is ready without a wait exactly where the word put it. -/
theorem thOf_finishWord_ready {s : State} {g : Nat} {G : Group} {n t m : Nat} {th : Thread} (h : thOf s t = some th)
    (hc : th.cond = .ready m 0) : thOf (finishWord s g G n true) t = some th :=
  thOf_endOpportunity_still (by rw [thOf_moveOn_spanEnd, thOf_endIssue, h]) (.inr ⟨m, hc⟩) _ _ _

/-- A thread that a word has ended stays ended. -/
theorem thOf_finishWord_none {s : State} {g : Nat} {G : Group} {n t : Nat} (e : Bool) (nd : G.members.Nodup) (h : thOf s t = none) :
    thOf (finishWord s g G n e) t = none := by
  unfold finishWord
  rw [thOf_endOpportunity, thOf_moveOn _ _ _ _ nd, thOf_endIssue, h]
  simp

end Sys2Proof.Machine
end

