-- ==== Sys2Proof/Laws/Arith.lean ====
section
/-! SUPPORT. What the shared operations of arithmetic words do: one equation for the effect on each member of the group, and the rest of the
state as it was. -/

namespace Sys2Proof.Machine

theorem readSrc_noPort {s : State} {t : Nat} {th : Thread} {w : Workgroup} (h : thOf s t = some th) (hw : wgAt s (wgOf t) = some w)
    {u : RegUse} (p : isPort w u.reg = false) : readSrc s t u = (valOf (readRegs th u.reg u.n), s) := by
  simp [readSrc, h, hw, p]

theorem readSrcs_noPort {s : State} {t : Nat} {th : Thread} {w : Workgroup} (h : thOf s t = some th) (hw : wgAt s (wgOf t) = some w)
    (us : List RegUse) (p : ∀ u ∈ us, isPort w u.reg = false) :
    readSrcs s t us = (us.map fun u => valOf (readRegs th u.reg u.n), s) := by
  induction us with
  | nil => rfl
  | cons u us ih =>
    rw [readSrcs, readSrc_noPort h hw (p u (by simp))]
    simp only [ih fun v hv => p v (List.mem_cons_of_mem _ hv), List.map_cons]

theorem setTh_setTh (s : State) (t : Nat) (x y : Thread) : setTh (setTh s t x) t y = setTh s t y := by
  have : ∀ m : NMap Thread, put (put m t x) t y = put m t y := by
    intro m
    induction m with
    | nil => simp [put]
    | cons p m ih =>
      obtain ⟨k, v⟩ := p
      simp only [put]
      split
      · simp [put]
      · split
        · simp [put]
        · simp [put, *]
  simp [setTh, this]

theorem setTh_self {s : State} {t : Nat} {th : Thread} (h : thOf s t = some th) : setTh s t th = s := by
  unfold setTh
  rw [put_look _ _ _ h]

theorem writeDst_foldl_noPort {s : State} {t : Nat} {th : Thread} {w : Workgroup} (h : thOf s t = some th)
    (hw : wgAt s (wgOf t) = some w) (us : List RegUse) (p : ∀ u ∈ us, isPort w u.reg = false) (v : Val) :
    us.foldl (fun s u => writeDst s t u v) s = setTh s t (us.foldl (fun th u => setRegs th u.reg (resultRegs u.n v)) th) := by
  induction us generalizing s th with
  | nil => simp [setTh_self h]
  | cons u us ih =>
    have e : writeDst s t u v = setTh s t (setRegs th u.reg (resultRegs u.n v)) := by
      simp [writeDst, h, hw, p u (by simp)]
    have k := ih (s := setTh s t (setRegs th u.reg (resultRegs u.n v))) (th := setRegs th u.reg (resultRegs u.n v)) (by simp [thOf_setTh]) hw
      fun x hx => p x (List.mem_cons_of_mem _ hx)
    rw [List.foldl_cons, e, k, setTh_setTh, List.foldl_cons]

/-- A thread's part of an arithmetic word without queue ports: the result of its sources in its destinations, and nothing else. -/
theorem arithThread_noPort {s : State} {t : Nat} {th : Thread} {w : Workgroup} (h : thOf s t = some th) (hw : wgAt s (wgOf t) = some w)
    (i : Instr) (p : ∀ u ∈ usesOf i, isPort w u.reg = false) (g : List Val → Val) :
    arithThread (usesOf i) g s t = modTh s t fun th => withResult i th (g (sourceVals i th)) := by
  rw [← setTh_eq_modTh h fun th => withResult i th (g (sourceVals i th))]
  unfold arithThread
  rw [readSrcs_noPort h hw _ fun u hu => p u (List.mem_filter.mp hu).1]
  simp only
  rw [writeDst_foldl_noPort h hw _ fun u hu => p u (List.mem_filter.mp hu).1]
  rfl

/-- The threads and workgroups of a group whose word is legal are there. -/
theorem legalHere_there {i : Instr} {s : State} {t : Nat} (h : legalHere i s t = true) :
    ∃ th w, thOf s t = some th ∧ wgAt s (wgOf t) = some w := by
  unfold legalHere at h
  split at h
  · rename_i th w a b; exact ⟨th, w, a, b⟩
  · simp at h

theorem issuesNow_legal {i : Instr} {s : State} {g : Nat} {G : Group} (h : issuesNow i s g G = true) {t : Nat} (ht : t ∈ G.members) :
    legalHere i s t = true := by
  simp only [issuesNow, Bool.and_eq_true] at h
  have := List.all_eq_true.mp h.1.1.1.1.1.1.2 t ht
  simp only [Bool.and_eq_true] at this
  exact this.1.1

theorem noPorts_at {i : Instr} {s : State} {G : Group} (h : noPorts i s G = true) {t : Nat} (ht : t ∈ G.members) {w : Workgroup}
    (hw : wgAt s (wgOf t) = some w) : ∀ u ∈ usesOf i, isPort w u.reg = false := by
  have := List.all_eq_true.mp h t ht
  simp only [hw, List.all_eq_true, Bool.not_eq_true'] at this
  exact this

theorem setRegs_cond (th : Thread) (r : Nat) (vs : List RegVal) : (setRegs th r vs).cond = th.cond := by
  induction vs generalizing th r with
  | nil => rfl
  | cons v vs ih => rw [setRegs, ih]; unfold setReg; split <;> rfl

theorem withResult_cond (i : Instr) (th : Thread) (v : Val) : (withResult i th v).cond = th.cond := by
  unfold withResult
  induction (usesOf i).filter isDst generalizing th with
  | nil => rfl
  | cons u us ih => rw [List.foldl_cons, ih, setRegs_cond]

/-- The effect of an arithmetic word on its group, one member after another. -/
theorem arithFold (i : Instr) (g : List Val → Val) (ts : List Nat) (s : State)
    (p : ∀ t ∈ ts, ∃ th w, thOf s t = some th ∧ wgAt s (wgOf t) = some w ∧ ∀ u ∈ usesOf i, isPort w u.reg = false) :
    ts.foldl (arithThread (usesOf i) g) s = ts.foldl (fun s t => modTh s t fun th => withResult i th (g (sourceVals i th))) s := by
  induction ts generalizing s with
  | nil => rfl
  | cons t ts ih =>
    obtain ⟨th, w, h, hw, hp⟩ := p t (by simp)
    rw [List.foldl_cons, List.foldl_cons, arithThread_noPort h hw i hp]
    refine ih _ fun u hu => ?_
    obtain ⟨th', w', h', hw', hp'⟩ := p u (List.mem_cons_of_mem _ hu)
    have : ∃ x, thOf (modTh s t fun th => withResult i th (g (sourceVals i th))) u = some x := by
      rw [thOf_modTh]
      split
      · subst_vars; exact ⟨_, by rw [h']; rfl⟩
      · exact ⟨th', h'⟩
    obtain ⟨x, hx⟩ := this
    exact ⟨x, w', hx, hw', hp'⟩

/-- A word that acts by a change of each member's own thread, which stays in flight: every member has changed and stands at the next word;
every other thread is as it was but for its wait; and nothing else has changed. -/
theorem memberWord {i : Instr} {s : State} {g : Nat} {G : Group} (h : issuesNow i s g G = true) (nd : G.members.Nodup)
    (hr : isRelease i = false) (hc : ∀ t ∈ G.members, preCommit i s t = false) (he : isSpanEnd i = false)
    (f : Nat → Thread → Thread) (hf : ∀ t th, (f t th).cond = th.cond) (body : Nat → List Nat → State → State)
    (hb : body s.nextIssue G.members (entered s) = G.members.foldl (fun s t => modTh s t (f t)) (entered s)) :
    ∃ u, runWord i body s = .next u ∧ sameOutside s u
      ∧ (∀ t ∈ G.members, ∀ th, thOf s t = some th → thOf u t = some (nextWord (f t th)))
      ∧ ∀ t, t ∉ G.members → ∀ th, thOf s t = some th → ∃ th', thOf u t = some th' ∧ sameButWait th th' := by
  refine ⟨_, runWord_issues h body, ?_, ?_, ?_⟩
  all_goals rw [issued_plain s G hr hc, hb, he]
  · exact sameOutside_trans (sameOutside_entered s) (sameOutside_trans (sameOutside_foldl _ (fun s t => sameOutside_modTh s t (f t)) _ _)
      (sameOutside_finishWord _ _ _ _ _))
  · intro t ht th hth
    have hi := issuesNow_inFlight h ht
    rw [issued_plain s G hr hc] at hi
    have hth' : thOf (entered s) t = some th := hth
    have hcond : th.cond = .inFlight := by simpa [isInFlight, hth'] using hi
    refine thOf_finishWord_member nd ht (th := f t th) ?_ (by rw [hf, hcond])
    rw [thOf_countWork, thOf_foldl_modTh _ _ _ nd, if_pos ht, hth']
    rfl
  · intro t ht th hth
    have hth' : thOf (entered s) t = some th := hth
    refine thOf_finishWord_out nd ?_ (.inl ht)
    rw [thOf_countWork, thOf_foldl_modTh _ _ _ nd, if_neg ht, hth']

/-- A word that only computes a value of its sources: every member receives it, and nothing else changes. -/
theorem valueWord {i : Instr} {s : State} {g : Nat} {G : Group} (h : issuesNow i s g G = true) (nd : G.members.Nodup)
    (hp : noPorts i s G = true) (hr : isRelease i = false) (hc : ∀ t, preCommit i s t = false) (he : isSpanEnd i = false)
    (v : List Val → Val) :
    ∃ u, runWord i (fun _ ts s => ts.foldl (arithThread (usesOf i) v) s) s = .next u ∧ sameOutside s u
      ∧ (∀ t ∈ G.members, ∀ th, thOf s t = some th → thOf u t = some (nextWord (withResult i th (v (sourceVals i th)))))
      ∧ ∀ t, t ∉ G.members → ∀ th, thOf s t = some th → ∃ th', thOf u t = some th' ∧ sameButWait th th' := by
  refine memberWord h nd hr (fun t _ => hc t) he (fun _ th => withResult i th (v (sourceVals i th))) (fun _ th => withResult_cond i th _) _ ?_
  refine arithFold i v _ _ fun t ht => ?_
  obtain ⟨th, w, a, b⟩ := legalHere_there (issuesNow_legal h ht)
  exact ⟨th, w, a, b, noPorts_at hp ht b⟩

/-! ## Words of one thread -/

theorem isInFlight_issued {i : Instr} {s : State} {g t : Nat} {G : Group} {th : Thread} {w : Workgroup}
    (h : soleMember i s g G t th w) : th.cond = .inFlight := by
  have := issuesNow_inFlight h.1 (t := t) (by simp [h.2.1])
  simpa [isInFlight, h.2.2.1] using this

/-- A word that ends no span, for one thread that stays in flight: what the word's effect leaves, with the thread at the next word. -/
theorem soleWord {i : Instr} {s : State} {g t : Nat} {G : Group} {th th' : Thread} {w : Workgroup} (h : soleMember i s g G t th w)
    (he : isSpanEnd i = false) (body : Nat → List Nat → State → State) (e : exec i s = runWord i body s)
    (ht : thOf (body s.nextIssue [t] (issued i s G)) t = some th') (hc : th'.cond = .inFlight) :
    wordLeaves i s t (body s.nextIssue [t] (issued i s G)) (some (nextWord th')) := by
  have nd : G.members.Nodup := by simp [h.2.1]
  refine ⟨_, e.trans (runWord_issues h.1 body), ?_, ?_, ?_⟩
  · rw [h.2.1]; exact sameOutside_finishWord _ _ _ _ _
  · rw [he]
    rw [h.2.1]
    exact thOf_finishWord_member nd (by simp [h.2.1]) ht hc
  · intro x hx y hy
    rw [he]
    exact thOf_finishWord_out nd (by rw [h.2.1]; exact hy) (.inl (by simpa [h.2.1] using hx))

/-- A word that ends no span, for one thread that leaves the group: what the word's effect leaves. -/
theorem soleWord_leaves {i : Instr} {s : State} {g t : Nat} {G : Group} {th th' : Thread} {w : Workgroup} (h : soleMember i s g G t th w)
    (body : Nat → List Nat → State → State) (e : exec i s = runWord i body s)
    (ht : thOf (body s.nextIssue [t] (issued i s G)) t = some th') {m : Nat} (hc : th'.cond = .ready m 0) :
    wordLeaves i s t (body s.nextIssue [t] (issued i s G)) (some th') := by
  have nd : G.members.Nodup := by simp [h.2.1]
  have key : ∀ x y, thOf (body s.nextIssue [t] (issued i s G)) x = some y → x ≠ t ∨ y.cond ≠ .inFlight →
      ∃ y', thOf (finishWord (countWork i G.members (body s.nextIssue G.members (issued i s G))) g G s.nextIssue (isSpanEnd i)) x = some y' ∧ sameButWait y y' := by
    intro x y hy hn
    rw [h.2.1]
    cases isSpanEnd i
    · exact thOf_finishWord_out nd hy (hn.imp_left fun hx => by simpa [h.2.1] using hx)
    · exact thOf_finishWord_spanEnd hy
  refine ⟨_, e.trans (runWord_issues h.1 body), ?_, ?_, fun x hx y hy => key x y hy (.inl hx)⟩
  · rw [h.2.1]; exact sameOutside_finishWord _ _ _ _ _
  · rw [h.2.1]
    unfold finishWord
    refine thOf_endOpportunity_still ?_ (.inr ⟨m, hc⟩) _ _ _
    rw [thOf_moveOn _ _ _ _ nd, if_neg, thOf_endIssue, thOf_countWork, ht]
    rintro ⟨-, -, h2⟩
    simp [isInFlight, ht, hc] at h2

/-- A word whose effect ends its one thread. -/
theorem soleWord_ends {i : Instr} {s : State} {g t : Nat} {G : Group} {th : Thread} {w : Workgroup} (h : soleMember i s g G t th w)
    (body : Nat → List Nat → State → State) (e : exec i s = runWord i body s)
    (ht : thOf (body s.nextIssue [t] (issued i s G)) t = none) :
    wordLeaves i s t (body s.nextIssue [t] (issued i s G)) none := by
  have nd : G.members.Nodup := by simp [h.2.1]
  refine ⟨_, e.trans (runWord_issues h.1 body), ?_, ?_, ?_⟩
  · rw [h.2.1]; exact sameOutside_finishWord _ _ _ _ _
  · rw [h.2.1]; exact thOf_finishWord_none _ nd ht
  · intro x hx y hy
    rw [h.2.1]
    cases isSpanEnd i
    · exact thOf_finishWord_out nd hy (.inl (by simpa [h.2.1] using hx))
    · exact thOf_finishWord_spanEnd hy

end Sys2Proof.Machine
end

