-- ==== Sys2Proof/Laws/Recover.lean ====
section
/-! SUPPORT. What taking an exception does: the abort of a region with a token enters its recovery target, and leaves every other thread and
everything outside the threads but the read-set marks of the thread's outstanding loads (R156, R161). -/

namespace Sys2Proof.Machine

/-- What a token does to a region: everything but TAINT, FIRST, LIST and its overflow stays. -/
theorem taintRegion_kept (r : Region) (tok : Word) :
    (taintRegion r tok).target = r.target ∧ (taintRegion r tok).tokReg = r.tokReg ∧ (taintRegion r tok).mode = r.mode
      ∧ (taintRegion r tok).start = r.start ∧ (taintRegion r tok).stores = r.stores ∧ (taintRegion r tok).reads = r.reads
      ∧ (taintRegion r tok).taint = true ∧ (taintRegion r tok).first = if r.taint then r.first else tok := by
  unfold taintRegion
  simp only
  split
  · exact ⟨rfl, rfl, rfl, rfl, rfl, rfl, rfl, rfl⟩
  · split <;> exact ⟨rfl, rfl, rfl, rfl, rfl, rfl, rfl, rfl⟩

theorem thOf_taint (s : State) (t u : Nat) (tok : Word) :
    thOf (taint s t tok) u = if u = t then (thOf s t).map fun th => { th with region := taintRegion th.region tok } else thOf s u := by
  unfold taint
  by_cases h : u = t
  · subst h
    simp
  · rw [thOf_modTh_other _ _ h, if_neg h]

theorem thOf_dropSets (s : State) (t u : Nat) :
    thOf (dropSets s t) u = thOf (modTh s t fun th => { th with region := { th.region with stores := [], reads := [] } }) u := rfl

/-- The registers that a region's entry into recovery writes: TOKREG alone. -/
theorem setReg_region (th : Thread) (r : Nat) (v : RegVal) : (setReg th r v).region = th.region := by
  unfold setReg
  split <;> rfl

/-- Recover, for a thread with a target: the thread stands at the target in a clear plain region that begins there, and TOKREG holds the token as
clean data (R161). -/
theorem thOf_recover {s : State} {t : Nat} {th : Thread} {target : DWord} (tok : Word) (h : thOf s t = some th)
    (ht : th.region.target = some target) :
    ∃ th', thOf (recover s t tok) t = some th' ∧ th'.span = target ∧ th'.off = 0 ∧ th'.cond = .ready s.now 0
      ∧ th'.regs = (setReg th th.region.tokReg (.clean tok)).regs
      ∧ th'.region = { cleared th.region with start := target, mode := .plain } ∧ th'.relSince = none ∧ th'.unacked = none := by
  unfold recover
  simp only [h, ht, thOf_modTh_same, thOf_dropSets, Option.map_some]
  refine ⟨_, rfl, rfl, rfl, rfl, ?_, ?_, rfl, rfl⟩
  · unfold setReg
    split <;> rfl
  · simp only [setReg_region, cleared, ht]

/-- The abort of a region changes no other thread, where the thread has a recovery target (R156, R161). -/
theorem thOf_abortRegion_other {s : State} {t u : Nat} {th : Thread} {target : DWord} (tok : Word) (h : thOf s t = some th)
    (ht : th.region.target = some target) (n : u ≠ t) : thOf (abortRegion s t tok) u = thOf s u := by
  have e : thOf (taint s t tok) t = some { th with region := taintRegion th.region tok } := by rw [thOf_taint, if_pos rfl, h]; rfl
  unfold abortRegion recover
  simp only [e, (taintRegion_kept th.region tok).1, ht]
  rw [thOf_modTh_other _ _ n, thOf_dropSets, thOf_modTh_other _ _ n, thOf_taint, if_neg n]

/-- The abort of a region enters recovery with the first token that tainted it (R156, R161). -/
theorem thOf_abortRegion {s : State} {t : Nat} {th : Thread} {target : DWord} (tok : Word) (h : thOf s t = some th)
    (ht : th.region.target = some target) :
    ∃ th', thOf (abortRegion s t tok) t = some th' ∧ th'.span = target ∧ th'.off = 0 ∧ th'.cond = .ready s.now 0
      ∧ th'.regs = (setReg th th.region.tokReg (.clean (if th.region.taint then th.region.first else tok))).regs := by
  have e : thOf (taint s t tok) t = some { th with region := taintRegion th.region tok } := by rw [thOf_taint, if_pos rfl, h]; rfl
  obtain ⟨a, b, -, -, -, -, -, c⟩ := taintRegion_kept th.region tok
  unfold abortRegion
  simp only [e]
  obtain ⟨th', p, q, r, x, y, -⟩ := thOf_recover (taintRegion th.region tok).first e (by rw [a]; exact ht)
  refine ⟨th', p, q, r, x, ?_⟩
  rw [y, c, b]
  unfold setReg
  split <;> rfl

end Sys2Proof.Machine
end

