-- ==== Sys2Proof/Laws/Span.lean ====
section
/-! SUPPORT. What a span end leaves (R123): the group gone, each member where its word put it. -/

namespace Sys2Proof.Machine

theorem sameOutside_wgs {s u : State} (h : sameOutside s u) : u.wgs = s.wgs := by
  unfold sameOutside at h; rw [h]

theorem sameOutside_ops {s u : State} (h : sameOutside s u) : u.ops = s.ops := by
  unfold sameOutside at h; rw [h]

theorem sameOutside_mem {s u : State} (h : sameOutside s u) : u.mem = s.mem := by
  unfold sameOutside at h; rw [h]

theorem sameOutside_launches {s u : State} (h : sameOutside s u) : u.launches = s.launches := by
  unfold sameOutside at h; rw [h]

theorem sameOutside_wgAt {s u : State} (h : sameOutside s u) (k : Nat) : wgAt u k = wgAt s k := by
  unfold wgAt; rw [sameOutside_wgs h]

theorem groups_nextTurn (s : State) : (nextTurn s).groups = s.groups := by
  unfold nextTurn
  split
  · rfl
  · split <;> rfl

theorem groups_endOpportunity (s : State) (c p : Nat) (o : Option (List Nat)) : (endOpportunity s c p o).groups = s.groups := by
  unfold endOpportunity
  simp only
  split
  · rw [groups_nextTurn]; rfl
  · rfl

theorem groups_endIssue (s : State) (n : Nat) : (endIssue s n).groups = s.groups := by
  unfold endIssue; split <;> rfl

theorem groups_finishWord_spanEnd (s : State) (g : Nat) (G : Group) (n : Nat) :
    (finishWord s g G n true).groups = del s.groups g := by
  unfold finishWord moveOn
  rw [groups_endOpportunity]
  simp only [if_true, groups_endIssue]

theorem modTh_none {s : State} {t : Nat} (h : thOf s t = none) (f : Thread → Thread) : modTh s t f = s := by
  unfold modTh alter
  unfold thOf at h
  rw [h]

theorem modTh_modTh (s : State) (t : Nat) (f g : Thread → Thread) : modTh (modTh s t f) t g = modTh s t fun th => g (f th) := by
  cases h : thOf s t with
  | none => rw [modTh_none h, modTh_none h, modTh_none h]
  | some th =>
    rw [← setTh_eq_modTh h, ← setTh_eq_modTh h fun th => g (f th), ← setTh_eq_modTh (th := f th) (by simp [thOf_setTh]), setTh_setTh]

theorem groups_countWork (i : Instr) (ts : List Nat) (s : State) : (countWork i ts s).groups = s.groups := rfl

theorem groups_foldl_modTh (f : Nat → Thread → Thread) (ts : List Nat) (s : State) :
    (ts.foldl (fun s t => modTh s t (f t)) s).groups = s.groups := by
  induction ts generalizing s with
  | nil => rfl
  | cons t ts ih => rw [List.foldl_cons, ih]; rfl

theorem wgs_foldl_modTh (f : Nat → Thread → Thread) (ts : List Nat) (s : State) :
    (ts.foldl (fun s t => modTh s t (f t)) s).wgs = s.wgs := by
  induction ts generalizing s with
  | nil => rfl
  | cons t ts ih => rw [List.foldl_cons, ih]; rfl

/-- A span end that acts by a change of each member's own thread: each member is what the change and the end of the port's opportunity make of
it, the group is gone, and nothing else has changed. -/
theorem spanWord {i : Instr} {s : State} {g : Nat} {G : Group} (h : issuesNow i s g G = true) (nd : G.members.Nodup)
    (hr : isRelease i = false) (hc : ∀ t, preCommit i s t = false) (he : isSpanEnd i = true) (f : Nat → Thread → Thread)
    (body : Nat → List Nat → State → State)
    (hb : body s.nextIssue G.members (entered s) = G.members.foldl (fun s t => modTh s t (f t)) (entered s)) :
    ∃ u x, runWord i body s = .next u ∧ sameOutside s u ∧ u.groups = del s.groups g ∧ x.wgs = s.wgs
      ∧ (∀ t ∈ G.members, ∀ th, thOf s t = some th →
          thOf u t = some { f t th with cond := yieldCond G.core G.port (some G.members) x t (f t th) })
      ∧ ∀ t, t ∉ G.members → ∀ th, thOf s t = some th → ∃ th', thOf u t = some th' ∧ sameButWait th th' := by
  refine ⟨_, moveOn (endIssue (countWork i G.members (G.members.foldl (fun s t => modTh s t (f t)) (entered s))) s.nextIssue) g G true,
    runWord_issues h body, ?_, ?_, ?_, ?_, ?_⟩
  all_goals try rw [issued_plain s G hr (fun t _ => hc t), hb, he]
  · exact sameOutside_trans (sameOutside_entered s) (sameOutside_trans (sameOutside_foldl _ (fun s t => sameOutside_modTh s t (f t)) _ _)
      (sameOutside_trans (sameOutside_countWork _ _ _) (sameOutside_finishWord _ _ _ _ _)))
  · rw [groups_finishWord_spanEnd, groups_countWork, groups_foldl_modTh]; rfl
  · rw [sameOutside_wgs (sameOutside_moveOn _ _ _ _), sameOutside_wgs (sameOutside_endIssue _ _), sameOutside_wgs (sameOutside_countWork _ _ _),
      wgs_foldl_modTh]
    rfl
  · intro t ht th hth
    have hth' : thOf (entered s) t = some th := hth
    unfold finishWord
    rw [thOf_endOpportunity, thOf_moveOn_spanEnd, thOf_endIssue, thOf_countWork, thOf_foldl_modTh _ _ _ nd, if_pos ht, hth']
    rfl
  · intro t ht th hth
    have hth' : thOf (entered s) t = some th := hth
    refine thOf_finishWord_spanEnd ?_
    rw [thOf_countWork, thOf_foldl_modTh _ _ _ nd, if_neg ht, hth']

/-- What a transfer with a valid successor makes of a thread. -/
def landed (s : State) (target : Thread → Val) (link : Option Reg) (hold : Nat) (th : Thread) : Thread :=
  { (match link with
      | some d => setRegs th d.toNat (resultRegs 2 (cleanVal (wordAddr th + 8)))
      | none => th) with
    span := (target th).data, off := 0, cond := .ready s.now hold }

theorem transfer_good {s : State} {issue t : Nat} {th : Thread} (h : thOf s t = some th) (target : Thread → Val) (link : Option Reg) (hold : Nat)
    (hg : badTarget (target th) = none) :
    transfer s issue t (target th) (fun s => match link with
      | some d => writeD s t d 2 (cleanVal (wordAddr th + 8))
      | none => s) hold = modTh s t (landed s target link hold) := by
  unfold transfer
  rw [hg]
  simp only [goTo]
  rw [← setTh_eq_modTh h (landed s target link hold)]
  cases link with
  | none => rw [← setTh_eq_modTh h]; rfl
  | some d =>
    simp only [writeD, writeN]
    rw [modTh_modTh, ← setTh_eq_modTh h]
    rfl

/-- The transfers of a group whose members all have valid successors. -/
theorem transferFold (target : Thread → Val) (link : Option Reg) (hold issue : Nat) (ts : List Nat) (nd : ts.Nodup) (s : State)
    (hg : ∀ t ∈ ts, ∀ th, thOf s t = some th → badTarget (target th) = none) :
    ts.foldl (fun s t => match thOf s t with
      | none => s
      | some th => transfer s issue t (target th) (fun s => match link with
          | some d => writeD s t d 2 (cleanVal (wordAddr th + 8))
          | none => s) hold) s
      = ts.foldl (fun x t => modTh x t (landed s target link hold)) s := by
  induction ts generalizing s with
  | nil => rfl
  | cons t ts ih =>
    obtain ⟨ht, nd⟩ := List.nodup_cons.mp nd
    rw [List.foldl_cons, List.foldl_cons]
    cases h : thOf s t with
    | none =>
      rw [modTh_none h]
      exact ih nd s fun u hu => hg u (List.mem_cons_of_mem _ hu)
    | some th =>
      simp only [transfer_good h target link hold (hg t (by simp) th h)]
      refine ih nd (modTh s t (landed s target link hold)) fun u hu x hx => ?_
      rw [thOf_modTh_other] at hx
      · exact hg u (List.mem_cons_of_mem _ hu) x hx
      · intro e; subst e; exact ht hu

/-- A transfer word whose members all have valid successors. -/
theorem transferWord_good {i : Instr} {s : State} {g : Nat} {G : Group} (h : issuesNow i s g G = true) (nd : G.members.Nodup)
    (hr : isRelease i = false) (hc : ∀ t, preCommit i s t = false) (he : isSpanEnd i = true) (target : Thread → Val) (link : Option Reg)
    (hold : Nat) (hg : ∀ t ∈ G.members, ∀ th, thOf s t = some th → badTarget (target th) = none) :
    ∃ u x, transferWord i target link hold s = .next u ∧ sameOutside s u ∧ u.groups = del s.groups g ∧ x.wgs = s.wgs
      ∧ (∀ t ∈ G.members, ∀ th, thOf s t = some th →
          thOf u t = some { landed s target link hold th with
            cond := yieldCond G.core G.port (some G.members) x t (landed s target link hold th) })
      ∧ ∀ t, t ∉ G.members → ∀ th, thOf s t = some th → ∃ th', thOf u t = some th' ∧ sameButWait th th' :=
  spanWord h nd hr hc he (fun _ => landed s target link hold) _ (transferFold target link hold s.nextIssue G.members nd (entered s) hg)

end Sys2Proof.Machine
end

