-- ==== Sys2Proof/Laws/Tokens.lean ====
section
/-! SUPPORT. What making a token may change (R146 to R149): records and fault queue entries, and the STICKY bit of the owning workgroup or, of a
retired one, of its launch; no thread, no memory, no access. -/

namespace Sys2Proof.Machine

/-- A token is made: only cores, partitions, workgroups, launches and the records of the issue change. -/
def onlyTokens (s u : State) : Prop :=
  u = { s with cores := u.cores, parts := u.parts, wgs := u.wgs, launches := u.launches, issueFaults := u.issueFaults }

theorem onlyTokens_refl (s : State) : onlyTokens s s := rfl

theorem onlyTokens_trans {s t u : State} (h : onlyTokens s t) (k : onlyTokens t u) : onlyTokens s u := by
  unfold onlyTokens at *
  rw [k, h]

theorem onlyTokens_markSticky (s : State) (w : Nat) : onlyTokens s (markSticky s w) := by
  unfold markSticky
  split
  · rfl
  · split <;> rfl

theorem onlyTokens_mergeOverflow (s : State) (o : Org) (f : Why) : onlyTokens s (mergeOverflow s o f).1 :=
  onlyTokens_trans (onlyTokens_trans (t := setCore s o.core _) rfl (onlyTokens_markSticky _ o.wg)) rfl

theorem onlyTokens_allocRecord (s : State) (o : Org) (f : Why) : onlyTokens s (allocRecord s o f).1 := by
  unfold allocRecord
  split
  · exact onlyTokens_mergeOverflow s o f
  · simp only
    split <;> rfl

theorem onlyTokens_joinRecord (s : State) (o : Org) (f : Why) (x : IssueFault) : onlyTokens s (joinRecord s o f x) := by
  unfold joinRecord
  split <;> rfl

theorem onlyTokens_makeToken (s : State) (o : Org) (f : Why) : onlyTokens s (makeToken s o f).1 := by
  unfold makeToken
  split
  · exact onlyTokens_joinRecord s o f _
  · exact onlyTokens_allocRecord s o f

theorem makeToken_threads (s : State) (o : Org) (f : Why) : (makeToken s o f).1.threads = s.threads := by
  have h := onlyTokens_makeToken s o f
  unfold onlyTokens at h
  rw [h]

theorem makeToken_mem (s : State) (o : Org) (f : Why) : (makeToken s o f).1.mem = s.mem := by
  have h := onlyTokens_makeToken s o f
  unfold onlyTokens at h
  rw [h]

theorem makeToken_ops (s : State) (o : Org) (f : Why) : (makeToken s o f).1.ops = s.ops := by
  have h := onlyTokens_makeToken s o f
  unfold onlyTokens at h
  rw [h]

theorem thOf_makeToken (s : State) (o : Org) (f : Why) (t : Nat) : thOf (makeToken s o f).1 t = thOf s t := by
  unfold thOf
  rw [makeToken_threads]

end Sys2Proof.Machine
end

