-- ==== Sys2Proof/Laws/Translate.lean ====
section
/-! SUPPORT. What translation and the formation of addresses change: TLBs, and the count of free values. -/

namespace Sys2Proof.Machine

/-- Every field but cores, cluster TLBs, the granules pinned in slices and the count of free values is as it was. -/
def onlyTlb (s u : State) : Prop :=
  u = { s with cores := u.cores, clusterTlb := u.clusterTlb, slicePinned := u.slicePinned, freeCtr := u.freeCtr }

theorem onlyTlb_refl (s : State) : onlyTlb s s := rfl

theorem onlyTlb_trans {s t u : State} (h : onlyTlb s t) (k : onlyTlb t u) : onlyTlb s u := by
  unfold onlyTlb at *
  rw [k, h]

theorem onlyTlb_drawBytes (s : State) (n : Nat) : onlyTlb s (drawBytes s n).2 := by
  induction n generalizing s with
  | zero => rfl
  | succ n ih =>
    rw [drawBytes]
    exact onlyTlb_trans (t := (drawByte s).2) rfl (ih _)

theorem onlyTlb_readSectors (s : State) (key k a n : Nat) : onlyTlb s (readSectors s key k a n).2 := by
  induction k generalizing s a n with
  | zero => rfl
  | succ k ih =>
    rw [readSectors]
    split
    · exact onlyTlb_refl s
    · split
      · exact onlyTlb_trans (onlyTlb_drawBytes _ _) (ih _ _ _)
      · exact ih _ _ _

theorem onlyTlb_readLoc (s : State) (l : Loc) (n : Nat) : onlyTlb s (readLoc s l n).2 := by
  unfold readLoc
  split
  · split <;> rfl
  · split
    · exact onlyTlb_readSectors _ _ _ _ _
    · rfl

theorem onlyTlb_walkStep (s : State) (p : Partition) (part table va level : Nat) : onlyTlb s (walkStep s p part table va level).2 := by
  unfold walkStep
  simp only
  split
  · exact onlyTlb_refl s
  · split
    · exact onlyTlb_readLoc _ _ _
    · split <;> exact onlyTlb_readLoc _ _ _

theorem onlyTlb_walkFrom (s : State) (p : Partition) (part table va n : Nat) : onlyTlb s (walkFrom s p part table va n).2 := by
  induction n generalizing s table with
  | zero => exact onlyTlb_refl s
  | succ n ih =>
    have h := onlyTlb_walkStep s p part table va n
    rw [walkFrom]
    split <;> rename_i e <;> rw [e] at h
    · exact h
    · exact h
    · exact onlyTlb_trans h (ih _ _)

theorem onlyTlb_walk (s : State) (part root va : Nat) : onlyTlb s (walk s part root va).2 := by
  unfold walk
  simp only
  split
  · exact onlyTlb_refl s
  · split
    · exact onlyTlb_refl s
    · exact onlyTlb_walkFrom _ _ _ _ _ _

theorem onlyTlb_pinPage (s : State) (e : DWord) (level : Nat) : onlyTlb s (pinPage s e level) := rfl

theorem onlyTlb_tlbInstall (s : State) (core : Nat) (e : TlbEntry) : onlyTlb s (tlbInstall s core e) := rfl

theorem onlyTlb_walkInstall (s : State) (core part va : Nat) (acc : AccKind) : onlyTlb s (walkInstall s core part va acc).2 := by
  unfold walkInstall
  simp only
  split
  · exact onlyTlb_walk _ _ _ _
  · split
    · refine onlyTlb_trans (onlyTlb_walk _ _ _ _) (onlyTlb_trans (onlyTlb_pinPage _ _ _) (onlyTlb_tlbInstall _ _ _))
    · exact onlyTlb_walk _ _ _ _

theorem onlyTlb_tlbLookup (s : State) (core part va : Nat) (acc : AccKind) : onlyTlb s (tlbLookup s core part va acc).2 := by
  unfold tlbLookup
  simp only
  split
  · exact onlyTlb_refl s
  · split
    · rfl
    · exact onlyTlb_walkInstall _ _ _ _ _

theorem onlyTlb_translate (s : State) (core part va : Nat) (acc : AccKind) (coh : Nat) : onlyTlb s (translate s core part va acc coh).2 := by
  unfold translate
  simp only
  split
  · exact onlyTlb_tlbLookup _ _ _ _ _
  · split <;> exact onlyTlb_tlbLookup _ _ _ _ _

theorem onlyTlb_flatChecks (s : State) (core part : Nat) (va : DWord) (n : Nat) (acc : AccKind) (coh : Nat) :
    onlyTlb s (flatChecks s core part va n acc coh).2 := by
  unfold flatChecks
  split
  · rfl
  · split
    · rfl
    · simp only
      split <;> exact onlyTlb_translate _ _ _ _ _ _

theorem onlyTlb_formFlat (s : State) (th : Thread) (w : Workgroup) (a : Nat) (off : BitVec 16) (n : Nat) (acc : AccKind) (cp : CPol) :
    onlyTlb s (formFlat s th w a off n acc cp).2 := by
  unfold formFlat
  simp only
  split
  · rfl
  · split <;> exact onlyTlb_flatChecks _ _ _ _ _ _ _

theorem onlyTlb_formRec (s : State) (th : Thread) (w : Workgroup) (a b : Nat) (two : Bool) (off : BitVec 16) (kind : RecAcc) (fits : Fmt → Bool)
    (acc : AccKind) (cp : CPol) : onlyTlb s (formRec s th w a b two off kind fits acc cp).2 := by
  unfold formRec
  split
  · rfl
  · rfl
  · simp only
    split <;> exact onlyTlb_flatChecks _ _ _ _ _ _ _

theorem onlyTlb_thOf {s u : State} (h : onlyTlb s u) (t : Nat) : thOf u t = thOf s t := by
  unfold onlyTlb at h
  rw [h]; rfl

theorem onlyTlb_wgAt {s u : State} (h : onlyTlb s u) (k : Nat) : wgAt u k = wgAt s k := by
  unfold onlyTlb at h
  rw [h]; rfl

end Sys2Proof.Machine
end

