-- ==== Sys2Proof/Tests/Slice0.lean ====
section
/-! SUPPORT. Tests: well-formedness, decoding of words written from the encoding tables of the spec, one step of instructions on small
states with results taken from the spec's examples or worked by hand, and for each obligation states that meet its hypotheses. -/

open Sys2Proof Sys2Proof.Machine

namespace Sys2Proof.Tests

set_option maxRecDepth 100000

/-! ## Small states -/

/-- A header: eight lanes, one thread deep, 32 registers, 8 KiB of scratchpad, one queue port (v248), contexts bound to an engine. -/
def hdr1 (e : Engine) : Header :=
  { gen := 1, width := 8, depth := 1, regs := 32, scratch := 64, workid := [6, 2, 3, 0, 2, 0], tlbind := List.replicate 8 (some (e, .sys)),
    queues := 1, tandem := false, swizzle := 0, persist := false, recover := 0, rectok := 0, entry := 0x1000, argsize := 0 }

def tile1 : Tile := ⟨[], [], [], 0, [], [], [], true, false⟩

/-- A workgroup on core 0 with four tiles. -/
def wg1 (e : Engine) : Workgroup :=
  { core := 0, slot := 0, parity := 0, base := 0, age := 0, launch := 0, g := 0, hdr := hdr1 e, arg := 0, part := 0, regsN := 32, vacant := [],
    released := [], cir := 0, tls := List.replicate 8 ⟨some (e, .sys), 0, 0, []⟩, spad := [], spadPoison := [], absent := [], arrScopes := [], fifos := [],
    arrivals := [], wantRegs := none, tiles := List.replicate 4 tile1, tandemIdx := 0, soloPartner := [], soloMismatch := [], join := none,
    forked := false, laneCycles := 0, laneAt := 0, residency := 0, charges := 0, lanesRun := 0, moved := 0,
    saved := false, retired := false }

def region1 : Region :=
  { start := 0x1000, target := some 0x2000, tokReg := 30, mode := .plain, taint := false, first := 0, list := [], full := false, stores := [],
    reads := [] }

/-- A thread at the first word of a span at 0x1000, whose registers hold what is listed and otherwise 0, clean. -/
def th1 (regs : List (Nat × RegVal)) : Thread :=
  { regs := (List.range 32).map fun k => (regs.lookup k).getD (.clean 0), span := 0x1000, off := 0, lane := 0, wid := 0, ldc := 0, stc := 0,
    cpc := 0, mxc := 0, region := region1, cond := .inFlight, pending := [], recovTok := none, relSince := none, unacked := none,
    acted := false, serial := 1 }

def clean (l : List (Nat × Word)) : List (Nat × RegVal) := l.map fun p => (p.1, .clean p.2)

def grp1 : Group := { core := 0, port := 0, members := [0], formed := 0, waiting := false, park := none, old := [] }

/-- One thread of one workgroup, alone in the group in focus. -/
def one (th : Thread) (w : Workgroup) : State :=
  { State.reset with threads := [(0, th)], wgs := [(0, w)], groups := [(0, grp1)], focus := some 0, nextIssue := 10, nextWg := 1, nextLaunch := 1,
                     nextSerial := 2, nextId := 1 }

/-- The state with partition 0 having a window over the first 1 GiB, an address space whose page at 0x40000 is mapped to itself, read, write
and execute, tracked, and a tenant. -/
def mapped (s : State) : State :=
  { s with mem := [(0x10000, 0x20001), (0x20000, 0x30001), (0x30000, 0x34001), (0x34020, 0x4002F), (0x40000, 0xAABBCCDD)].foldl
             (fun m p => memSetN m p.1 (leBytes 8 p.2)) s.mem
           parts := s.parts.modify 0 fun p => { p with proot := 0x10000, windows := ⟨0, 0, true, 16383⟩ :: p.windows.drop 1, pftid := 5 } }

/-- The state after an instruction. -/
def after (i : Instr) (s : State) : State :=
  match exec i s with
  | .next u => u
  | _ => s

/-- What register r of thread 0 holds. -/
def regOf (s : State) (r : Nat) : Option RegVal := (thOf s 0).bind fun th => th.regs[r]?

/-- An arithmetic word on registers gives registers, clean, in the one thread. -/
def computes (i : Instr) (regs out : List (Nat × Word)) : Bool :=
  let u := after i (one (th1 (clean regs)) (wg1 .copy))
  out.all fun p => regOf u p.1 = some (.clean p.2)

/-- Word i has one member for which it issues now, and its thread and workgroup then meet p. -/
def sole (i : Instr) (s : State) (p : Thread → Workgroup → Bool) : Bool :=
  issuesNow i s 0 grp1 && match thOf (issued i s grp1) 0, wgAt (issued i s grp1) 0 with
    | some th, some w => p th w
    | _, _ => false

/-- What `sole` says, in the words of the statements. -/
theorem sole_soleMember {i : Instr} {s : State} {p : Thread → Workgroup → Bool} (h : sole i s p = true) :
    ∃ th w, soleMember i s 0 grp1 0 th w ∧ p th w = true := by
  unfold sole at h
  split at h
  · rename_i th w ht hw
    simp only [Bool.and_eq_true] at h
    exact ⟨th, w, ⟨h.1, rfl, ht, hw⟩, h.2⟩
  · simp at h

/-- What every entry of a table satisfies, the entry found satisfies. -/
theorem look_all {α : Type} (P : α → Prop) : ∀ (m : NMap α) {i : Nat} {x : α}, (∀ p ∈ m, P p.2) → look m i = some x → P x
  | [], _, _, _, h => nomatch h
  | (k, v) :: m, _, _, a, h => by
    unfold look at h
    split at h
    · exact Option.some.inj h ▸ a (k, v) (by simp)
    · split at h
      · simp at h
      · exact look_all P m (fun p q => a p (by simp [q])) h

/-- The same with a default. -/
theorem lookD_all {α : Type} (P : α → Prop) (m : NMap α) (i : Nat) {d : α} (a : ∀ p ∈ m, P p.2) (b : P d) : P (lookD m i d) := by
  unfold lookD
  cases h : look m i with
  | none => exact b
  | some x => exact look_all P m a h

/-- Whether the tables of a state are in order, as a computation. -/
def tidyNow (s : State) : Bool :=
  memWf s.mem && rising s.poison && rising s.threads && rising s.wgs && rising s.groups && rising s.ops && rising s.launches
    && (s.parts.length = 16 && s.keyGen.length = 32 && s.measure.length = 32)
    && (s.wgs.all (fun p => memWf p.2.spad && rising p.2.absent && p.2.tiles.all fun t => rising t.elems)
      && s.cores.all (fun p => rising p.2.l1) && s.clusters.all (fun p => rising p.2) && s.dirs.all fun p => rising p.2)

theorem tidy_of {s : State} (h : tidyNow s = true) : tidy s := by
  simp only [tidyNow, Bool.and_eq_true, decide_eq_true_eq, List.all_eq_true] at h
  obtain ⟨⟨⟨⟨⟨⟨⟨⟨m, p⟩, t⟩, w⟩, g⟩, o⟩, l⟩, ⟨n16, k⟩, ms⟩, ⟨⟨a, b⟩, c⟩, d⟩ := h
  exact
    { mem := m, poison := p, threads := t, wgs := w, groups := g, ops := o, launches := l, parts := n16, keys := k, measures := ms
      spads := fun _ _ => look_all (fun w : Workgroup => memWf w.spad = true ∧ rising w.absent = true) s.wgs fun p h => (a p h).1
      tiles := fun _ _ => look_all (fun w : Workgroup => ∀ t ∈ w.tiles, rising t.elems = true) s.wgs fun p h => (a p h).2
      l1 := fun i => lookD_all (fun x : Core => rising x.l1 = true) s.cores i b rfl
      clusters := fun i => lookD_all (fun x : NMap CacheSector => rising x = true) s.clusters i c rfl
      dirs := fun i => lookD_all (fun x : NMap DirEntry => rising x = true) s.dirs i d rfl }

/-! ## Well-formedness -/

/-- Each check of well-formedness refuses a term: operands that are not aligned to their width (R22), a rule of an entry (R79), a rule of pair
words (R72). -/
theorem test_ill_formed :
    ([.iaddW 5 6 8, .ld 2 12 0 .x128 .norm false .none, .abort 4, .cvt 4 5 .fp32 .i32 .rne, .rbegin 0 5 true, .fence 0 .none,
      .atom 4 12 8 0 .x32 .norm .fadd (.rel .die), .atom 4 12 8 0 .x64 .norm .fadd .none, .gredW 4 6 0 .fadd .rne, .waitcnt 64 0 0 0,
      .freeze 8 12 14 15 3 .die, .lds 4 5 0 .x32 true .none, .iaddPair 8 12 ⟨.fmul .rz, 12, 9⟩, .moviPair 8 1 ⟨.mov, 8, 9⟩,
      .moviPair 8 1 ⟨.mov, 9, 9⟩] : List Instr).map Instr.wf
    = [false, false, true, true, false, false, true, false, false, false, false, false, false, false, true] := by decide

/-! ## Decoding: words written from the opcode map, the field tables and the entries (R64 to R78) -/


theorem test_decode_integer_1 :
    ([(0x00840C1400000000, .iadd 8 24 40), (0x01040C1400000000, .isub 8 24 40), (0x01840C1400000000, .imul 8 24 40),
      (0x04840C1400000000, .and 8 24 40), (0x05040C1400000000, .or 8 24 40), (0x05840C1400000000, .xor 8 24 40),
      (0x06040C1400000000, .andn 8 24 40), (0x06840C1400000000, .shl 8 24 40), (0x07040C1400000000, .shr 8 24 40),
      (0x07840C1400000000, .shra 8 24 40), (0x08040C1400000000, .rotl 8 24 40), (0x02040C1400000004, .imulhi 8 24 40 true),
      (0x03040C1400000004, .imin 8 24 40 true), (0x03840C1400000004, .imax 8 24 40 true), (0x09040C1400000004, .bfx 8 24 40 true),
      (0x02840C141C000000, .imad 8 24 40 56)] : List (Nat × Instr)).all
      (fun p => decodeTableWord 64 p.1 = some p.2 && (encode p.2).map (·.toNat) = some p.1) = true := by decide

theorem test_decode_integer_2 :
    ([(0x09840C141C000000, .bfi 8 24 40 56), (0x0B840C141C000000, .prmt 8 24 40 56), (0x0C840C141C000000, .sel 8 24 40 56),
      (0x04040C0000000000, .iabs 8 24), (0x0A040C0000000000, .clz 8 24), (0x0A840C0000000000, .popc 8 24),
      (0x0B040C0000000000, .brev 8 24), (0x08840C141C000004, .shf 8 24 40 56 true), (0x0C040C140000002C, .icmp 8 24 40 .len),
      (0x0D040C1400000014, .lea 8 24 40 5), (0x60840C1400000000, .iaddW 8 24 40), (0x61040C1400000000, .isubW 8 24 40),
      (0x61840C1400000000, .imulW 8 24 40), (0x64840C1400000000, .andW 8 24 40), (0x65040C1400000000, .orW 8 24 40),
      (0x65840C1400000000, .xorW 8 24 40)] : List (Nat × Instr)).all
      (fun p => decodeTableWord 64 p.1 = some p.2 && (encode p.2).map (·.toNat) = some p.1) = true := by decide

theorem test_decode_integer_3 :
    ([(0x66040C1400000000, .andnW 8 24 40), (0x66840C1400000000, .shlW 8 24 40), (0x67040C1400000000, .shrW 8 24 40),
      (0x67840C1400000000, .shraW 8 24 40), (0x68040C1400000000, .rotlW 8 24 40), (0x62040C1400000004, .imulhiW 8 24 40 true),
      (0x63040C1400000004, .iminW 8 24 40 true), (0x63840C1400000004, .imaxW 8 24 40 true), (0x69040C1400000004, .bfxW 8 24 40 true),
      (0x62840C141C000000, .imadW 8 24 40 56), (0x69840C141C000000, .bfiW 8 24 40 56), (0x6B840C141C000000, .prmtW 8 24 40 56),
      (0x6C840C141C000000, .selW 8 24 40 56), (0x64040C0000000000, .iabsW 8 24), (0x6A040C0000000000, .clzW 8 24),
      (0x6A840C0000000000, .popcW 8 24)] : List (Nat × Instr)).all
      (fun p => decodeTableWord 64 p.1 = some p.2 && (encode p.2).map (·.toNat) = some p.1) = true := by decide

theorem test_decode_integer_4 :
    ([(0x6B040C0000000000, .brevW 8 24), (0x68840C141C000004, .shfW 8 24 40 56 true), (0x6C040C140000002C, .icmpW 8 24 40 .len),
      (0x6D040C1400000034, .leaW 8 24 40 5 true)] : List (Nat × Instr)).all
      (fun p => decodeTableWord 64 p.1 = some p.2 && (encode p.2).map (·.toNat) = some p.1) = true := by decide

theorem test_decode_immediate_1 :
    ([(0x10040C4000000280, .iaddImm 8 24 0x80000005), (0x10840C4000000280, .imulImm 8 24 0x80000005),
      (0x12040C4000000280, .andImm 8 24 0x80000005), (0x12840C4000000280, .orImm 8 24 0x80000005),
      (0x13040C4000000280, .xorImm 8 24 0x80000005), (0x13840C0000000380, .shlImm 8 24 7), (0x14040C0000000380, .shrImm 8 24 7),
      (0x14840C0000000380, .shraImm 8 24 7), (0x15040C0000000380, .rotlImm 8 24 7), (0x11040C4000000284, .iminImm 8 24 0x80000005 true),
      (0x11840C4000000284, .imaxImm 8 24 0x80000005 true), (0x15840C4000000290, .icmpImm 8 24 0x80000005 .gt),
      (0x70040C4000000280, .iaddWImm 8 24 0x80000005), (0x70840C4000000280, .imulWImm 8 24 0x80000005),
      (0x72040C4000000280, .andWImm 8 24 0x80000005), (0x72840C4000000280, .orWImm 8 24 0x80000005)] : List (Nat × Instr)).all
      (fun p => decodeTableWord 64 p.1 = some p.2 && (encode p.2).map (·.toNat) = some p.1) = true := by decide

theorem test_decode_immediate_2 :
    ([(0x73040C4000000280, .xorWImm 8 24 0x80000005), (0x73840C0000000380, .shlWImm 8 24 7), (0x74040C0000000380, .shrWImm 8 24 7),
      (0x74840C0000000380, .shraWImm 8 24 7), (0x75040C0000000380, .rotlWImm 8 24 7),
      (0x71040C4000000284, .iminWImm 8 24 0x80000005 true), (0x71840C4000000284, .imaxWImm 8 24 0x80000005 true),
      (0x75840C4000000290, .icmpWImm 8 24 0x80000005 .gt), (0x1604004000000280, .movi 8 0x80000005),
      (0x7604004000000280, .moviW 8 0x80000005)] : List (Nat × Instr)).all
      (fun p => decodeTableWord 64 p.1 = some p.2 && (encode p.2).map (·.toNat) = some p.1) = true := by decide

theorem test_decode_float_1 :
    ([(0x18040C1400000002, .fadd 8 24 40 .rdn), (0x18840C1400000002, .fsub 8 24 40 .rdn), (0x19040C1400000002, .fmul 8 24 40 .rdn),
      (0x20840C1400000002, .hadd2 8 24 40 .rdn), (0x21040C1400000002, .hmul2 8 24 40 .rdn), (0x1A040C1400000000, .fmin 8 24 40),
      (0x1A840C1400000000, .fmax 8 24 40), (0x19840C141C000003, .ffma 8 24 40 56 .rup), (0x21840C141C000003, .hfma2 8 24 40 56 .rup),
      (0x1C040C0000000001, .frnd 8 24 .rz), (0x1C840C0000000001, .frcp 8 24 .rz), (0x1D040C0000000001, .frsq 8 24 .rz),
      (0x1D840C0000000001, .fsqrt 8 24 .rz), (0x1B840C0000000000, .fclass 8 24), (0x1E040C0000000000, .fexp2 8 24),
      (0x1E840C0000000000, .flog2 8 24)] : List (Nat × Instr)).all
      (fun p => decodeTableWord 64 p.1 = some p.2 && (encode p.2).map (·.toNat) = some p.1) = true := by decide

theorem test_decode_float_2 :
    ([(0x1F040C0000000000, .fsin 8 24), (0x1F840C0000000000, .fcos 8 24), (0x20040C0000000000, .ftanh 8 24),
      (0x1B040C1400000018, .fcmp 8 24 40 .un), (0x28040C4000000281, .faddImm 8 24 0x80000005 .rz),
      (0x28840C4000000281, .fmulImm 8 24 0x80000005 .rz), (0x2A840C4000000281, .hadd2Imm 8 24 0x80000005 .rz),
      (0x2B040C4000000281, .hmul2Imm 8 24 0x80000005 .rz), (0x29040C4000000280, .fminImm 8 24 0x80000005),
      (0x29840C4000000280, .fmaxImm 8 24 0x80000005), (0x2A040C400000029C, .fcmpImm 8 24 0x80000005 .ord),
      (0x22040C141C000009, .qdot4 8 24 40 56 .e4m3 .e5m2 .rz), (0x22840C141C000004, .idot4 8 24 40 56 true false),
      (0x23040C0000004301, .cvt 8 24 .bf16 .fp32 .rz), (0x26040C1400004509, .cvtPk 8 24 40 .e4m3 .bf16 .rz),
      (0x23840C1400000008, .pack2 8 24 40 .i16 .rne)] : List (Nat × Instr)).all
      (fun p => decodeTableWord 64 p.1 = some p.2 && (encode p.2).map (·.toNat) = some p.1) = true := by decide

theorem test_decode_float_3 :
    ([(0x24040C0000000004, .unpk2 8 24 .x16)] : List (Nat × Instr)).all
      (fun p => decodeTableWord 64 p.1 = some p.2 && (encode p.2).map (·.toNat) = some p.1) = true := by decide

theorem test_decode_move_and_control_1 :
    ([(0x24840C0000000000, .mov 8 24), (0x2504000000000004, .sysr 8 .tidx), (0x2580000000000000, .nop),
      (0x3000007FFFFFFFE8, .next 0xFFFFFFFFD), (0x30800C7FFFFFFFE9, .br 24 0xFFFFFFFFD true), (0x31000C0000000000, .brx 24),
      (0x3184000000000030, .call 8 6), (0x32040C0000000000, .callx 8 24), (0x32800C0000000000, .ret 24), (0x3300000000000000, .exit),
      (0x3384000000000030, .refill 8 6), (0x3400000000000030, .yield 6), (0x34838C0000000030, .syscall 24 7 6),
      (0x3503800000000030, .bkpt 7 6)] : List (Nat × Instr)).all
      (fun p => decodeTableWord 64 p.1 = some p.2 && (encode p.2).map (·.toNat) = some p.1) = true := by decide

theorem test_decode_regions_1 :
    ([(0x380F000000000029, .rbegin 30 5 true), (0x3880048600000004, .commit 9 12 true), (0x39000C0000000000, .abort 24),
      (0x39840C0000000004, .ptest 8 24 true), (0x3A040C0000000004, .ptok 8 24 true), (0x3A840C0000000000, .pread 8 24),
      (0x3B040C0000000004, .pmake 8 24 true), (0x3B84000000000004, .chkerr 8 true)] : List (Nat × Instr)).all
      (fun p => decodeTableWord 64 p.1 = some p.2 && (encode p.2).map (·.toNat) = some p.1) = true := by decide

theorem test_decode_collectives_1 :
    ([(0x40040C001C000005, .gred 8 24 56 .fadd .rz), (0x45040C001C000008, .gredW 8 24 56 .min .rne),
      (0x40840C001C000090, .gscan 8 24 56 .minn true .rne), (0x45840C001C000028, .gscanW 8 24 56 .xor false .rne),
      (0x41040C1400000008, .gshf 8 24 40 .down), (0x46040C140000000C, .gshfW 8 24 40 .xor), (0x41840C1400000000, .gbcast 8 24 40),
      (0x46840C1400000000, .gbcastW 8 24 40), (0x42040C001C00000C, .gvote 8 24 56 .ballot), (0x42840C0000000004, .regsize 8 24 true),
      (0x43000C141C000000, .barinit 24 40 56), (0x43840C1400030000, .arrive 8 24 40 (.rel .core)),
      (0x44040C1400008000, .waitph 8 24 40 (.acq .grp)), (0x44840C1400028000, .testph 8 24 40 (.acq .core))] : List (Nat × Instr)).all
      (fun p => decodeTableWord 64 p.1 = some p.2 && (encode p.2).map (·.toNat) = some p.1) = true := by decide

theorem test_decode_memory_1 :
    ([(0x48040C007FFE44A1, .ld 8 24 0xFFFC .x16 .skipl1 true (.acq .pkg)),
      (0x48840C1400030111, .ldRec 8 24 40 6 .x32 .stream true .none), (0x49040C0000046A30, .st 8 24 8 .x128 .skipcc (.rel .sys)),
      (0x49840C1400040100, .stRec 8 24 40 8 .x32 .norm false .none), (0x4A040C007FF81401, .lds 8 24 0xFFF0 .x8 true (.acq .core)),
      (0x4A840C007FF80980, .sts 8 24 0xFFF0 .x64 (.rel .grp)), (0x4B040C0000080040, .ldrec 8 24 16 .keep false .none),
      (0x4B840C1400043901, .atom 8 24 40 8 .x32 .norm .fadd (.rel .die)),
      (0x4C040C1400042D89, .atomRec 8 24 40 8 .x64 .norm .exch (.acqrel .clu)),
      (0x4C840C1400041D0D, .atoms 8 24 40 8 .x32 .inc (.acqrel .core)), (0x4D000C0000200040, .pref 24 64 .keep),
      (0x4D800C1400200001, .prefRec 24 40 64 .norm true), (0x4E007F8081000000, .waitcnt 0 255 1 2)] : List (Nat × Instr)).all
      (fun p => decodeTableWord 64 p.1 = some p.2 && (encode p.2).map (·.toNat) = some p.1) = true := by decide

theorem test_decode_engines_and_system_1 :
    ([(0x50040C0000100000, .mxgo 8 24 1), (0x50840C1400000004, .mxrd 8 24 40 1), (0x51040C140000000C, .mxwr 8 24 40 3),
      (0x51840C0000200000, .cpgo 8 24 2), (0x52000C141C200000, .arrivex 24 40 56 2), (0x5284000000200004, .tlread 8 2 true),
      (0x53000C0000200000, .tlwait 24 2), (0x53800C1400040000, .cinv 24 40 .clu false), (0x5400000000080004, .icinv 0 0 .pkg true),
      (0x54840C141C3C0000, .freeze 8 24 40 56 3 .sys), (0x55040C0000300000, .thaw 8 24 3), (0x55840000000D8000, .fence 8 (.acqrel .sys)),
      (0x56040C0000000032, .fork 8 24 6 .die), (0x56840C0000000000, .join 8 24), (0x57040C001C400000, .launch 8 24 56 4),
      (0x58040C0000300000, .xfer 8 24 3)] : List (Nat × Instr)).all
      (fun p => decodeTableWord 64 p.1 = some p.2 && (encode p.2).map (·.toNat) = some p.1) = true := by decide

theorem test_decode_engines_and_system_2 :
    ([(0x58840C141C000000, .swalloc 8 24 40 56), (0x59040C0000000000, .swfree 8 24)] : List (Nat × Instr)).all
      (fun p => decodeTableWord 64 p.1 = some p.2 && (encode p.2).map (·.toNat) = some p.1) = true := by decide

theorem test_decode_pairs_1 :
    ([(0x821018001E121600, .iaddPair 8 12 ⟨.mov, 9, 11⟩), (0x841018001E121600, .isubPair 8 12 ⟨.mov, 9, 11⟩),
      (0x861018001E121600, .imulPair 8 12 ⟨.mov, 9, 11⟩), (0x881018011E121600, .iminPair true 8 12 ⟨.mov, 9, 11⟩),
      (0x8A1018011E121600, .imaxPair true 8 12 ⟨.mov, 9, 11⟩), (0x8C1018001E121600, .andPair 8 12 ⟨.mov, 9, 11⟩),
      (0x8E1018001E121600, .orPair 8 12 ⟨.mov, 9, 11⟩), (0x901018001E121600, .xorPair 8 12 ⟨.mov, 9, 11⟩),
      (0x921018001E121600, .andnPair 8 12 ⟨.mov, 9, 11⟩), (0x941018001E121600, .shlPair 8 12 ⟨.mov, 9, 11⟩),
      (0x961018001E121600, .shrPair 8 12 ⟨.mov, 9, 11⟩), (0x981018001E121600, .shraPair 8 12 ⟨.mov, 9, 11⟩),
      (0x9A1018001E121600, .rotlPair 8 12 ⟨.mov, 9, 11⟩), (0x9C1018021E121600, .icmpPair .lt 8 12 ⟨.mov, 9, 11⟩),
      (0x9E1018001E121600, .movPair 8 12 ⟨.mov, 9, 11⟩), (0xA01001F31E121600, .iaddPairImm 8 0x1F3 ⟨.mov, 9, 11⟩)] : List (Nat × Instr)).all
      (fun p => decodeTableWord 64 p.1 = some p.2 && (encode p.2).map (·.toNat) = some p.1) = true := by decide

theorem test_decode_pairs_2 :
    ([(0xA21001F31E121600, .imulPairImm 8 0x1F3 ⟨.mov, 9, 11⟩), (0xA41001F31E121600, .andPairImm 8 0x1F3 ⟨.mov, 9, 11⟩),
      (0xA61001F31E121600, .orPairImm 8 0x1F3 ⟨.mov, 9, 11⟩), (0xA81001F31E121600, .xorPairImm 8 0x1F3 ⟨.mov, 9, 11⟩),
      (0xAA1001F31E121600, .shlPairImm 8 0x1F3 ⟨.mov, 9, 11⟩), (0xAC1001F31E121600, .shrPairImm 8 0x1F3 ⟨.mov, 9, 11⟩),
      (0xAE1001F31E121600, .shraPairImm 8 0x1F3 ⟨.mov, 9, 11⟩), (0xB01001F31E121600, .moviPair 8 0x1F3 ⟨.mov, 9, 11⟩),
      (0xB21018001E121600, .iabsPair 8 12 ⟨.mov, 9, 11⟩), (0xB41018001E121600, .clzPair 8 12 ⟨.mov, 9, 11⟩),
      (0xB61018001E121600, .popcPair 8 12 ⟨.mov, 9, 11⟩), (0xB81018001E121600, .brevPair 8 12 ⟨.mov, 9, 11⟩),
      (0xC01018011E121600, .faddPair .rz 8 12 ⟨.mov, 9, 11⟩), (0xC21018011E121600, .fsubPair .rz 8 12 ⟨.mov, 9, 11⟩),
      (0xC41018011E121600, .fmulPair .rz 8 12 ⟨.mov, 9, 11⟩), (0xC61018001E121600, .fminPair 8 12 ⟨.mov, 9, 11⟩)] : List (Nat × Instr)).all
      (fun p => decodeTableWord 64 p.1 = some p.2 && (encode p.2).map (·.toNat) = some p.1) = true := by decide

theorem test_decode_pairs_3 :
    ([(0xC81018001E121600, .fmaxPair 8 12 ⟨.mov, 9, 11⟩), (0xCA1018071E121600, .fcmpPair .ord 8 12 ⟨.mov, 9, 11⟩),
      (0xCC1018011E121600, .hadd2Pair .rz 8 12 ⟨.mov, 9, 11⟩), (0xCE1018011E121600, .hmul2Pair .rz 8 12 ⟨.mov, 9, 11⟩),
      (0xD01018011E121600, .frcpPair .rz 8 12 ⟨.mov, 9, 11⟩), (0xD21018011E121600, .frsqPair .rz 8 12 ⟨.mov, 9, 11⟩),
      (0xD41018011E121600, .fsqrtPair .rz 8 12 ⟨.mov, 9, 11⟩), (0xD61018001E121600, .fexp2Pair 8 12 ⟨.mov, 9, 11⟩),
      (0xD81018001E121600, .flog2Pair 8 12 ⟨.mov, 9, 11⟩), (0xDA1018001E121600, .fsinPair 8 12 ⟨.mov, 9, 11⟩),
      (0xDC1018001E121600, .fcosPair 8 12 ⟨.mov, 9, 11⟩), (0xDE1018001E121600, .ftanhPair 8 12 ⟨.mov, 9, 11⟩),
      (0xE01018011E121600, .cvtI32Fp32Pair .rz 8 12 ⟨.mov, 9, 11⟩), (0xE21018011E121600, .cvtFp32I32Pair .rz 8 12 ⟨.mov, 9, 11⟩)] : List (Nat × Instr)).all
      (fun p => decodeTableWord 64 p.1 = some p.2 && (encode p.2).map (·.toNat) = some p.1) = true := by decide

/-- Words that are no instruction: all zeros, an unassigned opcode and pair opcode, bit 31 of a pair word, a set reserved bit (R66, R72, R75, R78). -/
theorem test_decode_refused :
    ([0, 0x0080000000000000 * 0x1B, 0x82101800C41A1401, 0x6082030400000001, 0x82101800441A1401 + 2 ^ 57 * 30, 0x2502000000000001] : List Nat).all
      (fun w => (decodeTableWord 64 w).isNone) = true := by decide

/-! ## One step of a word -/

/-- Worked examples of the spec for integer and bit words: IMULHI and IMUL (R99), SHF (R101), BFX, BFI (R102), PRMT (R104). -/
theorem test_integer_words :
    (computes (.imulhi 4 5 6 false) [(5, 0xFFFFFFFF), (6, 0xFFFFFFFF)] [(4, 0)]
      && computes (.imulhi 4 5 6 true) [(5, 0xFFFFFFFF), (6, 0xFFFFFFFF)] [(4, 0xFFFFFFFE)]
      && computes (.imul 4 5 6) [(5, 0xFFFFFFFF), (6, 0xFFFFFFFF)] [(4, 1)]
      && computes (.shf 4 5 6 7 true) [(5, 0xAB), (6, 0xCD000000), (7, 8)] [(4, 0xABCD0000)]
      && computes (.shf 4 5 6 7 false) [(5, 0xAB), (6, 0xCD000000), (7, 8)] [(4, 0xABCD)]
      && computes (.shf 4 5 6 7 true) [(5, 0xAB), (6, 0xCD000000), (7, 40)] [(4, 0xAB)]
      && computes (.shf 4 5 6 7 false) [(5, 0xAB), (6, 0xCD000000), (7, 40)] [(4, 0xCD000000)]
      && computes (.bfx 4 5 6 false) [(5, 0xF0F01234), (6, 0x818)] [(4, 0xFFFFFFF0)]
      && computes (.bfx 4 5 6 true) [(5, 0xF0F01234), (6, 0x818)] [(4, 0xF0)]
      && computes (.bfi 4 5 6 7) [(5, 0xAB), (6, 0x818), (7, 0x11223344)] [(4, 0xAB223344)]
      && computes (.prmt 4 5 6 7) [(5, 0x44332211), (6, 0x88776655), (7, 0xF740)] [(4, 0xFF885511)]) = true := by decide

/-- Worked by hand from R99 to R107: wraps, pair results, a register that is source and destination, v0, unary forms and immediates. -/
theorem test_integer_words_by_hand :
    (computes (.iaddImm 5 5 0xFFFFFFFD) [(5, 2)] [(5, 0xFFFFFFFF)]
      && computes (.iaddW 4 6 8) [(6, 0xFFFFFFFF), (7, 0), (8, 1), (9, 7)] [(4, 0), (5, 8)]
      && computes (.iaddWImm 4 6 0xFFFFFFFF) [(6, 0), (7, 1)] [(4, 0xFFFFFFFF), (5, 0)]
      && computes (.isub 4 0 5) [(5, 1)] [(4, 0xFFFFFFFF)] && computes (.iadd 0 5 5) [(5, 1)] [(0, 0)]
      && computes (.imad 4 5 6 7) [(5, 3), (6, 5), (7, 2)] [(4, 17)]
      && computes (.imin 4 5 6 false) [(5, 0xFFFFFFFF), (6, 1)] [(4, 0xFFFFFFFF)]
      && computes (.imin 4 5 6 true) [(5, 0xFFFFFFFF), (6, 1)] [(4, 1)]
      && computes (.imax 4 5 6 false) [(5, 0xFFFFFFFF), (6, 1)] [(4, 1)]
      && computes (.andn 4 5 6) [(5, 0xFF), (6, 0x0F)] [(4, 0xF0)] && computes (.iabs 4 5) [(5, 0xFFFFFFFE)] [(4, 2)]
      && computes (.shra 4 5 6) [(5, 0x80000000), (6, 4)] [(4, 0xF8000000)]
      && computes (.rotl 4 5 6) [(5, 0x80000001), (6, 4)] [(4, 0x18)] && computes (.clz 4 5) [(5, 0)] [(4, 32)]
      && computes (.popc 4 5) [(5, 0xF1)] [(4, 5)] && computes (.brev 4 5) [(5, 1)] [(4, 0x80000000)]
      && computes (.icmp 4 5 6 .lt) [(5, 0xFFFFFFFF), (6, 1)] [(4, 1)] && computes (.icmp 4 5 6 .ltn) [(5, 0xFFFFFFFF), (6, 1)] [(4, 0)]
      && computes (.lea 4 5 6 3) [(5, 100), (6, 5)] [(4, 140)] && computes (.moviW 4 0x80000000) [] [(4, 0x80000000), (5, 0xFFFFFFFF)]
      && computes (.clzW 4 6) [(6, 1), (7, 0)] [(4, 63)]) = true := by decide

/-- Worked examples of the spec for floating point and conversion: FFMA (R108), QDOT4 (R114), CVT (R117, R47), CVT.pk (R118). -/
theorem test_float_words :
    (computes (.ffma 4 5 6 7 .rne) [(5, 0x3F800001), (6, 0x3F800001), (7, 0xBF800002)] [(4, 0x28800000)]
      && computes (.qdot4 4 5 6 7 .e4m3 .e4m3 .rne) [(5, 0x7EB04038), (6, 0x38383838), (7, 0x3E800000)] [(4, 0x43E16000)]
      && computes (.cvt 4 5 .i32 .fp32 .rne) [(5, 0xC0200000)] [(4, 0xFFFFFFFE)]
      && computes (.cvt 4 5 .i32 .fp32 .rdn) [(5, 0xC0200000)] [(4, 0xFFFFFFFD)]
      && computes (.cvt 4 5 .i8 .fp32 .rne) [(5, 0xC3960000)] [(4, 0xFFFFFF80)]
      && computes (.cvt 4 5 .e4m3 .fp32 .rne) [(5, 0x43FA0000)] [(4, 0x7E)] && computes (.cvt 4 5 .e5m2 .fp32 .rne) [(5, 0x43FA0000)] [(4, 0x60)]
      && computes (.cvtPk 4 5 6 .e4m3 .bf16 .rne) [(5, 0xC0003F80), (6, 0x43FA)] [(4, 0x007EC038)]) = true := by decide

/-- SEL of a poisoned operand (R106): the poison goes with the operand selected, and the region is not tainted. -/
theorem test_sel_poison :
    let s (c : Word) := one (th1 [(5, .bad 0x07050113), (6, .clean 7), (7, .clean c)]) (wg1 .copy)
    (regOf (after (.sel 4 5 6 7) (s 1)) 4 = some (.bad 0x07050113) ∧ regOf (after (.sel 4 5 6 7) (s 0)) 4 = some (.clean 7))
      ∧ (thOf (after (.sel 4 5 6 7) (s 1)) 0).map (·.region.taint) = some false := by decide

/-- FADD with two poisoned sources takes the first one's token (R95). -/
theorem test_fadd_poison :
    regOf (after (.fadd 4 5 6 .rne) (one (th1 [(5, .bad 0x01010111), (6, .bad 0x02010111)]) (wg1 .copy))) 4 = some (.bad 0x01010111) := by
  decide

/-- A pair word reads both halves before it writes (R73): MOV v5, v6 | MOV v6, v5 swaps. -/
theorem test_pair_swaps : computes (.movPair 5 6 ⟨.mov, 6, 5⟩) [(5, 1), (6, 2)] [(5, 2), (6, 1)] = true := by decide

/-- A reduction adds as a tree (R62): 2^24, 1, 1 and -2^24 give 1; without the third thread, 0. -/
theorem test_reduce_tree :
    reduce .fadd .rne false [some 0x4B800000, some 0x3F800000, some 0x3F800000, some 0xCB800000] = 0x3F800000
      ∧ reduce .fadd .rne false [some 0x4B800000, some 0x3F800000, none, some 0xCB800000] = 0 := by decide

/-- BR.z v9 three words after its target, with v9 zero, goes back to it and ends the span; with v9 not zero the thread goes to the next word
(R126). -/
theorem test_branch :
    let s (v : Word) := one { th1 (clean [(9, v)]) with off := 4 } (wg1 .copy)
    let at' (u : State) := (thOf u 0).map fun th => (th.span, th.off)
    at' (after (.br 9 0xFFFFFFFFD true) (s 0)) = some (0x1008, 0) ∧ at' (after (.br 9 0xFFFFFFFFD true) (s 1)) = some (0x1028, 0) := by decide

/-- CALL writes the address of the next word to D and goes to its target (R128). -/
theorem test_call :
    let u := after (.call 8 16) (one { th1 [] with off := 2 } (wg1 .copy))
    (thOf u 0).map (·.span) = some 0x1090 ∧ regOf u 8 = some (.clean 0x1018) ∧ regOf u 9 = some (.clean 0) := by decide

/-- The home lane of thread 27 of a workgroup of width 16, depth 4 and swizzle 5 is base + 14 (R26). -/
theorem test_home_lane : laneOf 0 16 5 27 = 14 ∧ [11, 27, 43, 59].map (laneOf 0 16 5) = [11, 14, 1, 4] := by decide

/-- A poisoned operand of ABORT enters recovery (R161): TOKREG holds the token as clean data, and the thread is at its target. -/
theorem test_abort_recovers :
    let u := after (.abort 4) (one (th1 [(4, .bad 0x01010111)]) (wg1 .copy))
    regOf u 30 = some (.clean 0x01010111) ∧ (thOf u 0).map (fun th => (th.span, th.off, th.cond)) = some (0x2000, 0, .ready 0 0) := by decide

/-- A scratchpad store is held until COMMIT, which releases it and raises STC; its home then writes the bytes (R28, R152, R160, R286). -/
theorem test_store_commit_home :
    let s := after (.sts 5 4 8 .x32 .none) (one (th1 (clean [(4, 0x100), (5, 0xAABBCCDD)])) (wg1 .copy))
    let c := after (.commit 0 0 false) { s with focus := some 0 }
    let h := after (.homeStore 1) c
    s.ops = [] ∧ (thOf s 0).map (fun th => (th.stc, th.region.stores.length)) = some (0, 1)
      ∧ (thOf c 0).map (fun th => (th.stc, th.region.stores.length)) = some (1, 0)
      ∧ (wgAt h 0).map (fun w => memGetN w.spad 0x108 5) = some [0xDD, 0xCC, 0xBB, 0xAA, 0]
      ∧ (thOf (after (.storeAck 1) h) 0).map (·.stc) = some 0 := by decide

/-- A load sees the thread's own held store (R152), and its register is written when the result comes (R96). -/
theorem test_load_own_store :
    let s := after (.sts 5 4 0 .x32 .none) (one (th1 (clean [(4, 0x100), (5, 0xAABBCCDD)])) (wg1 .copy))
    let l := after (.lds 6 4 0 .x16 true .none) { s with focus := some 0 }
    (thOf l 0).map (fun th => (th.ldc, th.pending)) = some (1, [6]) ∧ regOf (after (.loadResult 1) l) 6 = some (.clean 0xFFFFCCDD) := by decide

/-- A flat load through the page tables (R359): the address is mapped to itself, its
result waits for its fill (R422), and a page that is not present gives a token of PAGE-MISS. -/
theorem test_flat_load :
    let s (a : Word) := mapped (one (th1 (clean [(4, a), (5, 0)])) (wg1 .copy))
    let u := after (.ld 6 4 0 .x32 .norm false .none) (s 0x40000)
    regOf (after (.loadResult 1) (after (.dirRead 0 0x400) u)) 6 = some (.clean 0xAABBCCDD) ∧ regOf (after (.loadResult 1) u) 6 = some (.clean 0)
      ∧ regOf (after (.ld 6 4 0 .x32 .norm false .none) (s 0x50000)) 6 = some (.bad 0x01010100) := by decide

/-- After YIELD 64 further opportunities of its port remain (R136; log 65). -/
theorem test_yield : (thOf (after (.yield 2) (one (th1 []) (wg1 .copy))) 0).map (·.cond) = some (.ready 0 65) := by decide

/-- A store to a misaligned address taints the region with INVALID (R153, R209). -/
theorem test_misaligned_store :
    let u := after (.st 6 4 1 .x32 .norm .none) (mapped (one (th1 (clean [(4, 0x40000), (5, 0)])) (wg1 .copy)))
    (thOf u 0).map (fun th => (th.region.taint, (th.region.first.extractLsb' 8 8).toNat)) = some (true, 7) := by decide

/-! ## States that meet the hypotheses of the statements: words -/

/-- The thread of a word, with the word's clean operands, or poisoned where listed. -/
def st (regs : List (Nat × RegVal)) : State := one (th1 regs) (wg1 .copy)

def tok1 : Word := 0x01010111
def bad1 : RegVal := .bad tok1

/-- ArithmeticWordsCompute, MoveWordsCompute, PairWordsCompute: a word of each kind issues, and names no port. -/
theorem wit_ArithmeticWordsCompute :
    (integerFn (.iadd 4 5 6)).isSome = true ∧ (floatFn (.ffma 4 5 6 7 .rne)).isSome = true
      ∧ [Instr.iadd 4 5 6, .iaddW 4 6 8, .shlImm 4 5 40, .ffma 4 5 6 7 .rne, .cvt 4 5 .i8 .fp32 .rz, .fexp2 4 5].all (fun i =>
          (integerFn i).isSome != (floatFn i).isSome && issuesNow i (st (clean [(5, 1)])) 0 grp1 && noPorts i (st (clean [(5, 1)])) grp1) = true := by
  decide

theorem wit_MoveWordsCompute :
    [Instr.sel 4 5 6 7, .selW 4 6 8 10, .mov 4 5, .sysr 4 .tidx, .nop].all (fun i =>
      issuesNow i (st [(5, bad1)]) 0 grp1 && noPorts i (st [(5, bad1)]) grp1) = true := by decide

theorem wit_PairWordsCompute :
    [pairInstr ⟨.iadd, 8, 12⟩ ⟨.fmul .rz, 13, 9⟩, pairInstr ⟨.icmp .lt, 9, 14⟩ ⟨.shlImm 4, 10, 0⟩, pairInstr ⟨.mov, 5, 6⟩ ⟨.mov, 6, 5⟩].all
      (fun i => issuesNow i (st [(5, bad1)]) 0 grp1) = true := by decide

/-- PortsPopAndPush: a word that reads the port v248, whose FIFO holds an entry, and one that writes it. -/
theorem wit_PortsPopAndPush :
    let w : Workgroup := { wg1 .copy with fifos := [(0, [.clean 7])] }
    sole (.iadd 4 248 5) (one (th1 []) w) (fun th w => isPort w 248 && fifoAt w th.lane 248 ≠ []) = true
      ∧ sole (.iadd 248 4 5) (st []) (fun _ w => isPort w 248) = true
      ∧ ((usesOf (.iadd 4 248 5)).filter isDst).length = 1 ∧ ((usesOf (.iadd 248 4 5)).filter isDst).length = 1 := by decide

/-- StalledWordChangesNothing: a word whose source awaits a result, and a word whose port is empty. -/
theorem wit_StalledWordChangesNothing :
    let a := one { th1 [] with pending := [5] } (wg1 .copy)
    (encode (.iadd 4 5 6)).isSome = true ∧ legalHere (.iadd 4 5 6) a 0 = true ∧ txStops (.iadd 4 5 6) a 0 = false
      ∧ stallAmong (.iadd 4 5 6) a 0 [0] = some .wait
      ∧ (encode (.iadd 4 248 6)).isSome = true ∧ stallAmong (.iadd 4 248 6) (st []) 0 [0] = some (.park .queue) := by decide

/-! ## Span ends, services and regions -/

/-- TransfersGoToTheirSuccessor: each transfer issues with a valid target; YIELD issues from the thread's port. -/
theorem wit_TransfersGoToTheirSuccessor :
    let s := st (clean [(8, 0x3000)])
    [Instr.next 2, .br 4 2 true, .brx 8, .ret 8, .call 10 2, .callx 10 8, .yield 2].all (fun i => issuesNow i s 0 grp1) = true
      ∧ goodTarget (reg2 (th1 (clean [(8, 0x3000)])) 8) ∧ goodTarget (cleanVal (targetOf (th1 []) 2))
      ∧ goodTarget (cleanVal (wordAddr (th1 []) + 8)) ∧ (idxOf 0 / (wg1 .copy).hdr.width + (wg1 .copy).parity) % 2 = grp1.port := by
  refine ⟨by decide, ?_, ?_, ?_, by decide⟩ <;> (unfold goodTarget; decide)

theorem wit_PoisonedTransfersRecover :
    [Instr.abort 4, .br 4 2 true, .brx 4, .ret 4, .callx 10 4].all (fun i =>
      sole i (st [(4, bad1)]) fun th _ => th.region.target = some 0x2000 && th.unacked = none && (reg1 th 4).tok = some tok1
        && (reg2 th 4).tok = some tok1) = true := by decide

def rec1 (nitems nwg : Nat) : LaunchRec :=
  { sigval := 0, wval1 := 0, wval0 := 0, stataddr := 0, args := 0, khdr := 0, nitems := nitems, nwg := nwg, sigidx := 0, widx1 := 0, widx0 := 0,
    part := 0, inten := false, sigen := false, w1en := false, w0en := false, prio := 0, reserved := false }

def launch1 (nitems nwg : Nat) : Launch :=
  { recd := rec1 nitems nwg, queue := 0, part := 0, hdr := hdr1 .copy, status := .done, device := none, activated := 0, nextItem := 0, placed := nwg,
    blockedSince := 0, dieBind := [], cluBind := [], energy := 0, energyFine := 0, charge := 0, first := 0, uncaught := 0, count := 0, sticky := false, events := 0,
    aborted := false }

theorem wit_RefillTakesTheNextItem :
    let s := { st [] with launches := [(0, launch1 20 1)] }
    sole (.refill 4 2) s (fun _ w => w.hdr.persist = false && w.launch = 0) = true ∧ (launch1 20 1).nextItem < (launch1 20 1).recd.nitems := by
  decide

/-- ServiceWordsSendRequests: SYSCALL with a clean octet; BKPT with the debug enable of the partition set, and clear. -/
theorem wit_ServiceWordsSendRequests :
    let dbg := { st [] with parts := (st []).parts.modify 0 fun p => { p with pdbg := true } }
    sole (.syscall 8 3 2) (st []) (fun th _ => th.unacked = none && (firstTok (readRegs th 8 8)).isNone) = true
      ∧ sole (.bkpt 3 2) dbg (fun _ w => (partAt dbg w.part).pdbg) = true
      ∧ sole (.bkpt 3 2) (st []) (fun _ w => !(partAt (st []) w.part).pdbg) = true := by decide

/-- StalledWordChangesNothing: its further premise, that no member has acted on the word. -/
theorem wit_StalledWordChangesNothing_acted :
    hasActed (one { th1 [] with pending := [5] } (wg1 .copy)) 0 = false ∧ hasActed (st []) 0 = false ∧ (wg1 .copy).hdr.recover = 0 := by decide

/-- PoisonedTransfersRecover: ABORT with a clean operand; transfers whose clean successor is below zero, hence not canonical, and misaligned. -/
theorem wit_PoisonedTransfersRecover_clean :
    let s := st (clean [(4, 7), (8, 0x3004)])
    sole (.abort 4) s (fun th _ => (reg1 th 4).tok = none && th.region.target = some 0x2000) = true
      ∧ [Instr.next (-0x400), .br 4 (-0x400) false, .call 10 (-0x400), .brx 8, .ret 8, .callx 10 8].all (fun i =>
          sole i s fun th _ => match successorOf i th with
            | some v => v.tok = none && (successorFault v.data).isSome
            | none => false) = true := by decide

/-- RefillTakesTheNextItem: a persistent workgroup with vacant slots and items; no item left, with held stores, and in a tainted region; a vacant slot. -/
theorem wit_RefillTakesTheNextItem_persistent :
    let pw : Workgroup := { wg1 .copy with hdr := { hdr1 .copy with persist := true }, vacant := [(1, 0), (3, 0), (5, 1)] }
    let s (th : Thread) (n : Nat) : State := { one th pw with launches := [(0, launch1 n 1)], now := 1 }
    let held := { th1 [] with region := { region1 with stores := [⟨.spad 0 0x100, 0x100, [1, 2], .norm, 3, 0x1000, 0⟩] } }
    let bad := { th1 [] with region := { region1 with taint := true, first := tok1 } }
    (sole (.refill 4 2) (s (th1 []) 20) (fun _ w => w.hdr.persist && w.vacant.all fun p => p.1 < 2048) = true
        ∧ 0 ∉ startableSlots (s (th1 []) 20) 0 ∧ startableSlots (s (th1 []) 20) 0 ≠ [] ∧ goodTarget (cleanVal (targetOf (th1 []) 2)))
      ∧ (sole (.refill 4 2) (s held 0) (fun th _ => th.region.mode = .plain && !th.region.taint) = true ∧ tidy (s held 0))
      ∧ sole (.refill 4 2) (s bad 0) (fun th _ => th.region.taint && th.region.target = some 0x2000) = true
      ∧ (after (.refill 4 2) (s (th1 []) 20)).threads.length = 1 + (startableSlots (s (th1 []) 20) 0).length := by
  refine ⟨⟨by decide, by decide, by decide, ?_⟩, ⟨by decide, tidy_of (by decide)⟩, by decide, by decide⟩
  unfold goodTarget
  decide

/-- ServiceWordsSendRequests: SYSCALL whose octet holds poison. -/
theorem wit_ServiceWordsSendRequests_poison :
    sole (.syscall 8 3 2) (st [(9, bad1)]) (fun th _ => th.unacked = none && firstTok (readRegs th 8 8) = some tok1
      && th.region.target = some 0x2000) = true := by decide

def org1 : Org := { issue := 10, core := 0, wg := 0, span := 0x1000, off := 0, lane := 0, idx := 0 }

theorem look_range' {α : Type} (f : Nat → α) : ∀ n a i, a ≤ i → i < a + n → look ((List.range' a n).map fun k => (k, f k)) i = some (f i) := by
  intro n
  induction n with
  | zero => intro a i h1 h2; omega
  | succ n ih =>
    intro a i h1 h2
    simp only [List.range'_succ, List.map_cons, look]
    split
    · next h => rw [h]
    · rw [if_neg (by omega)]
      exact ih (a + 1) i (by omega) (by omega)

def pending1 : PoisonRec := { PoisonRec.zero with status := 2, gen := 1, cause := 1 }

def coreState (c : Core) : State := { st [] with cores := [(0, c)] }

theorem allocIndex_none {c : Core} (h : ∀ i, 1 ≤ i → i < 256 → look c.recs i = some pending1) (o : c.order = [1]) :
    allocIndex (coreState c) 0 = none := by
  have r : ∀ i, 1 ≤ i → i < 256 → recAt (coreState c) 0 i = pending1 := by
    intro i h1 h2
    show (look c.recs i).getD PoisonRec.zero = pending1
    rw [h i h1 h2]
    rfl
  have n : (List.range' 1 255).find? (fun i => (recAt (coreState c) 0 i).status = stFree) = none := by
    rw [List.find?_eq_none]
    intro i hi
    obtain ⟨j, hj, rfl⟩ := List.mem_range'.1 hi
    rw [r _ (by omega) (by omega)]
    decide
  have m : recHeld (coreState c) 0 1 = true := by
    unfold recHeld
    rw [r 1 (by omega) (by omega)]
    rfl
  have e : (coreAt (coreState c) 0).order = [1] := o
  unfold allocIndex
  rw [n, e]
  simp [m]

/-- A core none of whose records is free or may be reclaimed: each of the 255 is PENDING. -/
def fullCore : Core := { Core.reset with recs := (List.range' 1 255).map fun i => (i, pending1), order := [1] }

/-- MakeTokenRecords: a core with a free record, and one with none to take. -/
theorem wit_MakeTokenRecords :
    (st []).issueFaults = [] ∧ allocIndex (st []) 0 = some 1 ∧ allocIndex (coreState fullCore) 0 = none :=
  ⟨rfl, by decide, allocIndex_none (fun i h1 h2 => look_range' (fun _ => pending1) 255 1 i h1 h2) rfl⟩

def held1 : HeldStore := { loc := .spad 0 0x100, va := 0x100, bytes := [1, 2, 3, 4], pol := .norm, issue := 3, span := 0x1000, off := 0 }

def thR (f : Region → Region) : Thread := { th1 [] with region := f region1 }

/-- RegionWordsAct: RBEGIN; a clean commit with a held store; a tainted commit; a tainted replay whose record is PENDING. -/
theorem wit_RegionWordsAct :
    let tainted := { thR fun r => { r with taint := true, first := tok1, list := [(1, 1)] } with region.stores := [held1] }
    let s := { one tainted (wg1 .copy) with cores := [(0, { Core.reset with recs := [(1, { PoisonRec.zero with status := 2, gen := 1, cause := 1 })] })] }
    sole (.rbegin 30 5 true) (st []) (fun _ _ => true) = true
      ∧ sole (.commit 0 0 false) (one (thR fun r => { r with stores := [held1] }) (wg1 .copy)) (fun th _ => th.region.mode = .plain
          && !th.region.taint && (reg1 th 0).tok = none) = true
      ∧ sole (.commit 0 0 false) s (fun th _ => th.region.taint && th.region.target = some 0x2000 && (reg1 th 0).tok = none) = true
      ∧ sole (.commit 0 0 true) s (fun th w => th.region.taint && !th.region.full && th.region.list = [(1, 1)]
          && (recAt s w.core 1).gen.toNat = 1 && (recAt s w.core 1).wgslot = BitVec.ofNat 8 w.slot && (recAt s w.core 1).cause = 1
          && (recAt s w.core 1).status = 2) = true := by decide


/-- RegionWordsAct: COMMIT.replay with a full list, with a token of record 0, and with a record of a final cause. -/
theorem wit_RegionWordsAct_final :
    let s (l : List (Nat × Nat)) (full : Bool) : State :=
      one { th1 [] with region := { region1 with taint := true, first := tok1, list := l, full := full, stores := [held1] } } (wg1 .copy)
    [([], true), ([(0, 1)], false), ([(1, 1)], false)].all (fun p => sole (.commit 0 0 true) (s p.1 p.2) fun th w =>
      th.region.taint && th.region.target = some 0x2000 && (reg1 th 0).tok = none
        && (th.region.full || th.region.list.any fun x => x.1 = 0 || !([0x10#8, 0x11#8, 0x13#8, 0x01#8, 0x02#8, 0x0D#8].contains (recAt (s p.1 p.2) w.core x.1).cause)))
      = true := by decide

def txLoc : Loc := .phys 0x40000 .tracked 0 0
def txHeld : HeldStore := { held1 with loc := txLoc, va := 0x40000 }
def thTx (read : Byte) : Thread := thR fun r => { r with mode := .tx, stores := [txHeld], reads := [⟨txLoc, 0x40000, [some read]⟩] }

/-- TransactionCommitsAtOnce: a transaction that stores a word whose first byte it has read; the byte stands, or has changed. -/
theorem wit_TransactionCommitsAtOnce :
    let s (b : Byte) := mapped (one (thTx b) (wg1 .copy))
    [0xDD, 0xDE].all (fun b => sole (.commit 0 0 false) (s b) fun th _ => th.region.mode = .tx && !th.region.taint && (reg1 th 0).tok = none
        && th.region.target = some 0x2000 && th.region.reads = [⟨txLoc, 0x40000, [some b]⟩]) = true
      ∧ homeOf (s 0) 0x40000 = .dram 0 ∧ memGet (s 0).mem 0x40000 = 0xDD ∧ (s 0).ops = [] ∧ (s 0).freezes = [] ∧ (s 0).poison = [] := by decide

def th2 : Thread := { thTx 0xDD with lane := 1, serial := 9 }

/-- Two threads of one group, each with the same transaction. -/
def twoTx : State :=
  { mapped (one (thTx 0xDD) (wg1 .copy)) with threads := [(0, thTx 0xDD), (1, th2)], groups := [(0, { grp1 with members := [0, 1] })] }

theorem ready_tx {s : State} (o : s.ops = []) (h : homeOf s 0x40000 = .dram 0) (t : Nat) {th : Thread}
    (b : Byte) (r : th.region = (thTx b).region) : txReady s t th := by
  unfold txReady
  rw [r]
  refine ⟨rfl, rfl, by simp [o], ?_, ?_⟩
  · intro x m
    obtain rfl : x = txHeld := by simpa [thTx, thR, region1] using m
    exact ⟨0x40000, .tracked, 0, 0, 0, rfl, h, by decide⟩
  · intro e m
    obtain rfl : e = ⟨txLoc, 0x40000, [some b]⟩ := by simpa [thTx, thR, region1] using m
    exact ⟨0x40000, .tracked, 0, 0, 0, rfl, h, by show 0 + 1 ≤ 64; decide⟩

/-- TransactionCommitsAtOnce: a transaction that is ready and whose read stands; one of two threads, whose sets meet. -/
theorem wit_TransactionCommitsAtOnce_ready :
    txReady twoTx 0 (thTx 0xDD) ∧ readsStand twoTx (thTx 0xDD) ∧ issuesNow (.commit 0 0 false) twoTx 0 { grp1 with members := [0, 1] } = true
      ∧ thOf twoTx 0 = some (thTx 0xDD) ∧ thOf twoTx 1 = some th2 ∧ txReady twoTx 1 th2 ∧ twoTx.poison = [] ∧ twoTx.freezes = []
      ∧ (∃ p ∈ writeLocs th2.region, ∃ q ∈ readLocs (thTx 0xDD).region, locsMeet p.1 p.2 q.1 q.2 = true)
      ∧ (thOf (after (.commit 0 0 false) twoTx) 1).map (·.span) = some 0x2000 := by
  refine ⟨ready_tx rfl (by decide) 0 0xDD rfl, ?_, by decide, by decide, by decide, ready_tx rfl (by decide) 1 0xDD rfl, by decide, by decide, by decide, by decide⟩
  intro e m j v h
  obtain rfl : e = ⟨txLoc, 0x40000, [some 0xDD]⟩ := by simpa [thTx, thR, region1] using m
  match j with
  | 0 => obtain rfl : v = 0xDD := by simpa using h.symm
         decide
  | _ + 1 => simp at h

/-- PoisonWordsAct: each word issues on a poisoned and on a clean operand. -/
theorem wit_PoisonWordsAct :
    [Instr.ptest 8 4 false, .ptest 8 4 true, .ptok 8 4 false, .ptok 8 4 true, .pread 16 4, .pmake 8 4 true, .pmake 8 4 false, .chkerr 8 false,
      .chkerr 8 true].all (fun i => sole i (st [(4, bad1)]) (fun th _ => (reg2 th 4).tok = some tok1)
        && sole i (st []) fun th _ => (reg2 th 4).tok = none) = true := by decide

/-- ThreadsEnd: EXIT; an ABORT of a poisoned operand in a region without a target. -/
theorem wit_ThreadsEnd :
    let s := { one { th1 [(4, bad1)] with region := { region1 with target := none } } (wg1 .copy) with launches := [(0, launch1 0 1)] }
    sole .exit (st []) (fun _ _ => true) = true
      ∧ sole (.abort 4) s (fun th w => th.region.target = none && !th.region.taint && (reg1 th 4).tok = some tok1 && w.launch = 0) = true := by decide

/-- ThreadsEnd: the tables of both states are in order. -/
theorem wit_ThreadsEnd_tidy :
    tidy (st []) ∧ tidy { one { th1 [(4, bad1)] with region := { region1 with target := none } } (wg1 .copy) with launches := [(0, launch1 0 1)] } :=
  ⟨tidy_of (by decide), tidy_of (by decide)⟩

/-! ## Memory instructions at issue -/

/-- A buffer record in b8 (R29): 16 elements of 4 bytes from 0x40000, of format x32, of a bounds mode; the index of v16 is i. -/
def recRegs (bmode i : Word) : List (Nat × RegVal) := clean [(8, 0x40000), (10, 16), (11, 0x200 + 0x10000 * bmode), (12, 4), (16, i)]

/-- The address of the mapped page, a value, and what else is listed. -/
def sm (regs : List (Nat × RegVal)) : State := mapped (st regs)
def flatRegs : List (Nat × RegVal) := clean [(4, 0x40000), (6, 0x55)]
def missRegs : List (Nat × RegVal) := clean [(4, 0x50000), (6, 0x55)]
def badRegs : List (Nat × RegVal) := [(4, bad1)]

/-- Whether a formed address passes (0), is dropped or filled with zero (1), or fails with a token to make (2) or with an operand's (3). -/
def formed : Formed → Nat
  | .at _ => 0
  | .dropped => 1
  | .fault (.make _) => 2
  | .fault (.tok _) => 3

/-- LoadsIssue: each load instruction with an address that passes, one that fails, one of a poisoned operand, and one filled with zero. -/
theorem wit_LoadsIssue :
    let ld (s : State) (n : Nat) := sole (.ld 10 4 0 .x32 .norm false (.acq .pkg)) s fun th w =>
      formed (formFlat (entered s) th w 4 0 4 .read .norm).1 = n && (readEntry th ⟨txLoc, 0, 4, .norm, none⟩ [none]).isSome
    let rec1 (s : State) (n : Nat) := sole (.ldRec 10 8 16 0 .x32 .norm false .none) s fun th w =>
      formed (formRec (entered s) th w 8 16 false 0 .load (fun f => sizeOk f .x32) .read .norm).1 = n
    (ld (sm flatRegs) 0 && ld (sm missRegs) 2 && ld (sm badRegs) 3
      && rec1 (sm (recRegs 0 1)) 0 && rec1 (sm (recRegs 2 16)) 1 && rec1 (sm (recRegs 0 16)) 2
      && sole (.lds 10 6 0 .x8 true .none) (sm flatRegs) (fun th w => formed (formSpad th w 0 6 0 1) = 0)
      && sole (.ldrec 16 6 0xB .norm true .none) (sm flatRegs) (fun th w => formed (formSpad th w 0 6 0xB 32) = 0)) = true := by decide

/-- StoresAreHeldOrGoOut: a store with an address that passes, one into a full buffer, one that fails, a poisoned operand, a dropped one; poisoned data at an address
that passes and at one that is dropped; a release. -/
theorem wit_StoresAreHeldOrGoOut :
    let full := { th1 flatRegs with region := { region1 with stores := List.replicate 32 held1 } }
    let sts (s : State) (k n : Nat) := sole (.sts 6 7 8 .x32 .none) s fun th w =>
      formed (formSpad th w 0 7 8 4) = k && th.region.stores.length = n && !th.region.taint
    (sts (sm flatRegs) 0 0 && sts (one full (wg1 .copy)) 0 32 && sts (sm (clean [(7, 0x2000)])) 2 0
      && sole (.st 4 4 0 .x32 .norm .none) (sm badRegs) (fun th w => formed (formFlat (sm badRegs) th w 4 0 4 .write .norm).1 = 3)
      && sole (.st 8 4 0 .x32 .norm .none) (sm ((8, bad1) :: flatRegs)) (fun th w => firstTok (readRegs th 8 1) = some tok1
          && formed (formFlat (sm ((8, bad1) :: flatRegs)) th w 4 0 4 .write .norm).1 = 0)
      && sole (.stRec 6 8 16 0 .x32 .norm false .none) (sm ((6, bad1) :: recRegs 2 16)) (fun th w => firstTok (readRegs th 6 1) = some tok1
          && formed (formRec (entered (sm (recRegs 2 16))) th w 8 16 false 0 .store (fun f => sizeOk f .x32) .write .norm).1 = 1)
      && sole (.stRec 6 8 16 0 .x32 .norm false .none) (sm (recRegs 2 16)) (fun th w =>
          formed (formRec (entered (sm (recRegs 2 16))) th w 8 16 false 0 .store (fun f => sizeOk f .x32) .write .norm).1 = 1)
      && sole (.st 6 4 0 .x32 .norm (.rel .die)) (sm flatRegs) (fun th w => th.unacked = none && th.region.mode = .plain
          && (firstTok (readRegs th 4 2 ++ readRegs th 6 1)).isNone
          && formed (formFlat (modTh (issued (.st 6 4 0 .x32 .norm (.rel .die)) (sm flatRegs) grp1) 0 fun th =>
              { th with relSince := none, unacked := none }) th w 4 0 4 .write .norm).1 = 0)) = true := by decide

/-- LoadsIssue and StoresAreHeldOrGoOut: a transaction whose read set, and one whose buffer, is full; a plain buffer that is full. -/
theorem wit_StoresAreHeldOrGoOut_capacity :
    let loc (k : Nat) : Loc := .phys (0x41000 + 64 * k) .tracked 0 0
    let tx (f : Region → Region) : State := mapped (one { th1 flatRegs with region := f region1 } (wg1 .copy))
    let reads := tx fun r => { r with mode := .tx, reads := (List.range 32).map fun k => ⟨loc k, 0, [some 0]⟩ }
    let stores (m : RMode) := tx fun r => { r with mode := m, stores := (List.range 32).map fun k => { txHeld with loc := loc k } }
    (sole (.ld 10 4 0 .x32 .norm false .none) reads (fun th w => th.region.mode = .tx && (match (formFlat (entered reads) th w 4 0 4 .read .norm).1 with
        | .at p => !isRemote (locHome reads p.loc) && (readEntry th p (heldBytes th p.loc p.n)).isNone
        | _ => false))
      && [RMode.tx, .plain].all fun m => sole (.st 6 4 0 .x32 .norm .none) (stores m) fun th w => th.region.mode = m && th.region.stores.length = 32
        && !th.region.taint && (firstTok (readRegs th 6 1)).isNone && (match (formFlat (entered (stores m)) th w 4 0 4 .write .norm).1 with
          | .at p => !isRemote (locHome (stores m) p.loc)
          | _ => false)) = true := by decide

/-- AtomicsIssue: an atomic with a destination, one without, one on scratchpad, a release; each with a poisoned address, and with poisoned data at
an address that passes; an address that fails; one that a bounds mode drops. -/
theorem wit_AtomicsIssue :
    (([Instr.atom 10 4 6 0 .x32 .norm .add .none, .atom 0 4 6 0 .x32 .norm .fadd (.rel .die), .atomRec 10 8 16 0 .x32 .norm .add .none,
        .atoms 10 5 6 0x40 .x32 .cas (.acqrel .core)].all fun i =>
      sole i (sm (flatRegs ++ recRegs 0 1)) (fun th w => th.unacked = none && (firstTok (readRegs th 4 4)).isNone && th.region.stores.isEmpty
        && formed (formFlat (sm (flatRegs ++ recRegs 0 1)) th w 4 0 4 .atomic .norm).1 = 0 && formed (formSpad th w 0 5 0x40 4) = 0)
      && sole i (sm ((6, bad1) :: badRegs ++ [(5, bad1), (17, bad1)])) (fun th _ => (firstTok (readRegs th 4 4)).isSome)
      && sole i (sm ((6, bad1) :: (17, bad1) :: flatRegs ++ recRegs 0 1)) fun th w => firstTok (readRegs th 6 1) = some tok1 && firstTok (readRegs th 17 1) = some tok1
        && formed (formFlat (sm flatRegs) th w 4 0 4 .atomic .norm).1 = 0 && formed (formSpad th w 0 5 0x40 4) = 0)
      && sole (.atom 10 4 6 0 .x32 .norm .add .none) (sm missRegs) (fun th w => formed (formFlat (sm missRegs) th w 4 0 4 .atomic .norm).1 = 2)
      && sole (.atomRec 10 8 16 0 .x32 .norm .add .none) (sm (recRegs 2 16)) (fun th w =>
          formed (formRec (sm (recRegs 2 16)) th w 8 16 false 0 .atomic (fun f => atomFmtOk f .x32 .add) .atomic .norm).1 = 1
            && (firstTok (readRegs th 17 1)).isNone)) = true := by decide

/-- HintsDropsAndFences: each word issues, WAITCNT with counters at its limits. -/
theorem wit_HintsDropsAndFences :
    let s := sm (flatRegs ++ recRegs 0 1)
    ([Instr.pref 4 0 .norm, .prefRec 8 16 0 .norm false, .cinv 4 6 .die false, .cinv 0 0 .core true, .icinv 4 6 .pkg false, .icinv 0 0 .clu true,
        .waitcnt 0 0 255 63, .fence 9 (.rel .pkg), .fence 9 (.acq .die), .fence 9 (.acqrel .sys)].all fun i =>
      sole i s fun th _ => th.unacked = none && (match dropOperands th 4 6 with
        | .ok _ => true
        | .error _ => false)) = true := by decide

/-! ## Collectives, barriers, timelines, engines -/

/-- CollectivesArriveAndPark: each collective may be issued by a thread that is in flight and waits for nothing. -/
theorem wit_CollectivesArriveAndPark :
    [Instr.gred 4 5 0 .fadd .rne, .gredW 4 6 8 .add .rne, .gscan 4 5 0 .add true .rne, .gscanW 4 6 0 .max false .rne, .gshf 4 5 6 .idx, .gshfW 4 6 8 .xor,
      .gbcast 4 5 6, .gbcastW 4 6 0, .gvote 4 5 6 .all, .regsize 4 5 true].all (fun i =>
      legalHere i (st []) 0 && isInFlight (st []) 0 && !meetsErrorHere i (st []) 0 && stallAmong i (st []) 0 [0] = none) = true := by decide

/-- A barrier object at 0x40: one arrival of one is due, no bytes, phase 1. -/
def objWg : Workgroup := { wg1 .copy with spad := memSetN [] 0x40 [1, 0, 0, 0, 1, 0, 0, 0] }
def objRegs : List (Nat × RegVal) := clean [(20, 0x40), (21, 0), (22, 1)]

/-- BarrierWordsAct: each word at an object, met with a phase that differs and one that does not; a refused object. -/
theorem wit_BarrierWordsAct :
    let s := one (th1 objRegs) objWg
    let r := one (th1 objRegs) { objWg with spadPoison := [(1, .ecc)] }
    let ok (i : Instr) := sole i s fun th w => (match spadForm th w 20 0 16 with
        | .ok x => x = 0x40 && (objectRefused w x).isNone && (objAt w x).tcount = 1 && phaseBit w x
        | .error _ => false) && !(readReg th 20).poison && !(readReg th 21).poison && !(readReg th 22).poison && th.unacked = none
    ([Instr.barinit 20 21 22, .arrive 9 20 0 .none, .arrive 9 20 21 (.rel .core), .waitph 9 20 21 (.acq .grp), .testph 9 20 21 .none,
        .testph 9 20 22 (.acq .core)].all ok && !issuesNow (.waitph 9 20 22 .none) s 0 grp1
      && sole (.testph 9 20 21 .none) r fun _ w => objectRefused w 0x40 = some .ecc) = true := by decide

/-- TimelineWordsAct: TLREAD; TLWAIT for a number that DONE has reached, and with a poisoned one; ARRIVEX now and later. -/
theorem wit_TimelineWordsAct :
    let w : Workgroup := { objWg with tls := List.replicate 8 ⟨some (.copy, .sys), 2, 1, []⟩ }
    let s (n : Word) := one (th1 (objRegs ++ clean [(24, n)])) w
    (sole (.tlread 4 3 true) (s 1) (fun _ w => (timelineAt w 3).issued = 2) && sole (.tlwait 24 3) (s 1) (fun th _ => (reg2 th 24).tok = none)
      && !issuesNow (.tlwait 24 3) (s 2) 0 grp1 && sole (.tlwait 4 3) (one (th1 badRegs) w) (fun th _ => (reg2 th 4).tok = some tok1)
      && [1, 2].all fun n => sole (.arrivex 20 24 22 3) (s n) fun th w =>
          (firstTok [readReg th 20, readReg th 24, readReg th 25, readReg th 22]).isNone && (objectRefused w 0x40).isNone
            && ((reg2 th 24).data.toNat ≤ (timelineAt w 3).done) = (n = 1)) = true := by decide

/-- A copy request (R263): one row of 32 bytes from memory at 0x40000 to scratchpad 0x200, without a barrier object. -/
def reqBytes : List Byte :=
  leBytes 28 0x10 ++ leBytes 4 0xFFFFFFFF ++ leBytes 4 1 ++ leBytes 4 32 ++ leBytes 8 0 ++ leBytes 8 0x40000 ++ leBytes 8 0x200

/-- A transfer descriptor in octet 16 (R410): 32 bytes of scratchpad at 0x200 to address 0x10000 of device 3. -/
def xferRegs : List (Nat × RegVal) := clean [(16, 0x200), (18, 0x10000), (20, 32), (21, 0xFFFFFFFF), (22, 0x300000)]

set_option exponentiation.threshold 1024 in
/-- EngineWordsQueueOperations: each word with clean operands that pass its checks, and with a poisoned one. -/
theorem wit_EngineWordsQueueOperations :
    let s (e : Engine) (regs : List (Nat × RegVal)) := { mapped (one (th1 regs) { wg1 e with spad := memSetN [] 0x100 reqBytes }) with joined := true, pkg := 2 }
    let ok (th : Thread) (w : Workgroup) : Bool := !(readReg th 4).poison && (readReg th 4).data.toNat % 128 = 0
      && decide ((readReg th 4).data.toNat + 128 ≤ 128 * w.hdr.scratch)
    let g := clean [(4, 0x100), (5, 7), (6, 9)]
    let bad := [(4, bad1), (16, bad1)]
    (sole (.mxgo 8 4 1) (s .matrix g) ok && sole (.mxrd 8 5 6 0) (s .matrix g) (fun th _ => decide ((readReg th 5).data.toNat ≤ 127))
      && sole (.mxwr 8 5 6 3) (s .matrix g) (fun th _ => !(readReg th 8).poison)
      && sole (.cpgo 8 4 2) (s .copy g) (fun th w => ok th w && (copyFault w (memGetN w.spad 0x100 64)).isNone && (poisonIn w.spadPoison 0x100 64).isNone)
      && sole (.xfer 8 16 3) (s .xfer xferRegs) (fun th w => (firstTok (readRegs th 16 8)).isNone && (xferFault (s .xfer []) w (octetRec th 16)).isNone)
      && sole (.mxgo 8 4 1) (s .matrix bad) (fun th _ => readReg th 4 = bad1) && sole (.cpgo 8 4 1) (s .copy bad) (fun th _ => readReg th 4 = bad1)
      && sole (.xfer 8 16 3) (s .xfer bad) (fun th _ => firstTok (readRegs th 16 8) = some tok1)
      && sole (.mxrd 8 4 6 0) (s .matrix bad) (fun th _ => firstTok [readReg th 4, readReg th 6] = some tok1)
      && sole (.mxwr 8 4 6 0) (s .matrix bad) (fun th _ => firstTok [readReg th 4, readReg th 6, readReg th 8] = some tok1)) = true := by decide

/-- EngineWordsQueueOperations: descriptor addresses that are misaligned or beyond the scratchpad, and indices beyond the tile. -/
theorem wit_EngineWordsQueueOperations_range :
    let s (e : Engine) (x : Word) := one (th1 (clean [(4, x), (6, 9)])) (wg1 e)
    let at' (x : Word) (th : Thread) (_ : Workgroup) : Bool := !(readReg th 4).poison && (readReg th 4).data = x
    ([0x104, 0x2000].all (fun x => sole (.mxgo 8 4 1) (s .matrix x) (at' x) && sole (.cpgo 8 4 2) (s .copy x) (at' x))
      && sole (.mxrd 8 4 6 0) (s .matrix 128) (at' 128) && sole (.mxwr 8 4 6 0) (s .matrix 128) (fun th w => at' 128 th w && !(readReg th 8).poison)
      && (s .matrix 128).issueFaults.isEmpty && (indexToken (entered (s .matrix 128)) 10 0 (th1 (clean [(4, 128), (6, 9)])) 0 128 9).2.toNat / 2 ^ 24 != 0)
      = true := by decide

/-- ExitFreezeThawComplete, EXIT: the tables of the state are in order. -/
theorem wit_ExitFreezeThawComplete_tidy : tidy (st []) ∧ issuesNow .exit (st []) 0 grp1 = true := ⟨tidy_of (by decide), by decide⟩

/-- ExitFreezeThawComplete: EXIT; FREEZE with a free entry and with none; THAW of a handle that is freezing, and of one that is frozen. -/
theorem wit_ExitFreezeThawComplete :
    let f (x : FState) : FreezeEntry :=
      { dvec := [], pgran := 4, count := 1, gen := 3, part := 0, state := x, sys := false, link := 0, last := true, lvec := [], pend := 0 }
    let s (x : FState) : State := { mapped (one (th1 (clean [(4, 0x40000), (6, 0x10000), (7, 0x10300)])) (wg1 .freeze)) with freezes := [(0, f x)] }
    let fr := Instr.freeze 8 4 6 10 3 .sys
    (sole .exit (s .frozen) (fun th _ => th.unacked = none) && sole fr (s .freezing) (fun th _ => th.unacked = none && (firstTok (readRegs th 4 2 ++ readRegs th 6 1)).isNone
          && (freezeFault (reg2 th 4).data (reg1 th 6).data.toNat).isNone) && freeEntry (issued fr (s .freezing) grp1) = some 1
      && [FState.freezing, .frozen].all fun x => sole (.thaw 8 7 3) (s x) fun th w => (reg1 th 7).tok = none
          && liveHandle (s x) w.part (readReg th 7).data = some 0 && (freezeAt (s x) 0).state = x && (freezeAt (s x) 0).last) = true := by decide

/-- With all 256 entries of the freeze table taken, none is free (R298). -/
theorem wit_ExitFreezeThawComplete_full (s : State)
    (e : s.freezes = (List.range' 0 256).map fun i => (i, ({ FreezeEntry.reset with state := .frozen } : FreezeEntry))) : freeEntry s = none := by
  unfold freeEntry
  rw [List.find?_eq_none]
  intro i hi
  have hi := List.mem_range.1 hi
  have h : freezeAt s i = { FreezeEntry.reset with state := .frozen } := by
    unfold freezeAt lookD
    rw [e, look_range' (fun _ => ({ FreezeEntry.reset with state := .frozen } : FreezeEntry)) 256 0 i (by omega) (by omega)]
    rfl
  rw [h]
  decide

def task1 : Task :=
  { launch := 0, part := 0, reach := .die, join := none, wid := 0, v23 := 0, v45 := 0, entry := 0x1000, hdr := hdr1 .copy, g := 0, home := 0 }

/-- TaskAndLaunchWordsAct: FORK without and with a counter, into a deque with room and a full one; JOIN; LAUNCH. -/
theorem wit_TaskAndLaunchWordsAct :
    let s (join n : Nat) : State :=
      { mapped (one (th1 (clean [(16, BitVec.ofNat 32 join), (18, 7), (4, 0x40000), (6, 0x100)])) (wg1 .launch)) with
        cores := [(0, { Core.reset with deque := List.replicate n task1 })] }
    let fk := Instr.fork 9 16 6 .die
    ([(0, 0), (0, 64), (0x40000, 0)].all (fun p => sole fk (s p.1 p.2) fun th w => th.unacked = none && (firstTok (readRegs th 16 8)).isNone
        && !forkBehind (issued fk (s p.1 p.2) grp1) w.core 10 && joinRegs (readRegs th 16 2) = p.1
        && dequeRoom (issued fk (s p.1 p.2) grp1) w.core = (p.2 = 0)
        && (p.1 = 0 || (match (flatChecks (issued fk (s p.1 p.2) grp1) w.core w.part 0x40000 8 .atomic 0).1 with
          | .ok _ => true
          | .error _ => false)))
      && sole (.join 8 4) (s 0 0) (fun th w => (reg2 th 4).tok = none && (match (flatChecks (entered (s 0 0)) w.core w.part (reg2 th 4).data 8 .read 0).1 with
        | .ok _ => true
        | .error _ => false))
      && sole (.launch 8 6 10 4) (s 0 0) (fun th w => th.unacked = none && (readReg th 6).data = 0x100 && decide (0x140 ≤ 128 * w.hdr.scratch))) = true := by
  decide

/-- A switch (plane 1, number 3) with a quota of q granules for tenant 5, on which tenant f holds n granules from granule 3 on. -/
def swState (q f n lanes : Nat) (a : Word) : State :=
  let s := mapped (one (th1 (clean [(6, a), (7, 0x43), (8, 0x30000), (9, 0x00044300)])) (wg1 .copy))
  { s with parts := s.parts.modify 0 fun p => { p with pswva := 0x0004000000000000, windows := ⟨0, 0, true, 2 ^ 36⟩ :: p.windows.drop 1 }
           ports := [(1, lanes)]
           switches := [(67, { Switch.reset with quota := [(5, q)], allocs := [⟨f, 3, n, none, none⟩] })]
           mem := [(0x10440, 0x20001), (0x26000, 0x30001), (0x34018, 2 ^ 51 + 2 ^ 50 + 2 ^ 46 + 3 * 2 ^ 40 + 0x30000 + 0xF)].foldl
             (fun m p => memSetN m p.1 (leBytes 8 p.2)) s.mem }

/-- SwitchWordsAct: SWALLOC with a bad size, of a switch that does not answer, over its quota, without a run, and granted; SWFREE outside the
window, and of an allocation. -/
theorem wit_SwitchWordsAct :
    let t (s : State) (p : Thread → Workgroup → Bool) : Bool := sole (.swalloc 10 6 7 12) s fun th w =>
      !(readReg th 6).poison && !(readReg th 7).poison && (readReg th 7).data = 0x43 && (partAt s w.part).pftid = 5 && p th w
    let k (s : State) := switchAt s 67
    let free := swState 9 5 1 8 0x10000
    (t (swState 9 5 1 8 0x100) (fun th _ => !swallocOk (readReg th 6).data.toNat 0x43)
      && t (swState 9 5 1 0 0x10000) (fun th _ => swallocOk (readReg th 6).data.toNat 0x43 && !swAnswers (swState 9 5 1 0 0x10000) 1 3)
      && t (swState 1 5 1 8 0x10000) (fun _ _ => swAnswers (swState 1 5 1 8 0x10000) 1 3 && decide (1 < heldGranules (k (swState 1 5 1 8 0x10000)) 5 + 1))
      && t (swState 9 6 (2 ^ 22) 8 0x40000) (fun _ _ => heldGranules (k (swState 9 6 (2 ^ 22) 8 0x40000)) 5 = 0
          && lowestRun [k (swState 9 6 (2 ^ 22) 8 0x40000)] 4 = none)
      && t free (fun _ _ => lowestRun [k free] 1 = some 0)
      && sole (.swfree 10 6) free (fun th w => (reg2 th 6).tok = none && decide ((reg2 th 6).data.toNat / 2 ^ 50 ≠ (partAt free w.part).pswva / 2 ^ 50))
      && sole (.swfree 10 8) free (fun th w => (reg2 th 8).tok = none && (reg2 th 8).data.toNat / 2 ^ 50 = (partAt free w.part).pswva / 2 ^ 50
          && (match (translate (entered free) w.core w.part (reg2 th 8).data.toNat .read 0).1 with
            | .ok l => locHome free l = .switch 1 3 0x30000
            | .error _ => false)
          && planeUp free 1 && (k free).allocs = [⟨5, 3, 1, none, none⟩])) = true := by decide


/-- TaskAndLaunchWordsAct: a core whose deque a steal has already acted on in the cycle, and one whose owner has. -/
theorem wit_TaskAndLaunchWordsAct_take :
    let s (k : Nat) : State := { one (th1 (clean [(18, 7)])) (wg1 .launch) with cores := [(0, { Core.reset with lastTake := some (0, k) })] }
    let fk := Instr.fork 9 16 6 .die
    [0, 4].map (fun k => !forkBehind (issued fk (s k) grp1) 0 10 && takeDue (issued fk (s k) grp1) 0 0) = [true, false]
      ∧ [0, 4].all (fun k => sole fk (s k) fun th _ => joinRegs (readRegs th 16 2) = 0 && th.unacked = none) = true := by decide

/-- SwitchWordsAct: a switch that is reached and whose reply is lost, and one that hears nothing. -/
theorem wit_SwitchWordsAct_hearing :
    let s (h : Hearing) : State :=
      let m := swState 9 5 1 8 0x10000
      { m with switches := m.switches.map fun p => (p.1, { p.2 with hearing := h }) }
    [Hearing.deaf, .mute, .answers].map (fun h => (swReached (s h) 1 3, swAnswers (s h) 1 3, sole (.swalloc 10 6 7 12) (s h) fun th _ =>
      swallocOk (readReg th 6).data.toNat (readReg th 7).data.toNat)) = [(false, false, true), (true, false, true), (true, true, true)] := by decide

/-! ## States that meet the hypotheses of the statements: steps of the machine -/

/-- A ready thread at a span entry, with no group. -/
def readyState (th : Thread) : State := { one { th with cond := .ready 0 0 } (wg1 .copy) with groups := [], focus := none }

/-- StepRunsTheFetchedWord: a word placed where the step fetches it runs (IADD.w moves the thread on); with an event on the agenda the step is
that event; a word that is none aborts, and a page that is missing is a failed fetch. -/
theorem wit_StepRunsTheFetchedWord :
    let s := State.reset.withFetchWord 64 0x6082030400000000
    let run (s : State) := match step s with
      | .next u => (thOf u 0).map fun th => (th.span, th.off)
      | _ => none
    s.focus = some 0 ∧ (grpOf s 0).map (fun G => (fetchGroup s G).1.toOption) = some (some 0x6082030400000000)
      ∧ run s = some (0x40000, 1) ∧ run (State.reset.withFetchWord 64 0) = none
      ∧ (match (fetchGroup (mapped (st [])) grp1).1 with
          | .ok _ => none
          | .error e => some e.cause) = some .pageMiss := by decide

theorem wit_StepRunsTheFetchedWord_agenda :
    let s := { State.reset with agenda := [.event 3 (.deviceLost 7)] }
    s.focus = none ∧ isSelection (.deviceLost 7) = false ∧ (match step s with
      | .next u => (u.now, u.lostDevs, u.agenda)
      | _ => (0, [], [])) = (3, [7], []) := by decide

/-- WordsThatAreNoneAbort: a register beyond the allocation, a context bound to another engine, offset 255; a word of a failed fetch. -/
theorem wit_WordsThatAreNoneAbort :
    legalFor (.iadd 40 5 6) (th1 []) (wg1 .copy) = false ∧ legalFor (.mxgo 8 4 1) (th1 []) (wg1 .copy) = false
      ∧ legalFor .nop { th1 [] with off := 255 } (wg1 .copy) = false ∧ (encode (.iadd 40 5 6)).isSome = true ∧ (th1 []).cond = .inFlight
      ∧ sole .illegalWord (st []) (fun th _ => th.region.target = some 0x2000) = true
      ∧ sole (.fetchFault .pageMiss false) (one { th1 [] with off := 255 } (wg1 .copy)) (fun th _ => th.region.target = some 0x2000) = true := by decide

/-- SelectionStepsAct: a ready thread, a group that may issue, a port that had its opportunity in this cycle, a thread after YIELD, and a parked group
whose event has happened. -/
theorem wit_SelectionStepsAct :
    let r := readyState (th1 [])
    let p : State := { r with groups := [(0, { grp1 with park := some (.timeline, .tlwait 24 3) })] }
    r.power = .on ∧ inFlightOn r 0 0 = [] ∧ oldest r (readyOn r 0 0) = some 0
      ∧ (let f := { st [] with focus := none }
         readyOn f 0 0 = [] ∧ earliest ((inFlightOn f 0 0).filter fun p => groupIssues f p.2) = some (0, grp1))
      ∧ (let u := after (.issueOpportunity 0 0) r
         u.focus.isSome = true ∧ (thOf u 0).map (·.cond) = some .inFlight)
      ∧ (portDue r 0 0 && portDue { st [] with focus := none } 0 0) = true
      ∧ (let n := { r with cores := [(0, { Core.reset with lastOpp := some (r.now, 0) })], turn := (0, 1) }
         n.focus = none ∧ portDue n 0 0 = false ∧ portDue n 0 1 = true)
      ∧ (thOf (after (.yieldEligible 0) (readyState { th1 [] with cond := .ready 0 1 })) 0).map (·.cond) = some (.ready 0 0)
      ∧ parkedFor p .timeline (.tlwait 24 3) { grp1 with park := some (.timeline, .tlwait 24 3) } = [0]
      ∧ parkOver p .timeline (.tlwait 24 3) 0 = true ∧ inFlightOn p 0 0 = [] := by decide

def arr1 (t : Nat) (op : CollOp) (a : DWord) : Arrival := { th := t, word := 0x1000, op := op, dst := 4, a := a, b := 0, aTok := none, bTok := none }

/-- RendezvousStepsAct: a workgroup of one thread that has arrived; a REGSIZE that waits and fits; a thread parked in replay. -/
theorem wit_RendezvousStepsAct :
    let w (op : CollOp) (n : Option Nat) : Workgroup := { wg1 .copy with arrivals := [arr1 0 op 7], wantRegs := n }
    let g := one (th1 []) (w (.gred .add .rne false false) none)
    let r := one (th1 []) (w (.regsize false) (some 40))
    let p := one { th1 [] with cond := .replay [tok1], region := { region1 with taint := true, first := tok1, list := [(1, 1)] } } (wg1 .copy)
    (wgActive g (w (.gred .add .rne false false) none) = true ∧ liveOf g 0 = [0])
      ∧ (growthFits r (w (.regsize false) (some 40)) 40 = true ∧ (w (.regsize false) (some 40)).saved = false ∧ liveOf r 0 = [0]
        ∧ rising r.wgs = true ∧ wgActive r (w (.regsize false) (some 40)) = true ∧ r.wgs.length = 1)
      ∧ recStatusIn p 0 [(1, 1)] stRefused = false ∧ recStatusIn p 0 [(1, 1)] stPending = false
      ∧ regOf (after (.rendezvousComplete 0) g) 4 = some (.clean 7) := by decide

def op1 (kind : OpKind) (loc : Loc) (n : Nat) (dst : List Nat) : Op :=
  { kind := kind, core := 0, wg := 0, launch := 0, issue := 3, span := 0x1000, off := 0, loc := loc, n := n, pol := .norm,
    parts := [⟨0, 1, dst, 0x40000, 5, 0, [], false⟩], acq := none, rel := false, blocking := false, phase := .waiting, eng := none, entered := 0, sent := false,
    reply := none }

def opState (o : Op) : State := { mapped (readyState (th1 [])) with ops := [(1, o)], nextId := 2 }

/-- LoadsReceiveTheirBytes: a load from scratchpad, from stacked DRAM, from a poisoned sector, and from a copy in the L1 cache. -/
theorem wit_LoadsReceiveTheirBytes :
    let ok (s : State) (o : Op) : Bool := !opSaved s o && !mustWait s 1 o && !lineWaits s o && !allHeld o && !readWaits s o && !fillPending s o
    let sp := op1 (.load (.flat false)) (.spad 0 0x40) 4 [6]
    let dr := op1 (.load (.flat false)) txLoc 4 [6]
    let bad := { opState dr with poison := [(0x1000, .ecc)] }
    ok (opState sp) sp = true ∧ ok (opState dr) dr = true ∧ ok bad dr = true ∧ homeOf bad 0x40000 = .dram 0
      ∧ (let own := op1 (.load (.flat false)) (.phys 0x40000 .selfInv 0 0) 4 [6]
         let l1 := [(0x1000, ({ kind := .selfInv 0, bytes := List.replicate 64 7, poison := none, struck := false, prio := 1, used := 0 } : CacheSector))]
         let c := { opState own with cores := [(0, { Core.reset with l1 := l1 })] }
         ok c own = true ∧ regOf (after (.loadResult 1) c) 6 = some (.clean 0x07070707) ∧ clusterAt c (cluOf 0) = [])
      ∧ poisonIn bad.poison 0x40000 4 = some .ecc ∧ cachePoison (opState dr) 0 txLoc 4 .norm = none
      ∧ regOf (after (.loadResult 1) (opState dr)) 6 = some (.clean 0xAABBCCDD) := by decide

/-- HomesPerformStores: a store to scratchpad, to stacked DRAM, and to a frozen range; an atomic to scratchpad. -/
theorem wit_HomesPerformStores :
    let ok (s : State) (o : Op) : Bool := !mustWait s 1 o && !lineWaits s o
    let sp := op1 (.store [1, 2, 3, 4]) (.spad 0 0x40) 4 []
    let dr := op1 (.store [1, 2, 3, 4]) txLoc 4 []
    let at' := op1 (.atomic .add false) (.spad 0 0x40) 4 [6]
    let fz := { opState dr with freezes := [(0, { FreezeEntry.reset with state := .frozen, pgran := 4, count := 1 })] }
    (ok (opState sp) sp = true ∧ ok (opState dr) dr = true ∧ ok (opState at') at' = true ∧ ok fz dr = true)
      ∧ locFrozen (opState dr) txLoc 4 = false ∧ locFrozen fz txLoc 4 = true ∧ writeWaits (opState dr) 1 dr = false ∧ writeWaits fz 1 dr = false
      ∧ dirAt (opState dr) 0 (0x40000 / 256) = none ∧ memGetN (after (.homeStore 1) (opState dr)).mem 0x40000 4 = [1, 2, 3, 4]
      ∧ (after (.homeStore 1) fz).late.length = 1 := by decide

/-- HomesPerformStores: stores and atomics over a poisoned sector, an atomic to stacked DRAM, and an aggregate of two threads' .fadd. -/
theorem wit_HomesPerformStores_poison :
    let ok (s : State) (o : Op) : Bool := !mustWait s 1 o && !lineWaits s o && !writeWaits s 1 o
    let at' (l : Loc) := op1 (.atomic .add false) l 4 [6]
    let bad (o : Op) : State := { opState o with poison := [(0x1000, .ecc)], wgs := [(0, { wg1 .copy with spadPoison := [(1, .ecc)] })] }
    let w (l : Loc) := op1 (.store [1, 2, 3, 4]) l 4 []
    let two : Op :=
      { op1 (.atomic .fadd false) (.spad 0 0x40) 4 [] with parts := [⟨0, 1, [6], 0x40, 0x3F800000, 0, [], false⟩, ⟨1, 9, [8], 0x40, 0x33800000, 0, [], false⟩] }
    let g : State := { opState two with threads := [(0, th1 []), (1, { th1 [] with serial := 9, lane := 1 })] }
    (ok (opState (at' txLoc)) (at' txLoc) && [Loc.spad 0 0x40, txLoc].all fun l => ok (bad (at' l)) (at' l) && ok (bad (w l)) (w l)) = true
      ∧ dirAt (opState (at' txLoc)) 0 (0x40000 / 256) = none ∧ poisonIn [(0x1000, Cause.ecc)] 0x40000 4 = some .ecc ∧ ok g two = true
      ∧ memGetN (after (.homeStore 1) (bad (w txLoc))).mem 0x40000 4 = memGetN (bad (w txLoc)).mem 0x40000 4
      ∧ (thOf (after (.homeAtomic 1) (bad (at' txLoc))) 0).map (·.region.taint) = some true
      ∧ (thOf (after (.homeAtomic 1) g) 1).map (fun th => readReg th 8) = some (.clean 0x3F800000) := by decide

/-- AnswersReachTheirThreads: an acknowledgement, a refusal, a bound that has passed, and a deferred arrival that is due. -/
theorem wit_AnswersReachTheirThreads :
    let o : Op := { op1 (.store [1, 2, 3, 4]) txLoc 4 [] with phase := .performed 1 }
    let a : State := { readyState { th1 [] with stc := 1 } with acks := [(1, o)] }
    let l : LateFault := { th := 0, serial := 1, core := 0, wg := 0, launch := 0, issue := 3, span := 0x1000, off := 0, cause := .writeFrozen,
                           va := 0x40000, dst := [] }
    let remote : Op := { op1 (.store [1]) (.phys (2 ^ 51 + 3 * 2 ^ 39) .tracked 0 0) 1 [] with sent := true }
    let r : State := { opState remote with now := us 200 }
    let e : Deferred := { wg := 0, th := 0, issue := 3, span := 0x1000, off := 0, tl := 3, num := 0, addr := 0x40, count := 1, due := none }
    let d : State := { one (th1 []) objWg with cores := [(0, { Core.reset with deferred := [(5, e)] })] }
    (isRemote (locHome a txLoc) = false ∧ ackWaits a o = false ∧ (thOf (after (.storeAck 1) a) 0).map (·.stc) = some 0)
      ∧ (thOf (after (.lateTaint 1) { a with late := [(1, l)] }) 0).map (·.region.taint) = some true
      ∧ firstUnacked r 0 (th1 []) = some 0x40000 ∧ 0 + us 200 ≤ r.now
      ∧ lineAbsent d (.spad 0 0x40) 16 = false ∧ objectRefused objWg 0x40 = none ∧ wgActive d objWg = true ∧ e.num ≤ (timelineAt objWg 3).done
      ∧ (coreAt d 0).deferred.all (fun p => !dueBefore p (5, e)) = true := by decide

/-! ## Caches, directories, translation and the hub -/

def ent (ptrs : List Nat) (waiting : Nat) (recalling remote : Bool) : DirEntry :=
  { sstate := [1, 0, 0, 0], remote := remote, coarse := false, ptrs := ptrs, waiting := waiting, recalling := recalling }

/-- A message under key 5 about line 0x400, whose home is die 0, with an entry of a die directory. -/
def msgState (m : MsgKind) (dir : Option (Nat × DirEntry)) : State :=
  { State.reset with msgs := [(5, m)], nextId := 6, dirs := match dir with
      | some (d, e) => [(d, [(0x400, e)])]
      | none => [] }

/-- What is not below n is not below n + 1, or is n. -/
theorem filter_lt_succ (f : Nat → Nat) (n : Nat) : ∀ xs : List Nat,
    (xs.filter fun x => f x < n + 1).length = (xs.filter fun x => f x < n).length + (xs.filter fun x => f x = n).length
  | [] => rfl
  | x :: xs => by
    have ih := filter_lt_succ f n xs
    simp only [List.filter_cons, decide_eq_true_eq]
    by_cases a : f x < n
    · rw [if_pos (by omega), if_pos a, if_neg (by omega)]; simp only [List.length_cons]; omega
    · by_cases b : f x = n
      · rw [if_pos (by omega), if_neg a, if_pos b]; simp only [List.length_cons]; omega
      · rw [if_neg (by omega), if_neg a, if_neg b]; omega

theorem few (f : Nat → Nat) (k : Nat) (xs : List Nat) (h : ∀ v, (xs.filter fun x => f x = v).length ≤ k) :
    ∀ n, (xs.filter fun x => f x < n).length ≤ k * n
  | 0 => by simp
  | n + 1 => by
    have := few f k xs h n
    have := h n
    rw [filter_lt_succ, Nat.mul_succ]
    omega

/-- Among enough numbers more than k lie in one set (pigeonhole). -/
theorem crowd (f : Nat → Nat) (k n : Nat) (h : ∀ x, f x < n) : ∃ v, k < ((List.range (k * n + 1)).filter fun x => f x = v).length := by
  refine Classical.byContradiction fun c => ?_
  have := few f k (List.range (k * n + 1)) (fun v => Nat.le_of_not_lt fun d => c ⟨v, d⟩) n
  rw [List.filter_eq_self.2 (fun x _ => by simp [h x])] at this
  simp only [List.length_range] at this
  omega

def lineTable (c : CacheSector) (l : List Nat) : NMap CacheSector := l.map fun x => (2 * x, c)

theorem lineTable_rising (c : CacheSector) : ∀ l : List Nat, l.Pairwise (· < ·) → rising (lineTable c l) = true
  | [], _ => rfl
  | [_], _ => rfl
  | x :: y :: l, h => by
    have a := (List.pairwise_cons.1 h).1 y (by simp)
    have b := lineTable_rising c (y :: l) (List.pairwise_cons.1 h).2
    show (decide (2 * x < 2 * y) && rising (lineTable c (y :: l))) = true
    rw [b]
    simp only [Bool.and_true, decide_eq_true_eq]
    omega

theorem lineTable_lines (c : CacheSector) : ∀ l : List Nat, l.Pairwise (· < ·) → cacheLines (lineTable c l) = l
  | [], _ => rfl
  | x :: l, h => by
    have b := lineTable_lines c l (List.pairwise_cons.1 h).2
    have a : l.contains (2 * x / 2) = false := by
      rw [List.contains_eq_mem, decide_eq_false_iff_not]
      intro m
      have := (List.pairwise_cons.1 h).1 _ m
      omega
    show (if (cacheLines (lineTable c l)).contains (2 * x / 2) then cacheLines (lineTable c l) else (2 * x / 2) :: cacheLines (lineTable c l)) = x :: l
    rw [b, a]
    simp

theorem victim_some (m : NMap CacheSector) : ∀ l : List Nat, l ≠ [] → ∃ v ∈ l, victimOf m l = some v
  | [], h => absurd rfl h
  | x :: l, _ => by
    unfold victimOf
    cases e : victimOf m l with
    | none => exact ⟨x, by simp, rfl⟩
    | some v =>
      have hl : l ≠ [] := by intro n; rw [n] at e; simp [victimOf] at e
      obtain ⟨w, hw, ew⟩ := victim_some m l hl
      obtain rfl : w = v := by rw [e] at ew; exact (Option.some.inj ew).symm
      dsimp only
      split
      · exact ⟨w, by simp [hw], rfl⟩
      · exact ⟨x, by simp, rfl⟩

def csec : CacheSector := filled (.tracked [1]) [] none

/-- ClustersDropTheirCopies: a cluster one of whose sets is full, with the line that it gives up. -/
theorem wit_ClustersDropTheirCopies_full : ∃ m line, rising m = true ∧ evictable { State.reset with clusters := [(0, m)] } 0 line = true := by
  obtain ⟨v, h⟩ := crowd (fun l => Config.clusterSet l % 4096) 15 4096 (fun x => Nat.mod_lt _ (by decide))
  have p : ((List.range (15 * 4096 + 1)).filter fun x => Config.clusterSet x % 4096 = v).Pairwise (· < ·) := List.pairwise_lt_range.filter _
  have q : ∀ x ∈ (List.range (15 * 4096 + 1)).filter (fun x => Config.clusterSet x % 4096 = v), Config.clusterSet x % 4096 = v := by simp
  revert p q h
  dsimp only
  generalize (List.range (15 * 4096 + 1)).filter (fun x => Config.clusterSet x % 4096 = v) = l
  intro h p q
  obtain ⟨line, hl, e⟩ := victim_some (lineTable csec l) l (by rintro rfl; simp at h)
  refine ⟨lineTable csec l, line, lineTable_rising _ l p, ?_⟩
  show (decide (16 ≤ (sameSet (lineTable csec l) (fun l => Config.clusterSet l % 4096) line).length)
    && victimOf (lineTable csec l) (sameSet (lineTable csec l) (fun l => Config.clusterSet l % 4096) line) = some line) = true
  have f : sameSet (lineTable csec l) (fun l => Config.clusterSet l % 4096) line = l := by
    unfold sameSet
    rw [lineTable_lines _ l p]
    exact List.filter_eq_self.2 fun x m => by simp [q x m, q line hl]
  rw [f, e]
  simp only [decide_true, Bool.and_true, decide_eq_true_eq]
  omega

/-- ClustersDropTheirCopies: a line given up, of a set that is not full, and each of the messages to a cluster. -/
theorem wit_ClustersDropTheirCopies :
    let c : CacheSector := csec
    let s (m : MsgKind) : State := { msgState m none with clusters := [(0, [(0x1000, c)])], cores := [(1, { Core.reset with l1 := [(0x1000, c)] })] }
    rising (clusterAt (s (.inval 0 0 0x400 none none)) 0) = true ∧ rising (coreAt (s (.downgrade 0 0 0x400)) 1).l1 = true
      ∧ inOrder (s (.inval 0 0 0x400 none none)) 5 (.inval 0 0 0x400 none none) = true
      ∧ inOrder (s (.downgrade 0 0 0x400)) 5 (.downgrade 0 0 0x400) = true
      ∧ evictable State.reset 0 0x800 = false
      ∧ look (coreAt (evictLine (s (.downgrade 0 0 0x400)) 0 0x800) 1).l1 0x1000 = none
      ∧ (let u := evictLine { State.reset with clusters := [(0, [(0x1000, { c with poison := some .ecc, struck := true })])] } 0 0x800
         u.poison = [(0x1000, .ecc)] ∧ clusterAt u 0 = [])
      ∧ (after (.clusterDowngrade 5) (s (.downgrade 0 0 0x400))).msgs = [(6, .downAck 0 0x400)] := by decide

def fill1 : Fill := { core := 0, sector := 0x1000, pol := .norm, mode := .tracked, key := 0, part := 0 }

/-- DieDirectoriesTakeReads: a fill at the home die without and with an entry, at another die, of a frozen line; notices. -/
theorem wit_DieDirectoriesTakeReads :
    let s (f : Fill) (d : Option (Nat × DirEntry)) : State := { msgState (.notice 0 3 0x400) d with fills := [f] }
    let far : Fill := { fill1 with core := 64 }
    let fz : State := { s fill1 none with freezes := [(0, { FreezeEntry.reset with state := .frozen, pgran := 4, count := 1 })] }
    (fillsOf (s fill1 none) 0 0x400 = [fill1] ∧ lineBusy (s fill1 none) 0 0x400 = false ∧ noticeInFlight (s fill1 none) 0 0x400 = false
        ∧ pkgReadInFlight (s fill1 none) 0 0x400 = false ∧ dirFull (s fill1 none) 0 0x400 = false ∧ clusterAt (s fill1 none) 0 = [] ∧ homeDie (s fill1 none) (256 * 0x400) = 0 ∧ frozenNow (s fill1 none) 0x40000 = false)
      ∧ lineBusy (s fill1 (some (0, ent [5] 0 false false))) 0 0x400 = false ∧ frozenNow fz 0x40000 = true ∧ lineBusy fz 0 0x400 = false
      ∧ fillsOf (s far none) 8 0x400 = [far] ∧ lineBusy (s far none) 1 0x400 = false ∧ pkgReadInFlight (s far none) 1 0x400 = false
        ∧ dirFull (s far none) 1 0x400 = false
      ∧ inOrder (s fill1 (some (0, ent [3] 0 false false))) 5 (.notice 0 3 0x400) = true
      ∧ dirAt (after (.dirNotice 5) (s fill1 (some (0, ent [3, 4] 0 false false)))) 0 0x400 = some (ent [4] 0 false false)
      ∧ (dirAt (after (.dirRead 0 0x400) (s fill1 none)) 0 0x400).map (fun e => (e.ptrs, e.sstate)) = some ([0], [2, 2, 0, 0])
      ∧ (clusterAt (after (.dirRead 0 0x400) (s fill1 none)) 0).map (fun p => (p.1, isTracked p.2)) = [(0x1000, true), (0x1001, true)] := by decide

/-- InvalidationsAreCounted: a store whose line another cluster holds; acknowledgements of a store and of a recall; a recall; a forwarded one. -/
theorem wit_InvalidationsAreCounted :
    let o (ph : Phase) : Op := { op1 (.store [1, 2, 3, 4]) txLoc 4 [] with phase := ph }
    let s (ph : Phase) (e : Option (Nat × DirEntry)) (m : MsgKind) : State :=
      { msgState m e with ops := [(1, o ph)], threads := [(0, th1 [])], wgs := [(0, wg1 .copy)] }
    let a := s .waiting (some (0, ent [5] 0 false false)) (.dieInval 0 0x400)
    (mustWait a 1 (o .waiting) = false ∧ lineWaits a (o .waiting) = false ∧ writeWaits a 1 (o .waiting) = false ∧ locFrozen a txLoc 4 = false
        ∧ homeOf a 0x40000 = .dram 0 ∧ (look (after (.homeStore 1) a).ops 1).map (·.phase) = some (.counting 1))
      ∧ (let k : CacheSector := filled (.tracked []) [] none
         let b : State := { a with clusters := [(0, [(0x1000, k), (0x1002, k)])] }
         rising (clusterAt b 0) = true ∧ (clusterAt (after (.homeStore 1) b) 0).map (·.1) = [0x1000]
          ∧ (dirAt (after (.homeStore 1) b) 0 0x400).map (fun e => (e.ptrs, e.sstate)) = some ([0], [3, 0, 0, 0]))
      ∧ memGetN (after (.invalidationAck 5) (s (.counting 1) none (.ack 0 0x400 (some 1)))).mem 0x40000 4 = [1, 2, 3, 4]
      ∧ (look (after (.invalidationAck 5) (s (.counting 2) none (.ack 0 0x400 (some 1)))).ops 1).map (·.phase) = some (.counting 1)
      ∧ dirAt (after (.invalidationAck 5) (s .waiting (some (0, ent [5] 1 true false)) (.ack 0 0x400 none))) 0 0x400 = none
      ∧ lineCounting (msgState (.dieAck 3 7) (some (0, ent [5] 0 false false))) 0x400 = false
      ∧ pkgReadInFlight (msgState (.dieAck 3 7) (some (0, ent [5] 0 false false))) 0 0x400 = false
      ∧ inOrder a 5 (.dieInval 0 0x400) = true ∧ inOrder (s .waiting none (.dieInval 0 0x400)) 5 (.dieInval 0 0x400) = true := by decide

/-- PackageDirectoryActs: each message, with an entry of dies 1 and 2 and without one. -/
theorem wit_PackageDirectoryActs :
    let e (w : Nat) : PkgEntry := { sstate := [1, 0, 0, 0], dvec := [1, 2], waiting := w, forOp := none, recalling := false }
    let s (m : MsgKind) (w : Nat) : State := { msgState m none with pkgDir := [(0x400, e w)], fills := [{ fill1 with core := 64 }] }
    inOrder (s (.pkgRead 1 8 0x400) 0) 5 (.pkgRead 1 8 0x400) = true ∧ lineBusy (s (.pkgRead 1 8 0x400) 0) 0 0x400 = false
      ∧ (pkgFull (s (.pkgRead 1 8 0x400) 0) 0x400 || dirFull (s (.pkgRead 1 8 0x400) 0) 0 0x400) = false
      ∧ (fillsOf (s (.pkgRead 1 8 0x400) 0) 8 0x400).length = 1
      ∧ inOrder (s (.pkgInval 0x400 none 0) 0) 5 (.pkgInval 0x400 none 0) = true
      ∧ inOrder (msgState (.pkgInval 0x400 none 0) none) 5 (.pkgInval 0x400 none 0) = true ∧ (e 1).waiting = 1
      ∧ inOrder (s (.pkgNotice 1 0x400) 0) 5 (.pkgNotice 1 0x400) = true ∧ lineCounting (s (.pkgNotice 1 0x400) 0) 0x400 = false
      ∧ (after (.invalidationAck 5) (s (.dieAck 1 0x400) 1)).pkgDir = []
      ∧ (look (after (.pkgDirNotice 5) (s (.pkgNotice 1 0x400) 0)).pkgDir 0x400).map (·.dvec) = some [2] := by decide

def tlb1 (pte : DWord) : TlbEntry := { part := 0, asid := 0, page := 0x40000, size := 65536, pte := pte, wins := [⟨0, 0, true, 16383⟩] }

/-- TranslationStepsAct: a walk that reaches its leaf and one that does not; an entry that permits and one that does not; an invalidation. -/
theorem wit_TranslationStepsAct :
    let s (x : Option TlbInv) (pte : DWord) : State :=
      let m := mapped (st [])
      { m with cores := [(0, { Core.reset with tlb := [tlb1 pte] })], parts := m.parts.modify 0 fun p => { p with tlbinv := x } }
    let ok (va : Nat) : Bool := match (walk (mapped (st [])) 0 0x10000 va).1 with
      | .ok (e, l) => e = 0x4002F && l = 0
      | .error _ => false
    let missed (s : State) := !((lookD s.clusterTlb (cluOf 0) []).any (tlbHit 0 (partAt s 0).asid 0x40010))
    (ok 0x40010 = true ∧ missed (mapped (st [])) = true ∧ missed { mapped (st []) with clusterTlb := [(0, [tlb1 0x40027])] } = false ∧ ok 0x50000 = false ∧ canonical 0x40010 = true)
      ∧ (coreAt (s none 0x40027) 0).tlb.find? (tlbHit 0 0 0x40010) = some (tlb1 0x40027)
      ∧ permits 0x40027 .read = true ∧ permits 0x40027 .write = false
      ∧ (mayPart (s none 0) 0 0 = true ∧ (partAt (s none 0) 0).tlbinv = none ∧ (s none 0).parts.length = 16)
      ∧ (partAt (s (some ⟨1, 0, 0⟩) 0) 0).tlbinv ≠ none ∧ (coreAt (after (.tlbinvComplete 0) (s (some ⟨1, 0, 0⟩) 0)) 0).tlb = [] := by decide

/-- TranslationStepsAct, TLB_WALK: a group that fetches at a page that no TLB holds, mapped and not. -/
theorem wit_TranslationStepsAct_walk :
    let s (a : DWord) : State := mapped (one { th1 [] with span := a } (wg1 .copy))
    let missed (a : DWord) : Bool := !((coreAt (s a) 0).tlb.any (tlbHit 0 (partAt (s a) 0).asid a.toNat))
      && !((lookD (s a).clusterTlb (cluOf 0) []).any (tlbHit 0 (partAt (s a) 0).asid a.toNat))
      && (s a).groups.any fun p => p.2.core = 0 && groupAccess (s a) p.2 0 a .fetch
    (missed 0x40000 && missed 0x60000) = true ∧ (coreAt (after (.tlbWalk 0 0 0x40000 .fetch) (s 0x40000)) 0).tlb.map (·.page) = [0x40000]
      ∧ (after (.tlbWalk 0 0 0x60000 .fetch) (s 0x60000)).cores = [] := by decide

set_option exponentiation.threshold 2048 in
/-- RingsTakeTheOldestEntry: rings of 16 entries (code 4) in the window, with room and full, an entry waiting in each. -/
theorem wit_RingsTakeTheOldestEntry :
    let s (tail : Nat) : State :=
      let m := mapped State.reset
      let f (p : Partition) : Partition :=
        { p with fqbase := 0x40004, sqbase := 0x41004, fqtail := tail, sqtail := tail, faultWait := [7], serviceWait := [9], pirqen := 3 }
      { m with parts := m.parts.modify 0 f }
    let p (t : Nat) := partAt (s t) 0
    (p 0).faultWait = [7] ∧ (p 0).serviceWait = [9] ∧ 0 < ringEntries (p 0).fqbase ∧ (p 0).fqtail - (p 0).fqhead ≠ ringEntries (p 0).fqbase
      ∧ inWindows (p 0) (ringAddr (p 0).fqbase) (64 * ringEntries (p 0).fqbase) = true
      ∧ inWindows (p 0) (ringAddr (p 0).sqbase) (128 * ringEntries (p 0).sqbase) = true
      ∧ homeOf (s 0) (ringAddr (p 0).fqbase) = .dram 0 ∧ homeOf (s 0) (ringAddr (p 0).sqbase) = .dram 0
      ∧ isFrozen (s 0) (ringAddr (p 0).fqbase) 64 = false ∧ isFrozen (s 0) (ringAddr (p 0).sqbase) 128 = false
      ∧ linesBusy (s 0) (ringAddr (p 0).fqbase) 64 = false ∧ linesBusy (s 0) (ringAddr (p 0).sqbase) 128 = false
      ∧ (partAt (after (.faultQueueDeliver 0) (s 0)) 0).fqtail = 1
      ∧ (after (.serviceQueueDeliver 0) (s (ringEntries (p 0).sqbase))).mem = (s 0).mem := by decide

def req1 (bkpt : Bool) : Request :=
  { th := 0, serial := 1, octet := 8, isBkpt := bkpt, label := 0x1080, origin := 0x1000, originOff := 0 }

/-- SystemSoftwareAnswers: a PENDING record, a call, a breakpoint, each asked of partition 0. -/
theorem wit_SystemSoftwareAnswers :
    let s (b : Bool) : State :=
      let m := readyState { th1 [] with cond := .syscall 1 }
      { m with parts := m.parts.modify 0 fun p => { p with pending := [(1, req1 b)] }
               cores := [(0, { Core.reset with recs := [(1, { PoisonRec.zero with status := 2, gen := 1, cause := 1 })] })] }
    mayPart (s true) 0 0 = true ∧ (s true).parts.length = 16 ∧ (recAt (s true) 0 1).status = 2 ∧ (recAt (s true) 0 1).part.toNat = 0
      ∧ look (partAt (s false) 0).pending 1 = some (req1 false) ∧ look (partAt (s true) 0).pending 1 = some (req1 true)
      ∧ (thOf (s true) 0).map (fun t => (t.serial, t.region.target)) = some (1, some 0x2000) ∧ (wgAt (s true) 0).isSome = true
      ∧ ((req1 true).label.toNat % 8 = 0 ∧ (req1 true).label.toNat < 2 ^ 56)
      ∧ regOf (after (.scompComplete 0 0 1 1 [5] 0) (s false)) 8 = some (.clean 5) := by decide

/-- HubRegistersAreWritten and RefusedRegistersKeepTheirValue: after reset every control core is a manager; a control core given partition 1
writes that partition's registers and no other's. -/
theorem wit_HubRegistersAreWritten :
    let s : State := { State.reset with ccpart := State.reset.ccpart.set 3 1, dstFlows := [⟨0, 5, 2, 1, [], [], some 7, 1, 0, [], 0⟩] }
    isManager s 0 = true ∧ mayQueue s 0 7 = true ∧ mayPart s 0 0 = true ∧ isManager s 3 = false ∧ mayPart s 3 1 = true ∧ mayPart s 3 0 = false
      ∧ mayQueue s 3 7 = false ∧ s.keyGen.length = 32 ∧ memWf s.mem = true
      ∧ (∃ x, s.dstFlows = [x] ∧ x.home = 0 ∧ x.frozenAt ≠ none ∧ x.part = 1)
      ∧ wrongKey { s with memKey := [(0x010000000000 / 64, (3, 0))] } 0x010000000000 3 = false
      ∧ isKeyed (homeOf s 0x010000000000) = true ∧ keyNow s 3 = (3, 0)
      ∧ (after (.keyGenerate 0 3) s).keystat.getLsbD 3 = true := by
  refine ⟨by decide, by decide, by decide, by decide, by decide, by decide, by decide, by decide, by decide, ⟨_, rfl, rfl, by decide, rfl⟩, ?_⟩
  decide

/-! ## Engines, tasks, launches -/

/-- A block (R233) of first word w0, of 1 row, 2 columns and k steps, with maps in scratchpad at 0x800 (rows of 16 bytes) and 0x900, and no
completion record. -/
def blockBytes (w0 k amap bmap : Nat) : List Byte :=
  leBytes 4 w0 ++ [1, 2, 0, 0] ++ leBytes 4 k ++ leBytes 20 0 ++ leBytes 16 amap ++ leBytes 16 bmap ++ leBytes 4 0xFFFFFFFF ++ leBytes 60 0

def mxEntry (a : Nat) : MxEntry :=
  { kind := .go a 1 1, wg := 0, th := 0, serial := 1, issue := 3, since := 0, span := 0x1000, off := 0, stage := .queued,
    got := Operands.none, res := MxResult.none, block := none,
    fault := none, word0 := false, crec := none, event := none, index := none, fusedWith := none, guideTile := none, fetched := [] }

def mxWg (spad : List Byte) : Workgroup := { wg1 .matrix with spad := memSetN [] 0x100 spad, tls := List.replicate 8 ⟨some (.matrix, .sys), 1, 0, []⟩ }

def mxState (e : MxEntry) (w : Workgroup) : State :=
  { one { th1 [] with mxc := 1 } w with groups := [], focus := none, cores := [(0, { Core.reset with mxq := [(5, e)] })], nextId := 6 }

/-- A map: its base and its row stride (R235). -/
def mapAt (base stride : Nat) : Nat := 2 ^ 32 * stride + 2 ^ 64 * base

def clearB : List Byte := blockBytes 3 0 0 0
def loadB : List Byte := blockBytes 2 0 (mapAt 0x800 16) 0
def mmaB : List Byte := blockBytes (2 * 256) 1 (mapAt 0x800 16) (mapAt 0x900 16)
def drainB : List Byte := blockBytes 1 0 (mapAt 0x800 16) 0

def mxS (b : List Byte) : State :=
  mxState (mxEntry 0x100) { mxWg b with spad := memSetN (memSetN (memSetN [] 0x100 b) 0x800 [3]) 0x900 [5, 0xFF] }

def mxFine (b : List Byte) (kind : Nat) : Bool :=
  match wgAt (mxS b) 0 with
  | some w => (blockOf (memGetN w.spad 0x100 128)).kind = kind && blockFault (blockOf (memGetN w.spad 0x100 128)) (rightsOf w) = none
      && wgActive (mxS b) w && wgIssues (mxS b) w && !isPaired w && memWf w.spad && !w.retired && (mxS b).acks.isEmpty && w.absent.isEmpty
  | none => false

set_option exponentiation.threshold 2048

/-- MatrixOperationsAct: one operation of each kind, alone and startable. -/
theorem wit_MatrixOperationsAct : (mxFine clearB 3 && mxFine loadB 2 && mxFine mmaB 0 && mxFine drainB 1) = true := by decide +kernel

/-- MatrixOperationsAct: the first step of a CLEAR of one row may stop before that row, or end the operation. -/
theorem wit_MatrixOperationsAct_parts :
    [0, 1].map (fun n => (look (coreAt (after (.mxClear ⟨0, n⟩) (mxS clearB)) 0).mxq 5).map (·.stage)) = [some (.running 0), some .started] := by
  decide +kernel

def tileI : Tile := { tile1 with integer := true }

theorem foldZero : ∀ l : List Nat, (l.map fun _ => (0 : Word)).foldl (· + ·) 0 = 0
  | [] => rfl
  | _ :: l => foldZero l

theorem zeroLine (l : List Nat) : lineMismatch true (l.map fun _ => (0 : Word)) 0 = false := by
  have h : lineSum true (l.map fun _ => (0 : Word)) = 0 := by
    cases l with
    | nil => rfl
    | cons _ l => exact foldZero l
  show decide (lineSum true (l.map fun _ => (0 : Word)) ≠ 0) = false
  rw [h]
  rfl

theorem zeroTile (i : Nat) :
    tileI.integer = true ∧ tileRow tileI i = (List.range 128).map (fun _ => (0 : Word)) ∧ tileCol tileI i = (List.range 128).map (fun _ => (0 : Word))
      ∧ lookD tileI.cc i 0 = 0 ∧ lookD tileI.cr i 0 = 0 := ⟨rfl, rfl, rfl, rfl, rfl⟩

/-- MatrixOperationsAct, DRAIN: the checksums of an i8 tile of zeros agree (R249). -/
theorem wit_MatrixOperationsAct_drain : compareTile tileI = .clean := by
  have r : badRows tileI = [] := List.filter_eq_nil_iff.2 fun i _ => by
    obtain ⟨a, b, _, c, _⟩ := zeroTile i
    rw [a, b, c, zeroLine]
    decide
  have c : badCols tileI = [] := List.filter_eq_nil_iff.2 fun j _ => by
    obtain ⟨a, _, b, _, c⟩ := zeroTile j
    rw [a, b, c, zeroLine]
    decide
  unfold compareTile
  rw [r, c]

/-- An i8 MMA of the row (3) and the column pair (5, -1) gives 15 and -3 (R59); a LOAD of the byte 3 as e4m3 gives its value. -/
theorem test_mma : (wgAt (after (.mxMma ⟨0, 1⟩) (mxS mmaB)) 0).map (fun w => (tileGet (tileOf w 0) 0 0, tileGet (tileOf w 0) 0 1)) = some (15, 0xFFFFFFFD) := by
  decide +kernel

/-- MatrixQueueSteps: MXRD and MXWR at the head, an MXGO that has started with a completion record, and one held past 4,096 cycles. -/
theorem wit_MatrixQueueSteps :
    let x : MxElem := { th := 0, serial := 1, dst := 8, row := 2, col := 3, data := 7 }
    let rd := mxState { mxEntry 0 with kind := .rd 0 [x] } (mxWg [])
    let wr := mxState { mxEntry 0 with kind := .wr 0 [x] } (mxWg [])
    let go := mxState { mxEntry 0x100 with stage := .started, crec := some 0x400 } (mxWg clearB)
    let pair : Workgroup := { mxWg clearB with hdr := { hdr1 .matrix with tandem := true } }
    let h0 := mxState { mxEntry 0x100 with stage := .held 0, index := some 4 } pair
    let held : State := { h0 with wgs := [(0, pair), (1, { pair with g := 1, slot := 1 })], now := 4096 }
    (mxWg clearB).retired = false ∧ pair.retired = false ∧ held.acks = [] ∧ (coreAt rd 0).mxq.length = 1 ∧ wgActive rd (mxWg []) = true ∧ regOf (after (.mxElementAccess 0) rd) 8 = some (.clean 0)
      ∧ (wgAt (after (.mxElementAccess 0) wr) 0).map (fun w => tileGet (tileOf w 0) 2 3) = some 7
      ∧ (wgAt (after (.mxOpComplete 0 5) go) 0).map (fun w => (timelineAt w 1).done) = some 1
      ∧ (partnerOf held pair).map (·.1) = some 1 ∧ partnerArrived held 0 1 4 4096 = false := by decide

def copyReq (dspace : Nat) (bar : Option Nat) : CopyReq :=
  { fill := false, sspace := 0, dspace := dspace, cpol := .norm, baraddr := bar, rows := 1, rowbytes := 32, sstride := 0, dstride := 0, sbase := 0x600,
    dbase := if dspace = 0 then 0x200 else 0x40000 }

def copyEntry (r : CopyReq) : CopyEntry :=
  { req := r, wg := 0, th := 0, serial := 1, issue := 3, span := 0x1000, off := 0, tl := 2, num := 1, running := true, writing := [], done := [],
    waiting := [], events := [] }

def copyState (e : CopyEntry) : State :=
  let w : Workgroup := { objWg with tls := List.replicate 8 ⟨some (.copy, .sys), 1, 0, []⟩, absent := [(4, 1)] }
  let m := mapped (one { th1 [] with cpc := 1 } w)
  { m with groups := [], focus := none, cores := [(0, { Core.reset with cpq := [(5, e)] })], nextId := 6 }

/-- CopiesMoveTheirBytes: a copy that waits; chunk 0 into scratchpad, with an object; chunk 0 into memory; a copy whose chunks are done. -/
theorem wit_CopiesMoveTheirBytes :
    let q := copyState { copyEntry (copyReq 0 none) with running := false }
    let r := copyReq 0 (some 0x40)
    let fin := copyState { copyEntry (copyReq 0 none) with done := [0] }
    (match wgAt (copyState (copyEntry r)) 0 with
      | some w => wgIssues (copyState (copyEntry r)) w && rising w.absent && w.spadPoison.isEmpty
      | none => false) = true ∧ ((coreAt q 0).cpq.find? (fun p => !p.2.running && !wgSaved q p.2.wg)).map (·.1) = some 5 ∧ copiesRunning (coreAt q 0) < 8
      ∧ isChunk r 0 = true ∧ chunkRange r 0 = (0x200, 32) ∧ sourceOf r 0 0x200 = 0x600
      ∧ (wgAt (after (.copyChunkDone 0 5 0) (copyState (copyEntry r))) 0).map (fun w => ((objAt w 0x40).phase, w.absent)) = some (true, [])
      ∧ isChunk (copyReq 1 none) 0 = true ∧ (match (flatChecks (copyState (copyEntry (copyReq 1 none))) 0 0 0x40000 16 .write 0).1 with
          | .ok l => isRemote (locHome (copyState (copyEntry (copyReq 1 none))) l)
          | .error _ => true) = false
      ∧ (after (.copyChunkDone 0 5 0) (copyState (copyEntry (copyReq 1 none)))).ops.length = 1
      ∧ chunkCount (copyReq 0 none) = 1 ∧ (thOf (after (.copyComplete 0 5) fin) 0).map (·.cpc) = some 0 := by decide

/-- TasksStartOnCores: a task in the core's own deque, one in another's, a search that finds none, a core without room, and a deque whose cycle has
gone past the owner. -/
theorem wit_TasksStartOnCores :
    let t : Task := { task1 with launch := 0, hdr := hdr1 .copy }
    let s (c : Nat) : State := { State.reset with launches := [(0, launch1 0 1)], cores := [(c, { Core.reset with deque := [t] })] }
    taskFits (s 0) 0 t = true ∧ 6 ≤ t.hdr.regs ∧ t.hdr.width * t.hdr.depth ≤ 2048
      ∧ searchDue (s 1) 0 = true ∧ searchFinds (s 1) 0 = some (1, t) ∧ searchFinds State.reset 0 = none ∧ searchDue State.reset 0 = true
      ∧ hasRoom (s 1) 0 = true ∧ hasRoom State.reset 0 = true ∧ takeDue (s 0) 0 0 = true ∧ (searchVisits (s 1) 0).all (fun v => takeDue (s 1) v 1) = true
      ∧ (searchVisits State.reset 0).all (fun v => takeDue State.reset v 1) = true
      ∧ hasRoom { s 1 with cores := [(0, { Core.reset with offline := true })] } 0 = false
      ∧ (let l : State := { s 0 with cores := [(0, { Core.reset with deque := [t], lastTake := some (0, 5) })] }
         takeDue l 0 0 = false ∧ searchFinds l 1 = some (0, t) ∧ 0 ∈ searchVisits l 1 ∧ takeDue l 0 2 = false)
      ∧ (thOf (after (.dequeTake 0) (s 0)) 3).map (fun th => (th.span, th.wid)) = some (0x1000, 3) := by decide
/-- FreezeStepsAct: a granule to take, one that does not translate, a freeze that is complete, a thaw with one die to invalidate, its messages. -/
theorem wit_FreezeStepsAct :
    let o (va : DWord) (thaw : Bool) (next : Nat) : FreezeOp :=
      { wg := 0, launch := 0, core := 0, th := 0, span := 0x1000, off := 0, tl := 3, num := 1, part := 0, isThaw := thaw, va := va, len := 65536,
        sys := false, entry := 0, handle := 0x10300, next := next, cur := 0 }
    let f (x : FState) (dies : List Nat) : FreezeEntry :=
      { dvec := [], pgran := 4, count := if x = .freezing then 0 else 1, gen := 3, part := 0, state := x, sys := false, link := 0, last := true,
        lvec := dies, pend := 1 }
    let s (p : FreezeOp) (e : FreezeEntry) (m : MsgKind) : State :=
      let w : Workgroup := { wg1 .freeze with tls := List.replicate 8 ⟨some (.freeze, .sys), 1, 0, []⟩ }
      { mapped (one (th1 []) w) with freezeOps := [(9, p)], freezes := [(0, e)], msgs := [(5, m)], nextId := 10 }
    let good (va : DWord) : Bool := match (translate (s (o va false 0) (f .freezing []) (.thawAck 0)) 0 0 va.toNat .write 0).1 with
      | .ok l => isPkgMem (locHome State.reset l)
      | .error _ => false
    (good 0x40000 = true ∧ good 0x50000 = false)
      ∧ writesPending (s (o 0x40000 false 1) (f .freezing []) (.thawAck 0)) (o 0x40000 false 1) = false
      ∧ liveHandle (s (o 0 true 0) (f .frozen [2]) (.thawAck 0)) 0 0x10300 = some 0
      ∧ (freezeAt (after (.freezeComplete 9) (s (o 0 true 0) (f .frozen [2]) (.thawAck 0))) 0).state = .thawing
      ∧ (after (.replicaInvalidation 5) (s (o 0 true 0) (f .thawing [2]) (.replicaInval 0 2))).msgs = [(10, .thawAck 0)]
      ∧ handleOf (f .thawing [2]) 0 = 0x10300
      ∧ (freezeAt (after (.thawAck 5) (s (o 0 true 0) (f .thawing [2]) (.thawAck 0))) 0).state = .free := by decide

/-- A kernel header (R327): entry 0x1000, generation 1, width 8, depth 1, 32 registers, 128 bytes of scratchpad, two workgroups to a core cohort. -/
def hdrBytes : List Byte := leBytes 8 0x1000 ++ leBytes 16 0 ++ [1, 8, 1, 32, 0, 0, 0, 0, 3, 1, 0, 0, 0, 0, 1, 0] ++ leBytes 216 0

/-- A launch record of two workgroups whose header lies at 0x40000; bits 0 to 63 are the first word (R332). -/
def launchBits (word0 : Nat) : BitVec 512 := BitVec.ofNat 512 (word0 + 2 ^ 64 * 2 + 2 ^ 128 * 0x40000)

def queueState (word0 : Nat) : State :=
  let m := mapped State.reset
  { m with mem := memSetN m.mem 0x40000 hdrBytes
           queues := [(7, { Queue.reset with enable := true, fifo := [launchBits word0] })] }

def devOp : LaunchOp := { wg := 0, launch := 0, tl := 4, num := 1, core := 0, th := 0, span := 0x1000, off := 0, addr := 0x100 }

/-- RecordsBecomeLaunches: a head whose checks pass, one that waits, one of another partition; a device launch that passes and one that waits. -/
theorem wit_RecordsBecomeLaunches :
    let ok := recordOf (launchBits 0)
    let waits := recordOf (launchBits 512 |>.or (BitVec.ofNat 512 (2 ^ 320 * 5)))
    let other := recordOf (launchBits (2 ^ 28 * 3))
    let s := queueState 0
    let d (r : LaunchRec) : State := { s with pendingStore := [(devOp, r, 7, 0)] }
    mayQueue s 0 7 = true ∧ (partAt s 0).pstate = .running ∧ headActive s 7 = false
      ∧ ok.part = 0 ∧ recordOk ok = true ∧ waitsMet (partAt s 0) ok = true ∧ (checkRecord s 0 ok).1 = .done
      ∧ waits.part = 0 ∧ recordOk waits = true ∧ waitsMet (partAt s 0) waits = false ∧ other.part ≠ (queueAt s 7).owner
      ∧ oldestDevice (d ok) 7 = some (devOp, ok, 7, 0) ∧ oldestDevice (d waits) 7 = some (devOp, waits, 7, 0)
      ∧ (look (after (.launchActivate 7 false) s).launches 0).map (fun l => (l.status, l.hdr.width)) = some (.done, 8) := by decide +kernel

/-- A launch of two workgroups of eight threads in one core cohort, of which n are placed. -/
def placing (n : Nat) : Launch := { launch1 0 2 with hdr := { hdr1 .copy with workid := [3, 1, 0, 0, 0, 0] }, placed := n }

/-- A launch bound to cluster 0, whose core 0 is full and whose other cores are offline, blocked for 2^22 cycles. -/
def boundL : Launch := { placing 0 with dieBind := [(0, 0)], cluBind := [(0, 0)] }
def fullWg : Workgroup := { wg1 .copy with launch := 5, hdr := { hdr1 .copy with width := 64, depth := 32 } }
def offline : Core := { Core.reset with offline := true }
def blockedState : State :=
  { State.reset with launches := [(0, boundL)], nextLaunch := 1, now := 2 ^ 22, wgs := [(9, fullWg)], cores := (List.range' 1 7).map fun c => (c, offline) }

/-- CohortsArePlaced: a launch that can be placed; none; one that is blocked and may reserve a core. -/
theorem wit_CohortsArePlaced :
    let s : State := { State.reset with launches := [(0, placing 0)], nextLaunch := 1 }
    placeable s 0 (placing 0) = some 0 ∧ (placing 0).recd.prio < 4 ∧ 0 ≤ (queueAt s 0).deficit ∧ placeable s 0 (placing 2) = none
      ∧ mayReserve blockedState 0 boundL = true ∧ reserveCore blockedState 0 boundL = some 0
      ∧ (after .cohortPlace s).wgs.length = 2 ∧ (thOf (after .cohortPlace s) 2051).map (·.wid) = some 11 := by decide +kernel

def overRec : LaunchRec := { rec1 0 2 with stataddr := 0x40020, sigen := true, sigval := 5, inten := true }
def overState : State := { mapped State.reset with launches := [(0, { placing 2 with recd := overRec })], nextLaunch := 1 }

/-- LaunchesEnd: a workgroup whose threads have exited; a task whose write is unacknowledged; a persistent one; a launch that is over, with a status address; an abort. -/
theorem wit_LaunchesEnd :
    let w : Workgroup := { wg1 .copy with tls := [] }
    let s : State := { mapped State.reset with wgs := [(0, w)], launches := [(0, placing 2)], nextLaunch := 1, nextWg := 1 }
    let p : Workgroup := { w with hdr := { w.hdr with persist := true } }
    (let f : State := { s with wgs := [(0, { w with forked := true })], acks := [(1, op1 (.store [1]) txLoc 1 [])] }
     ownWorkDone f 0 = false ∧ (wgAt (after (.workgroupRetire 0) f) 0).map (·.retired) = some false)
      ∧ (liveOf s 0 = [] ∧ w.saved = false ∧ w.retired = false ∧ w.forked = false ∧ w.join = none ∧ rising s.wgs = true
        ∧ (look s.launches 0).isSome = true ∧ (wgAt (after (.workgroupRetire 0) s) 0).map (·.retired) = some true)
      ∧ p.retired = false ∧ p.charges < (p.residency + (2 ^ 22 - p.laneAt)) / 2 ^ 22 ∧ launchOver overState 0 (placing 2) = true
      ∧ (match (hubTranslate overState 0 0x40020 .write).1 with
          | .ok l => l = .phys 0x40020 .tracked 0 0
          | .error _ => false) = true ∧ isFrozen overState 0x40020 32 = false ∧ homeOf overState 0x40020 = .dram 0
      ∧ statusWaits overState (placing 2) = false ∧ look overState.poison (0x40020 / 64) = none
      ∧ sigOf (partAt (after (.launchComplete 0) overState) 0) 0 = 5 ∧ mayQueue s 0 0 = true
      ∧ (look (after (.queueAbort 0 0) s).launches 0).map (·.status) = some .aborted := by decide +kernel

/-! ## Power, the module and the fabric -/

/-- PowerAndPreemptionAct: a partition that runs with a transaction and a task, one that halts, one saved, one restoring. -/
theorem wit_PowerAndPreemptionAct :
    let set (x : PState) (s : State) : State := { s with parts := s.parts.modify 0 fun p => { p with pstate := x } }
    let run : State := { readyState (thTx 0) with cores := [(3, { Core.reset with deque := [task1] })], launches := [(0, launch1 0 1)] }
    let saved : State := { set .saved (readyState (th1 [])) with wgs := [(0, { wg1 .copy with saved := true })] }
    (run.parts.length = 16 ∧ mayPart run 0 0 = true ∧ (partAt run 0).pstate = .running ∧ wgOfPart run 0 (wgOf 0) = true)
      ∧ (thOf (after (.partitionPreempt 0 0) run) 0).map (fun t => (t.region.taint, t.region.stores)) = some (true, [])
      ∧ (partAt (after (.partitionPreempt 0 0) run) 0).savedTasks = [(3, task1)]
      ∧ saveWaits (set .halting (readyState (th1 []))) 0 = false ∧ (set .halting (readyState (th1 []))).parts.length = 16
      ∧ (partAt (after (.partitionSaved 0) (set .halting (readyState (th1 [])))) 0).pstate = .saved
      ∧ (partAt (after (.partitionResume 0 0) saved) 0).pstate = .restoring
      ∧ restoreFits (set .restoring saved) { wg1 .copy with saved := true } = true
      ∧ (partAt (after (.workgroupRestore 0) (set .restoring saved)) 0).pstate = .running := by decide +kernel

/-- The allowance of 64 under a cap of 400,000 falls to 51 at 500,000 and stays there at 395,000 (R350). -/
theorem test_bridle :
    let s : State := { State.reset with parts := State.reset.parts.modify 0 fun p => { p with pcap := 400000 } }
    let t : State := { s with wgs := [(0, { wg1 .copy with lanesRun := 8 })], activity := [(0, ⟨3, 0, 0, 0, 0, 0⟩)] }
    let run (e : Nat) (s : State) : State := after (.bridleInterval [(0, e, 0)] [(0, ⟨2, 1, 1, 1, 1, 1⟩)] 0) s
    let again (u : State) : State := { u with wgs := t.wgs, activity := t.activity }
    (partAt (run 500000 t) 0).allow = 51 ∧ (partAt (run 395000 (again (run 500000 t))) 0).allow = 51 := by decide

/-- PowerAndPreemptionAct: one workgroup of a launch and a queue, 64 readings below the limit and one that is not, a place in a save area. -/
theorem wit_PowerAndPreemptionAct_power :
    let s : State := { readyState (th1 []) with launches := [(0, launch1 0 1)] }
    ((residents s).filter (fun r => r.launch = 0)).length = 1 ∧ ((residents s).filter (fun r => r.queue = (launch1 0 1).queue)).length = 1
      ∧ (look s.launches 0).isSome = true ∧ (List.replicate 64 94).length = 64 ∧ ((List.replicate 64 94).all fun x => x < 95) = true
      ∧ (after (.thermalLimitEnd 1 (List.replicate 64 94)) { s with thermal := s.thermal.set 1 true }).thermal = State.reset.thermal
      ∧ (saveGranules { s with parts := s.parts.modify 0 fun p => { p with psave := 0x80000 } } 0).length = 64 := by decide +kernel

/-- ModuleStepsAct: a boot, before its first stage, in its sixth, and halted; answers to the port, to a joined peer and to none. -/
theorem wit_ModuleStepsAct_boot :
    let b (n : Nat) (h : Bool) : State := { State.reset with power := .booting, bootStage := n, bootHalted := h }
    let j : State := { State.reset with joined := true, pkg := 2, lostDevs := [9] }
    (after (.powerOn [] [] []) { State.reset with power := .off }).power = .booting ∧ (b 0 false).bootStage < 6 ∧ (b 5 false).measure.length = 32
      ∧ (b 3 true).bootHalted = true ∧ (b 3 true).power = .booting
      ∧ spdmReaches State.reset none = true ∧ spdmReaches j (some 3) = true ∧ spdmReaches j (some 9) = false ∧ j.power = .on
      ∧ (look (after (.eccError (.slice 0x1000)) State.reset).poison 0x1000) = some .ecc := by decide

/-- ModuleStepsAct: a module that is on and one that is off, a backed sector, a register, a tile, and a core with a workgroup. -/
theorem wit_ModuleStepsAct :
    let s : State := { st [] with launches := [(0, launch1 0 1)] }
    s.power = .on ∧ { s with power := .off }.power = .off ∧ s.measure.length = 32 ∧ isPkgMem (homeOf s (64 * 0x1000)) = true
      ∧ (thOf s 0).map (fun t => t.regs.length) = some 32 ∧ (wg1 .copy).tiles.length = 4 ∧ rising (tileOf (wg1 .copy) 0).elems = true
      ∧ (coreAt s 0).offline = false ∧ rising s.wgs = true ∧ s.parts.length = 16
      ∧ (look (after (.coreOffline 0) s).launches 0).map (·.status) = some .aborted
      ∧ rowTok (tileOf (wg1 .copy) 0) 5 = none ∧ (wgAt (after (.eccError (.tileRow 0 0 5)) s) 0).map (fun w => (tileOf w 0).struck) = some [5]
      ∧ look (after (.eccError (.memory 0x1000)) s).poison 0x1000 = some .ecc := by decide

/-- A request of device 5 to this device, device 0. -/
def pkt1 (op : FabOp) (addr len : Nat) (bs : List Byte) : Packet :=
  { ftid := 5, sdev := 5, score := 2, dest := .dev 0, stream := 1, seq := 1, ord := true, op := op, addr := addr, endpoint := none, len := len,
    bytes := bs, poison := [], cause := .ecc, key := 0, fromPeer := none, named := none, born := 0 }

def exporting (s : State) : State :=
  let m := mapped s
  { m with parts := m.parts.modify 0 fun p => { p with pexEnable := true, pexRoot := 0x10000 } }

/-- The request's flow with it performed, or frozen before it. -/
def flow1 (done : List Nat) (frozen : Option Nat) : DstFlow :=
  { home := 0, sdev := 5, score := 2, stream := 1, performed := done, cache := done.map fun q => (q, .done [] none false), frozenAt := frozen, part := 0,
    floor := 0, arriving := [], lastAck := 0 }

def exportsTo (s : State) (addr : Nat) (acc : AccKind) : Option Nat :=
  match (exportWalk s 0 addr acc).1 with
  | .ok l => some (locAddr l)
  | .error _ => none

/-- FabricDestinationsPerformRequests at this device: requests that are performed, answered before, frozen, of no tenant, of a page that is missing, of
a frozen range, and too old; a transfer's packet to a workgroup that runs, to a saved one, to none, beyond the scratchpad, and to an object whose line is
absent. -/
theorem wit_FabricDestinationsPerformRequests :
    let s := exporting (st [])
    let fz : State := { s with freezes := [(0, { FreezeEntry.reset with state := .frozen, pgran := 4, count := 1 })] }
    let ld := pkt1 .load 0x40000 4 []
    let e (slot : Nat) : Endpoint := { core := 0, slot := slot, bar := some 0x40, spad := true }
    let sv : State := { s with wgs := [(0, { wg1 .copy with saved := true })] }
    let ab : State := { s with wgs := [(0, { wg1 .copy with absent := [(0, 1)] })] }
    let x : Packet := { pkt1 .transfer 0x200 16 (List.replicate 16 9) with endpoint := some (e 0) }
    (acceptor s 5 = some 0 ∧ acceptor s 6 = none ∧ verdict (dstFlowOf s.dstFlows 0 ld) ld = .perform ∧ verdict (flow1 [1] none) ld = .again (some (.done [] none false))
        ∧ verdict { flow1 [1] none with cache := [] } ld = .again none ∧ tooOld s 0 = false ∧ tooOld { s with now := us 50 + 1 } 0 = true
        ∧ verdict (flow1 [] (some 0)) ld = .frozen)
      ∧ (tagPasses s ld && !requestHeld s ld && tagPasses s (pkt1 .transfer 0x200 16 [])) = true ∧ tagPasses { s with fabKeys := [((0, .dev 5), 77)] } ld = false
      ∧ exportsTo s 0x40000 .read = some 0x40000 ∧ exportsTo s 0x40000 .atomic = some 0x40000 ∧ exportsTo s 0x50000 .write = none
      ∧ homeOf s 0x40000 = .dram 0 ∧ locFrozen fz txLoc 4 = true
      ∧ endpointCheck s (e 0) 0 (pkt1 .transfer 0x200 16 []) = .ok 0 true false ∧ endpointCheck sv (e 0) 0 (pkt1 .transfer 0x200 16 []) = .busy
      ∧ endpointCheck s (e 9) 0 (pkt1 .transfer 0x200 16 []) = .refused ∧ endpointCheck s (e 0) 0 (pkt1 .transfer 0x2000 16 []) = .ok 0 false false
      ∧ endpointCheck ab (e 0) 0 (pkt1 .transfer 0x200 16 []) = .ok 0 true true
      ∧ (wgAt (after (.xferPacket x) s) 0).map (fun w => (memGet w.spad 0x20F, (objAt w 0x40).phase)) = some (9, true)
      ∧ (dstFlowOf (after (.xferPacket x) ab).dstFlows 0 x).arriving.length = 1
      ∧ memGetN (after (.fabricRequest (pkt1 .store 0x40000 4 [1, 2, 3, 4])) s).mem 0x40000 4 = [1, 2, 3, 4] := by decide

/-- The same at a switch: an allocation of the tenant with and without a mirror, none, a lost switch; an update on its way to the mirror, and
one that the mirror has performed itself. -/
theorem wit_FabricDestinationsPerformRequests_switch :
    let p (op : FabOp) : Packet := { pkt1 op 0x30000 4 [1, 2, 3, 4] with sdev := 0, dest := .switch 1 3 }
    let s (a : List SwAlloc) (lost : Bool) : State :=
      { State.reset with net := [p .store, p .load, { p .store with named := some 3 }], switches := [(67, { Switch.reset with allocs := a, lost := lost })] }
    let a (m : Option (Nat × Nat)) : SwAlloc := { ftid := 5, first := 3, count := 1, mirror := m, mirrorOf := none }
    let v : MirrorUpd := { primary := 67, mirror := 131, addr := 0x30000, bytes := [1, 2], poison := none, sdev := 0, score := 2, stream := 1, seq := 1,
                           reply := .done [] none false }
    inAlloc (a none) 5 0x30000 4 = true ∧ verdict (dstFlowOf (switchAt (s [a none] false) 67).flows 67 (p .load)) (p .load) = .perform
      ∧ bankTagPasses (s [a none] false) 67 (p .load) = true ∧ bankTagPasses (s [a none] false) 67 { p .load with key := 4 } = false
      ∧ memGetN (switchAt (after (.fabricRequest { p .store with named := some 3 }) (s [{ a none with mirrorOf := some 3 }] false)) 67).mem 0x30000 4 = [1, 2, 3, 4]
      ∧ updPending (s [a none] false) 67 (p .load) = false ∧ (look (s [] true).switches (swKey 1 3)).map (·.lost) = some true
      ∧ memGetN (switchAt (after (.fabricRequest (p .store)) (s [a none] false)) 67).mem 0x30000 4 = [1, 2, 3, 4]
      ∧ (after (.fabricRequest (p .store)) (s [a (some (2, 3))] false)).mirrorUpds.length = 1
      ∧ memGetN (switchAt (after (.mirrorUpdate 4) { s [a (some (2, 3))] false with mirrorUpds := [(4, v)] }) 131).mem 0x30000 2 = [1, 2]
      ∧ (let done : Switch := { Switch.reset with flows := [{ flow1 [1] none with home := 67, sdev := 0 }] }
         let t : State := { s [a (some (2, 3))] false with mirrorUpds := [(4, v)] }
         let t : State := { t with switches := t.switches ++ [(131, done)] }
         (switchAt (after (.mirrorUpdate 4) t) 131).mem = [] ∧ (after (.mirrorUpdate 4) t).mirrorUpds = [])
      ∧ (after (.flowStateExpire ⟨2, .dev 0, 1⟩ 5) { State.reset with dstFlows := [flow1 [1] none], now := us 250 }).dstFlows =
          [{ flow1 [] none with floor := 1 }]
      ∧ (switchAt (after (.switchRejoin 1 3) (s [] true)) 67).lost = false := by decide

def desc1 : XferDesc :=
  { dslot := 0, dcore := 0, stream := 1, ord := true, dkind := 0, sspace := 0, ddev := 3, bar := none, bytes := 32, daddr := 0x10000, saddr := 0x200 }

def xfer1 (running : Bool) : Xfer :=
  { desc := desc1, core := 0, wg := 0, launch := 0, th := 0, issue := 3, span := 0x1000, off := 0, tl := 3, num := 1, part := 0, running := running,
    entry := 0, entered := 0, sent := if running then 1 else 0, done := if running then [0] else [], event := none }

def key3 : FlowKey := ⟨0, .dev 3, 1⟩

/-- The request of the access under key 1, of device 0 to device 3, sent at cycle 0. -/
def req3 (op : FabOp) (d : Dest) : SrcReq :=
  { flow := ⟨0, d, 1⟩, seq := 1, owner := .op 1, pkt := { pkt1 op 0x30000 4 [1, 2, 3, 4] with sdev := 0, dest := d }, firstAt := some 0, lastAt := 0,
    attempts := 1, busy := false, queued := false }

/-- A load or a store of remote memory that waits for its reply; plane 1 is up. -/
def remoteState (kind : OpKind) (dst : List Nat) (r : SrcReq) : State :=
  { opState { op1 kind (.phys (2 ^ 51 + 3 * 2 ^ 39 + 0x30000) .tracked 0 0) 4 dst with sent := true } with
    reqs := [(7, r)], ports := [(1, 8)], nextId := 8 }

/-- FabricSourcesActOnReplies: a transfer that waits, and one whose packets are done; requests unanswered, busy and frozen; replies of each
kind; a flow with a record; losses. -/
theorem wit_FabricSourcesActOnReplies_transfer :
    let w : Workgroup := { wg1 .xfer with spad := memSetN [] 0x200 [1, 2, 3], tls := List.replicate 8 ⟨some (.xfer, .sys), 1, 0, []⟩ }
    let s (x : Xfer) : State := { one (th1 []) w with groups := [], focus := none, xfers := [(5, x)], ports := [(1, 8)], nextId := 6, now := 1 }
    let sends : Xfer := { xfer1 false with running := true }
    (xferDest desc1 = .dev 3 ∧ (s sends).noticed = [] ∧ destUp (s sends) (.dev 3) = true ∧ (flowAt (s sends) key3).frozen = false
        ∧ packetCount desc1 = 1 ∧ packetRange desc1 0 = (0x10000, 32))
      ∧ ((after .xferStart (s (xfer1 false))).net, (after .xferStart (s (xfer1 false))).xfers.map (·.2.running)) = ([], [true])
      ∧ sends.entered < (s sends).now ∧ (after .xferStart (s sends)).net.map (fun q => (q.seq, q.addr, q.len)) = [(1, 0x10000, 32)]
      ∧ (timelineAt w 3).complete = [] ∧ (wgAt (after (.xferComplete 5) (s (xfer1 true))) 0).map (fun w => (timelineAt w 3).done) = some 1 := by decide

/-- FabricSourcesActOnReplies: two stores of different threads in one flow, of which the later waits for the earlier to enter. -/
theorem wit_FabricSourcesActOnReplies_order :
    let o (t : Nat) : Op :=
      { op1 (.store [1, 2, 3, 4]) (.phys (2 ^ 51 + 3 * 2 ^ 39 + 0x30000 + 4 * t) .tracked 0 0) 4 [] with
        parts := [⟨t, 1, [], 0x40000, 5, 0, [], false⟩] }
    let s : State := { opState (o 0) with
      ops := [(1, o 0), (2, o 1)], ports := [(1, 8)], nextId := 8, now := 1, parts := State.reset.parts.modify 0 fun p => { p with pftid := 5 } }
    mustWait s 2 (o 1) = false ∧ entersBefore s ((o 0).entered, leadOf s (o 0), 1) ((o 1).entered, leadOf s (o 1), 2) = true ∧ lineWaits s (o 1) = false ∧ opFlow s (o 0) = some ⟨0, .dev 3, 0⟩ ∧ opFlow s (o 1) = some ⟨0, .dev 3, 0⟩ ∧ (partAt s 0).pftid ≠ 0
      ∧ s.noticed = [] ∧ (after (.homeStore 2) s).net = []
      ∧ (after (.homeStore 2) (after (.homeStore 1) s)).net.map (fun q => (q.seq, q.addr)) = [(1, 0x30000), (2, 0x30004)] := by decide

theorem wit_FabricSourcesActOnReplies_requests :
    let s (r : SrcReq) : State := { remoteState (.load (.flat false)) [6] r with now := us 50 }
    let r := req3 .load (.dev 3)
    let busy := { r with busy := true }
    let at' : SrcReq := req3 (.atomic .add false 1 0) (.dev 3)
    let saved : State := { remoteState (.atomic .add false) [6] at' with wgs := [(0, { wg1 .copy with saved := true })], now := us 50 }
    reqSaved (s r) r = false ∧ reqSaved saved at' = true ∧ (flowAt (s r) key3).frozen = false ∧ destUp (s r) (routed (s r) r.pkt).dest = true ∧ 0 + us 50 ≤ us 50 ∧ rising (s r).ops = true
      ∧ (look (s r).ops 1).map allHeld = some false ∧ (s r).acks = []
      ∧ (look (after (.fabricRetry 7) (s r)).reqs 7).map (·.attempts) = some 2
      ∧ (regOf (after (.fabricRetry 7) (s { r with attempts := 4 })) 6).map (·.poison) = some true
      ∧ (let f : State := { s r with flows := [⟨key3, 2, true, []⟩] }
         (flowAt f key3).frozen = true ∧ (look (after (.fabricRetry 7) f).reqs 7).map (·.attempts) = some 1)
      ∧ (after (.xferBusyRetry 7) (s busy)).net.length = 1 := by decide

theorem wit_FabricSourcesActOnReplies_replies :
    let y (b : ReplyBody) : Reply := { flow := key3, seq := 1, body := b, key := 0, born := 0 }
    let ld (b : ReplyBody) : State := { remoteState (.load (.flat false)) [6] (req3 .load (.dev 3)) with netReplies := [y b] }
    let st (b : ReplyBody) : State :=
      { remoteState (.store [1, 2, 3, 4]) [] (req3 .store (.dev 3)) with netReplies := [y b], threads := [(0, { (th1 []) with cond := .ready 0 0, stc := 1 })] }
    let got (b : ReplyBody) := (regOf (after (.fabricReply (y b)) (ld b)) 6)
    let stc (b : ReplyBody) := (thOf (after (.fabricReply (y b)) (st b)) 0).map fun t => (t.stc, t.region.taint)
    got (.done [0xDD, 0xCC, 0xBB, 0xAA] none false) = some (.clean 0xAABBCCDD)
      ∧ (ld .busy).reqs.map (fun p => reqSaved (ld .busy) p.2) = [false]
      ∧ (let z : Reply := { y .busy with key := 9 }
         (after (.fabricReply z) { ld .busy with netReplies := [z] }).netReplies = [])
      ∧ (look (after (.fabricReply (y (.fault .ecc true false))) (ld (.fault .ecc true false))).reqs 7).map (·.attempts) = some 2
      ∧ tooOld (ld .busy) 0 = false ∧ fromLink .busy = false ∧ stc (.done [] none false) = some (0, false) ∧ stc (.fault .remoteFault false true) = some (0, true)
      ∧ (look (after (.fabricReply (y .frozen)) (ld .frozen)).reqs 7).map (·.queued) = some true
      ∧ (look (after (.fabricReply (y .busy)) (ld .busy)).reqs 7).map (·.busy) = some true := by decide

theorem wit_FabricSourcesActOnReplies_flows :
    let s (recs : List (Nat × Nat × Nat)) : State :=
      { remoteState (.store [1, 2, 3, 4]) [] { req3 .store (.dev 3) with queued := true } with
        flows := [⟨key3, 2, true, recs⟩], cores := [(0, { Core.reset with recs := [(1, { PoisonRec.zero with status := 2, gen := 1, cause := 1 })] })] }
    let one := s [(0, 1, 1)]
    let idle : State := { s [] with reqs := [] }
    (flowAt one key3).frozen = true ∧ (flowAt one key3).recs = [(0, 1, 1)] ∧ (recAt one 0 1).gen.toNat = 1 ∧ (recAt one 0 1).status = 2
      ∧ destUp one (routed one (req3 .store (.dev 3)).pkt).dest = true
      ∧ (recAt (after (.flowResumeMessage key3) one) 0 1).status = 3 ∧ (after (.flowResumeMessage key3) one).net.length = 1
      ∧ (thOf (after (.flowAbortMessage key3) one) 0).map (·.region.taint) = some true
      ∧ (flowAt idle key3).recs = [] ∧ (flowAt (after (.flowAbortMessage key3) idle) key3).frozen = false
      ∧ (flowAt State.reset key3).frozen = false := by decide

theorem wit_FabricSourcesActOnReplies_losses :
    let alloc (m : Option Nat) : SwAlloc := { ftid := 5, first := 3, count := 1, mirror := none, mirrorOf := m }
    let s (d : Dest) : State :=
      { remoteState (.load (.flat false)) [6] (req3 .load d) with
        lostDevs := [3], ports := [(1, 8), (2, 8)], switches := [(67, { Switch.reset with lost := true }), (131, { Switch.reset with allocs := [alloc (some 67)] })] }
    let t : State := { s (.switch 1 3) with switches := [(67, { Switch.reset with lost := true })] }
    let p := (req3 .load (.switch 1 3)).pkt
    (s (.dev 3)).msgs = [] ∧ (s (.dev 3)).mirrorUpds = []
      ∧ (regOf (after (.lossNotice (.dev 3)) (s (.dev 3))) 6).map (·.poison) = some true
      ∧ (switchAt t (swKey 1 3)).lost = true ∧ routeSwitch t 1 3 5 0x30000 4 = none
      ∧ (regOf (after (.lossNotice (.switch 1 3)) t) 6).map (·.poison) = some true
      ∧ routeSwitch (s (.switch 1 3)) 1 3 5 0x30000 4 = some 131 ∧ planeUp (s (.switch 1 3)) (131 / 64) = true
      ∧ (after (.lossNotice (.switch 1 3)) (s (.switch 1 3))).net = [{ p with dest := .switch 2 3, named := some 67 }]
      ∧ (after (.packetAgeDiscard p) { State.reset with net := [p], now := us 50 + 1 }).net = [] ∧ tooOld State.reset p.born = false
      ∧ (after (.linkTrained 1 4) State.reset).joined = true ∧ State.reset.reqs = []
      ∧ (after (.linkLaneFailure 1 3) { State.reset with joined := true, ports := [(1, 8)] }).joined = false ∧ (after (.linkLaneFailure 1 6) { State.reset with ports := [(1, 8)] }).ports = [(1, 4)]
      ∧ planeUp State.reset 1 = false
      ∧ (let j : State := { State.reset with joined := true, pkg := 2, lostDevs := [9], noticed := [.dev 9] }
         (after (.linkTrained 1 9) j).lostDevs = [] ∧ (after (.linkTrained 1 2) j).ports = [(1, 8)] ∧ 7 ∉ j.lostDevs)
      ∧ State.reset.lostDevs = [] := by decide

/-! ## Statements about the whole machine -/

/-- ReduceAddIsTheSum: a list that reduces. -/
theorem test_sum : reduce .add .rne false [some 7, none, some 8, some 0xFFFFFFFF] = 14 := by decide

/-- WordsDecodeToTheirInstruction: a well-formed instruction and its word, with bytes after it. -/
theorem wit_WordsDecodeToTheirInstruction :
    (Instr.iaddW 4 6 8).wf = true ∧ encode (.iaddW 4 6 8) = some 0x6082030400000000
      ∧ (match decodeBytes (bytesOfWord 0x6082030400000000 ++ [1, 2]) with
          | .ok (i, rest) => (some i, rest)
          | .error _ => (none, [])) = (some (.iaddW 4 6 8), [1, 2]) := by decide

/-- OtherWordsAreRefused: words of each kind that decode, and one whose reserved bit is set. -/
theorem wit_OtherWordsAreRefused :
    (decode 0x6082030400000000).toOption = some (.iaddW 4 6 8) ∧ (decode 0x82101800441A1401).toOption.isSome = true
      ∧ (decode 0x6082030400000001).toOption = none := by decide

/-- The state that a word is placed in. -/
def placed : State := State.reset.withFetchWord 64 0x6082030400000000

/-- StepsKeepTablesInOrder: a state in order whose step is a next state. -/
theorem wit_StepsKeepTablesInOrder : ∃ t, step placed = .next t := ⟨_, rfl⟩

theorem wit_StepsKeepTablesInOrder_tidy : tidy placed := tidy_of (by decide)

/-- MemoryReadsBack: scratchpad without and with poison, memory, an object. -/
theorem wit_MemoryReadsBack :
    let s := st []
    let bad : Workgroup := { wg1 .copy with spadPoison := [(3, .ecc)] }
    let m := mapped s
    memWf (wg1 .copy).spad = true ∧ look bad.spadPoison (0xC0 / 64) = some .ecc ∧ memWf m.mem = true ∧ m.poison = []
      ∧ (readLoc (writeLoc m false txLoc [1, 2, 3, 4]) txLoc 4).1 = [1, 2, 3, 4] ∧ isKeyed (homeOf m 0x40000) = false
      ∧ (objAt objWg 0x40).tcount < 2 ^ 16 ∧ (wgAt (setObj s 0 0x40 (objAt objWg 0x40)) 0).map (fun v => objAt v 0x40) = some (objAt objWg 0x40) := by
  decide

end Sys2Proof.Tests
end

section
/-! PROOFS. Runs of a list of updates. -/

namespace Sys2Proof.Machine

section
variable {σ β : Type} {f : σ → β → σ}

/-- What every update keeps holds after all of them. -/
theorem foldl_keeps {P : σ → Prop} (keeps : ∀ s b, P s → P (f s b)) (l : List β) (s : σ) (h : P s) : P (l.foldl f s) :=
  List.foldlRecOn l f h fun s hs b _ => keeps s b hs

/-- What one update brings about, and every update keeps, holds after all of them; `Q` is what that update finds. -/
theorem foldl_reaches {P Q : σ → Prop} {a : β} {l : List β} (ha : a ∈ l) (here : ∀ s, Q s → P (f s a)) (keeps : ∀ s b, P s → P (f s b))
    (finds : ∀ s b, Q s → Q (f s b)) (s : σ) (h : Q s) : P (l.foldl f s) := by
  induction l generalizing s with
  | nil => cases ha
  | cons b l ih =>
    rcases List.mem_cons.mp ha with rfl | hal
    · exact foldl_keeps keeps l _ (here s h)
    · exact ih hal _ (finds s b h)

/-- A relation that every update keeps relates the state before all of them to the state after. -/
theorem foldl_rel {R : σ → σ → Prop} (refl : ∀ s, R s s) (trans : ∀ {s t u}, R s t → R t u → R s u) (upd : ∀ s b, R s (f s b)) (l : List β)
    (s : σ) : R s (l.foldl f s) :=
  foldl_keeps (P := R s) (fun _ b h => trans h (upd _ b)) l s (refl s)

end

/-- An entry that a table gives is one of its entries. -/
theorem mem_of_look {α : Type} {m : NMap α} {i : Nat} {x : α} (h : look m i = some x) : (i, x) ∈ m := by
  induction m with
  | nil => cases h
  | cons p m ih =>
    obtain ⟨k, v⟩ := p
    simp only [look] at h
    split at h
    · next hik => rw [hik, Option.some.inj h]; exact List.mem_cons_self
    · split at h
      · cases h
      · exact List.mem_cons_of_mem _ (ih h)

/-- A key that no entry bears gives nothing. -/
theorem look_eq_none_of {α : Type} {m : NMap α} {i : Nat} (h : ∀ p ∈ m, p.1 ≠ i) : look m i = none := by
  cases hl : look m i with
  | none => rfl
  | some x => exact absurd rfl (h (i, x) (mem_of_look hl))

end Sys2Proof.Machine
end

section
/-! PROOFS. What reset leaves in the hub's registers and in the tables (R8, R329, R330, R364 to R366, R376, R377). -/

namespace Sys2Proof.Machine

/-! ## Where a register lies -/

theorem hubReg_queue {q o : Nat} (hq : q < 16384) (ho : o < 128) : hubReg (128 * q + o) = some (.queue q o) := by
  have hlow : 128 * q + o < 0x200000 := by omega
  have hwindow : (128 * q + o) / 128 = q := by omega
  have hoff : (128 * q + o) % 128 = o := by omega
  rw [hubReg, if_pos hlow, hwindow, hoff]

theorem hubReg_part {p o : Nat} (hp : p < 16) (ho : o < 0x1000) : hubReg (0x200000 + 0x1000 * p + o) = some (.part p o) := by
  have hqueues : ¬ 0x200000 + 0x1000 * p + o < 0x200000 := by omega
  have hparts : 0x200000 + 0x1000 * p + o < 0x210000 := by omega
  have hblock : (0x200000 + 0x1000 * p + o - 0x200000) / 0x1000 = p := by omega
  have hoff : (0x200000 + 0x1000 * p + o - 0x200000) % 0x1000 = o := by omega
  rw [hubReg, if_neg hqueues, if_pos hparts, hblock, hoff]

theorem hubReg_manager {o : Nat} (ho : o < 0x4000) : hubReg (0x1000000 + o) = some (.manager o) := by
  have hqueues : ¬ 0x1000000 + o < 0x200000 := by omega
  have hparts : ¬ 0x1000000 + o < 0x210000 := by omega
  have hblock : 0x1000000 + o < 0x1004000 := by omega
  have hoff : 0x1000000 + o - 0x1000000 = o := by omega
  simp [hubReg, hqueues, hparts, hblock, hoff]

/-! ## A manager's reads -/

section
variable {s : State} {who : Nat} (hm : isManager s who = true)
include hm

theorem hubRead_queue {q o : Nat} (hq : q < 16384) (ho : o < 128) (h8 : o % 8 = 0) :
    hubRead s who (128 * q + o) true = readQueue s q o := by
  have haligned : (128 * q + o) % 8 = 0 := by omega
  simp [hubRead, haligned, hubReg_queue hq ho, mayQueue, hq, hm]

theorem hubRead_part {p o : Nat} (hp : p < 16) (ho : o < 0x1000) (h8 : o % 8 = 0) :
    hubRead s who (0x200000 + 0x1000 * p + o) true = readPart s p o := by
  have haligned : (0x200000 + 0x1000 * p + o) % 8 = 0 := by omega
  simp only [hubRead, haligned, hubReg_part hp ho]
  simp [mayPart, hp, hm]

theorem hubRead_manager {o : Nat} (ho : o < 0x4000) (h8 : o % 8 = 0) :
    hubRead s who (0x1000000 + o) true = readManager s o := by
  have haligned : (0x1000000 + o) % 8 = 0 := by omega
  simp only [hubRead, haligned, hubReg_manager ho]
  simp [hm]

end

/-! ## The registers at reset -/

theorem ccpart_reset {who : Nat} (h : who < 32) : State.reset.ccpart[who]? = some 16 :=
  List.getElem?_replicate_of_lt h

theorem isManager_reset {who : Nat} (h : who < 32) : isManager State.reset who = true := by
  have hon : State.reset.power = .on := rfl
  simp [isManager, requester, hon, ccpart_reset h, managerId]

@[simp] theorem queueAt_reset (q : Nat) : queueAt State.reset q = Queue.reset := rfl

@[simp] theorem partAt_reset (p : Nat) : partAt State.reset p = Partition.reset := by
  simp only [partAt, State.reset, List.getElem?_replicate]
  split <;> rfl

theorem readQueue_reset (q o : Nat) : readQueue State.reset q o = if o = 0x60 then 0x100000 else 0 := by
  unfold readQueue
  rw [queueAt_reset]
  split
  case h_6 hother => rw [if_neg hother]
  all_goals rfl

theorem readPart_reset (p o : Nat) :
    readPart State.reset p o = if o = 0x20 then 64 else if o = 0x30 then 0x40000000 else 0 := by
  unfold readPart
  rw [partAt_reset]
  split
  case isTrue hsignals =>
    rw [if_neg (by omega), if_neg (by omega)]
    rfl
  case isFalse =>
    split
    case h_23 hother => simp_all
    all_goals rfl

theorem windows_reset (w : Nat) : (Partition.reset.windows[w]?).getD ⟨0, 0, false, 0⟩ = ⟨0, 0, false, 0⟩ := by
  simp only [Partition.reset, List.getElem?_replicate]
  split <;> rfl

theorem readManager_reset {o : Nat} (hcxl : ¬(0x2040 ≤ o ∧ o < 0x2060)) :
    readManager State.reset o = if o < 0x100 then 16 else 0 := by
  unfold readManager
  simp only [partAt_reset, windows_reset]
  split
  case isTrue hccpart =>
    have hcore : o / 8 < 32 := by omega
    simp [ccpart_reset hcore]
  case isFalse =>
    have hkeystat : State.reset.keystat = 0 := rfl
    have hpinmap : State.reset.pinmap = [] := rfl
    have hcoreoff : State.reset.coreoff = [] := rfl
    simp [hcxl, hkeystat, hpinmap, hcoreoff, lookD]

theorem tidy_reset : tidy State.reset where
  mem := rfl
  poison := rfl
  threads := rfl
  wgs := rfl
  groups := rfl
  ops := rfl
  launches := rfl
  parts := rfl
  keys := rfl
  measures := rfl
  spads _ _ h := nomatch h
  tiles _ _ h := nomatch h
  l1 _ := rfl
  clusters _ := rfl
  dirs _ := rfl

theorem measure_reset {k : Nat} {m : List Byte} (h : State.reset.measure[k]? = some m) : m = List.replicate 64 0 :=
  List.eq_of_mem_replicate (List.mem_of_getElem? h)

/-- Settles O58: each kind of register read by a manager, and the tables and lists of `State.reset`. -/
theorem resetLeavesItsValues : Obligations.ResetLeavesItsValues := by
  refine ⟨tidy_reset, fun who hwho => ?_, fun _ _ => measure_reset, rfl, rfl, rfl, rfl, rfl, rfl, rfl⟩
  have hm := isManager_reset hwho
  refine ⟨fun q o hq ho h8 => ?_, fun p o hp ho h8 => ?_, fun o ho h8 hcxl => ?_⟩
  · rw [hubRead_queue hm hq ho h8, readQueue_reset]
  · rw [hubRead_part hm hp ho h8, readPart_reset]
  · rw [hubRead_manager hm ho h8, readManager_reset hcxl]

end Sys2Proof.Machine
end

section
/-! PROOFS. Memory reads back: what a write of bytes does to the memory, the poison and the keys of a place, and what is read there after it (R6, R150,
R195, R366). -/

namespace Sys2Proof.Machine

/-! ## Bytes and numbers -/

@[simp] theorem length_leBytes (n x : Nat) : (leBytes n x).length = n := by
  induction n generalizing x with
  | zero => rfl
  | succ n ih => rw [leBytes, List.length_cons, ih]

/-- The low bytes of a number give the number back, as far as they reach (R6). -/
theorem leNat_leBytes (n x : Nat) : leNat (leBytes n x) = x % 256 ^ n := by
  induction n generalizing x with
  | zero => rw [Nat.pow_zero, Nat.mod_one]; rfl
  | succ n ih =>
    have hpow : 256 ^ (n + 1) = 256 * 256 ^ n := Nat.pow_succ'
    rw [leBytes, leNat, ih, BitVec.toNat_ofNat, hpow, Nat.mod_mul]

theorem leNat_leBytes_of_lt {n x : Nat} (h : x < 256 ^ n) : leNat (leBytes n x) = x := by
  rw [leNat_leBytes, Nat.mod_eq_of_lt h]

/-! ## Runs of bytes -/

theorem memSetN_append (m : Memory) (a : Nat) (xs ys : List Byte) :
    memSetN m a (xs ++ ys) = memSetN (memSetN m a xs) (a + xs.length) ys := by
  induction xs generalizing m a with
  | nil => rfl
  | cons x xs ih =>
    have hnext : a + (x :: xs).length = a + 1 + xs.length := by rw [List.length_cons]; omega
    rw [List.cons_append, memSetN, memSetN, ih, hnext]

theorem memGetN_append (m : Memory) (a n k : Nat) : memGetN m a (n + k) = memGetN m a n ++ memGetN m (a + n) k := by
  induction n generalizing a with
  | zero => rw [Nat.zero_add]; rfl
  | succ n ih =>
    have hnext : a + (n + 1) = a + 1 + n := by omega
    rw [Nat.succ_add, memGetN, memGetN, ih, hnext, List.cons_append]

@[simp] theorem length_memGetN (m : Memory) (a n : Nat) : (memGetN m a n).length = n := by
  induction n generalizing a with
  | zero => rfl
  | succ n ih => rw [memGetN, List.length_cons, ih]

/-- A run that reads as two runs one after the other reads as each of them at its place. -/
theorem memGetN_split {m : Memory} {a n k : Nat} {xs ys : List Byte} (hn : xs.length = n) (h : memGetN m a (n + k) = xs ++ ys) :
    memGetN m a n = xs ∧ memGetN m (a + n) k = ys := by
  rw [memGetN_append] at h
  exact List.append_inj h (by rw [length_memGetN, hn])

/-! ## Writing at a place, sector by sector (R150) -/

/-- Bytes whose sectors bear no poison are written as they are, and leave the poison as it was. -/
theorem writeSectors_clean (engine : Bool) (m : Memory) (p : NMap Cause) (a k : Nat) (bs : List Byte)
    (hclean : ∀ x, a ≤ x → x < a + bs.length → look p (x / 64) = none) (hk : bs.length ≤ k) :
    writeSectors engine m p a bs k = (memSetN m a bs, p) := by
  induction k generalizing m a bs with
  | zero =>
    rw [List.length_eq_zero_iff.mp (Nat.le_zero.mp hk)]
    rfl
  | succ k ih =>
    by_cases hbs : bs = []
    · rw [hbs]; rfl
    · have hpos : 0 < bs.length := List.length_pos_iff.mpr hbs
      have hdrop : (bs.drop (64 - a % 64)).length = bs.length - (64 - a % 64) := List.length_drop
      have hrest := ih (memSetN m a (bs.take (64 - a % 64))) (a + (64 - a % 64)) (bs.drop (64 - a % 64))
        (fun x hx hlt => hclean x (by omega) (by omega)) (by omega)
      simp only [writeSectors, if_neg hbs, hclean a (Nat.le_refl a) (by omega), hrest, Prod.mk.injEq, and_true]
      by_cases hlong : 64 - a % 64 ≤ bs.length
      · have htake : (bs.take (64 - a % 64)).length = 64 - a % 64 := List.length_take_of_le hlong
        have hsplit := memSetN_append m a (bs.take (64 - a % 64)) (bs.drop (64 - a % 64))
        rw [List.take_append_drop, htake] at hsplit
        exact hsplit.symm
      · rw [List.drop_of_length_le (by omega), List.take_of_length_le (by omega)]
        rfl

/-- A thread's write within one poisoned sector changes nothing (R150). -/
theorem writeSectors_poisoned_thread {p : NMap Cause} {a : Nat} {c : Cause} (m : Memory) (k : Nat) (bs : List Byte)
    (hp : look p (a / 64) = some c) (hin : a % 64 + bs.length ≤ 64) : writeSectors false m p a bs k = (m, p) := by
  cases k with
  | zero => rfl
  | succ k =>
    have hrest : writeSectors false m p (a + (64 - a % 64)) [] k = (m, p) := by cases k <;> rfl
    have hdrop : bs.drop (64 - a % 64) = [] := List.drop_of_length_le (by omega)
    simp only [writeSectors, hp, hdrop, hrest, Bool.false_and, Bool.false_eq_true, if_false, ite_self]

/-- An engine's write of a whole sector cleans it (R150). -/
theorem writeSectors_poisoned_engine {p : NMap Cause} {a : Nat} {c : Cause} (m : Memory) {bs : List Byte}
    (hp : look p (a / 64) = some c) (ha : a % 64 = 0) (hlen : bs.length = 64) :
    writeSectors true m p a bs bs.length = (memSetN m a bs, del p (a / 64)) := by
  have hbs : bs ≠ [] := by rintro rfl; simp at hlen
  have hall : bs.take 64 = bs := List.take_of_length_le (by omega)
  have hnone : bs.drop 64 = [] := List.drop_of_length_le (by omega)
  rw [hlen]
  simp [writeSectors, hbs, ha, hp, hall, hnone, hlen]

/-! ## Scratchpad -/

theorem wgAt_modWg (s : State) (k j : Nat) (f : Workgroup → Workgroup) :
    wgAt (modWg s k f) j = if j = k then (wgAt s k).map f else wgAt s j := look_alter s.wgs k j f

@[simp] theorem wgAt_modWg_same (s : State) (k : Nat) (f : Workgroup → Workgroup) : wgAt (modWg s k f) k = (wgAt s k).map f :=
  look_alter_same s.wgs k f

theorem modWg_eq_put {s : State} {k : Nat} {w : Workgroup} (h : wgAt s k = some w) (f : Workgroup → Workgroup) :
    modWg s k f = { s with wgs := put s.wgs k (f w) } := by
  have hlook : look s.wgs k = some w := h
  rw [modWg, alter, hlook]

theorem modWg_self {s : State} {k : Nat} {w : Workgroup} (h : wgAt s k = some w) {f : Workgroup → Workgroup} (hf : f w = w) :
    modWg s k f = s := by
  rw [modWg_eq_put h, hf, put_look s.wgs k w h]

/-- A workgroup with bytes written in its scratchpad, where it bears no poison. -/
def withSpad (w : Workgroup) (a : Nat) (bs : List Byte) : Workgroup := { w with spad := memSetN w.spad a bs }

theorem writeLoc_spad_clean {s : State} {k : Nat} {w : Workgroup} (h : wgAt s k = some w) (hp : w.spadPoison = []) (engine : Bool) (a : Nat)
    (bs : List Byte) : writeLoc s engine (.spad k a) bs = { s with wgs := put s.wgs k (withSpad w a bs) } := by
  have hwrite := writeSectors_clean engine w.spad w.spadPoison a bs.length bs (by simp [hp]) (Nat.le_refl _)
  rw [writeLoc, modWg_eq_put h]
  simp only [hwrite, withSpad]

theorem wgAt_writeLoc_spad_clean {s : State} {k : Nat} {w : Workgroup} (h : wgAt s k = some w) (hp : w.spadPoison = []) (engine : Bool)
    (a : Nat) (bs : List Byte) : wgAt (writeLoc s engine (.spad k a) bs) k = some (withSpad w a bs) := by
  rw [writeLoc_spad_clean h hp]
  exact look_put_same s.wgs k _

theorem readLoc_spad {s : State} {k : Nat} {w : Workgroup} (h : wgAt s k = some w) (a n : Nat) :
    readLoc s (.spad k a) n = (memGetN w.spad a n, s) := by
  simp only [readLoc, h]

theorem writeLoc_spad_poisoned_thread {s : State} {k a : Nat} {w : Workgroup} {c : Cause} {bs : List Byte} (h : wgAt s k = some w)
    (hp : look w.spadPoison (a / 64) = some c) (hin : a % 64 + bs.length ≤ 64) : writeLoc s false (.spad k a) bs = s := by
  refine modWg_self h ?_
  rw [writeSectors_poisoned_thread w.spad bs.length bs hp hin]

theorem wgAt_writeLoc_spad_poisoned_engine {s : State} {k a : Nat} {w : Workgroup} {c : Cause} {bs : List Byte} (h : wgAt s k = some w)
    (hp : look w.spadPoison (a / 64) = some c) (ha : a % 64 = 0) (hlen : bs.length = 64) :
    wgAt (writeLoc s true (.spad k a) bs) k = some { w with spad := memSetN w.spad a bs, spadPoison := del w.spadPoison (a / 64) } := by
  rw [writeLoc, wgAt_modWg_same, h, Option.map_some, writeSectors_poisoned_engine w.spad hp ha hlen]

/-! ## Keys (R366, R374) -/

/-- Sectors are owned: only memory, its keys, what the home slices note of it, and the count of free values change. -/
def onlyOwns (s u : State) : Prop :=
  u = { s with mem := u.mem, memKey := u.memKey, sliceClean := u.sliceClean, sliceDirty := u.sliceDirty, freeCtr := u.freeCtr }

theorem onlyOwns_trans {s t u : State} (h : onlyOwns s t) (k : onlyOwns t u) : onlyOwns s u := by
  unfold onlyOwns at *
  rw [k, h]

theorem onlyOwns_homeOf {s u : State} (h : onlyOwns s u) (pa : Nat) : homeOf u pa = homeOf s pa := by
  unfold onlyOwns at h
  rw [h]
  rfl

theorem onlyOwns_keyNow {s u : State} (h : onlyOwns s u) (key : Nat) : keyNow u key = keyNow s key := by
  unfold onlyOwns at h
  rw [h]
  rfl

theorem onlyOwns_poison {s u : State} (h : onlyOwns s u) : u.poison = s.poison := by
  unfold onlyOwns at h
  rw [h]

/-- Free bytes are drawn: only the count of free values changes. -/
theorem drawBytes_state (s : State) (n : Nat) : ∃ k, (drawBytes s n).2 = { s with freeCtr := k } := by
  induction n generalizing s with
  | zero => exact ⟨s.freeCtr, rfl⟩
  | succ n ih => exact ih (drawByte s).2

theorem keySector_unkeyed {s : State} {pa : Nat} (key : Nat) (h : isKeyed (homeOf s pa) = false) : keySector s pa key = s := by
  simp [keySector, h]

/-- What a write under a key does to a keyed sector: it is under that key, with free bytes where another key wrote it. -/
theorem keySector_keyed {s : State} {pa : Nat} (key : Nat) (h : isKeyed (homeOf s pa) = true) :
    ∃ m n, (m = s.mem ∨ ∃ bs, m = memSetN s.mem (64 * (pa / 64)) bs)
      ∧ keySector s pa key = { s with mem := m, freeCtr := n, memKey := put s.memKey (pa / 64) (keyNow s key) } := by
  obtain ⟨n, hn⟩ := drawBytes_state s 64
  rw [keySector, if_pos h]
  split
  · exact ⟨_, n, .inr ⟨(drawBytes s 64).1, rfl⟩, by simp only [hn]; rfl⟩
  · exact ⟨_, _, .inl rfl, rfl⟩

theorem memKey_keySector {s : State} {pa : Nat} (key : Nat) (h : isKeyed (homeOf s pa) = true) :
    (keySector s pa key).memKey = put s.memKey (pa / 64) (keyNow s key) := by
  obtain ⟨m, n, -, heq⟩ := keySector_keyed key h
  rw [heq]

theorem onlyOwns_keySector (s : State) (pa key : Nat) : onlyOwns s (keySector s pa key) := by
  cases h : isKeyed (homeOf s pa) with
  | false => rw [keySector_unkeyed key h]; rfl
  | true =>
    obtain ⟨m, n, -, heq⟩ := keySector_keyed key h
    rw [heq]
    rfl

theorem memWf_keySector {s : State} (pa key : Nat) (hwf : memWf s.mem = true) : memWf (keySector s pa key).mem = true := by
  cases h : isKeyed (homeOf s pa) with
  | false => rwa [keySector_unkeyed key h]
  | true =>
    obtain ⟨m, n, rfl | ⟨bs, rfl⟩, heq⟩ := keySector_keyed key h
    · rwa [heq]
    · rw [heq]
      exact memWf_memSetN bs s.mem _ hwf

/-- What `ownSectors` does to one sector. -/
def ownSector (key : Nat) (s : State) (sec : Nat) : State :=
  let s := keySector s (64 * sec) key
  if isPkgMem (homeOf s (64 * sec)) then { s with sliceClean := del s.sliceClean sec, sliceDirty := put s.sliceDirty sec () } else s

theorem ownSectors_eq_foldl (s : State) (secs : List Nat) (key : Nat) : ownSectors s secs key = secs.foldl (ownSector key) s := rfl

theorem mem_ownSector (key : Nat) (s : State) (sec : Nat) : (ownSector key s sec).mem = (keySector s (64 * sec) key).mem := by
  unfold ownSector
  simp only
  split <;> rfl

theorem memKey_ownSector (key : Nat) (s : State) (sec : Nat) : (ownSector key s sec).memKey = (keySector s (64 * sec) key).memKey := by
  unfold ownSector
  simp only
  split <;> rfl

theorem onlyOwns_ownSector (key : Nat) (s : State) (sec : Nat) : onlyOwns s (ownSector key s sec) := by
  refine onlyOwns_trans (onlyOwns_keySector s (64 * sec) key) ?_
  unfold ownSector
  simp only
  split <;> rfl

theorem onlyOwns_ownSectors (s : State) (secs : List Nat) (key : Nat) : onlyOwns s (ownSectors s secs key) := by
  rw [ownSectors_eq_foldl]
  exact foldl_rel (R := onlyOwns) (fun _ => rfl) onlyOwns_trans (fun s sec => onlyOwns_ownSector key s sec) secs s

theorem memWf_ownSectors {s : State} (secs : List Nat) (key : Nat) (h : memWf s.mem = true) : memWf (ownSectors s secs key).mem = true := by
  rw [ownSectors_eq_foldl]
  exact foldl_keeps (P := fun t : State => memWf t.mem = true)
    (fun t sec ht => by rw [mem_ownSector]; exact memWf_keySector (64 * sec) key ht) secs s h

/-- Memory that bears no key keeps its bytes when its sectors are owned. -/
theorem mem_ownSectors_unkeyed {s : State} {secs : List Nat} (key : Nat) (h : ∀ sec ∈ secs, isKeyed (homeOf s (64 * sec)) = false) :
    (ownSectors s secs key).mem = s.mem := by
  rw [ownSectors_eq_foldl]
  refine (List.foldlRecOn (motive := fun t => onlyOwns s t ∧ t.mem = s.mem) secs (ownSector key) ⟨show onlyOwns s s from rfl, rfl⟩ ?_).2
  rintro t ⟨hown, hmem⟩ sec hsec
  have hunkeyed : isKeyed (homeOf t (64 * sec)) = false := by rw [onlyOwns_homeOf hown]; exact h sec hsec
  refine ⟨onlyOwns_trans hown (onlyOwns_ownSector key t sec), ?_⟩
  rw [mem_ownSector, keySector_unkeyed key hunkeyed, hmem]

/-! ## Sectors under a key -/

theorem wrongKey_of_unkeyed {s : State} {pa : Nat} (key : Nat) (h : isKeyed (homeOf s pa) = false) : wrongKey s pa key = false := by
  simp [wrongKey, h]

theorem wrongKey_of_written {s : State} {pa key : Nat} (h : look s.memKey (pa / 64) = some (keyNow s key)) : wrongKey s pa key = false := by
  simp [wrongKey, h]

theorem wrongKey_congr {s u : State} {pa : Nat} (key : Nat) (h : onlyOwns s u) (hk : look u.memKey (pa / 64) = look s.memKey (pa / 64)) :
    wrongKey u pa key = wrongKey s pa key := by
  rw [wrongKey, wrongKey, onlyOwns_homeOf h, onlyOwns_keyNow h, hk]

/-- A sector that is owned is under the owner's key. -/
theorem wrongKey_ownSector_same (key : Nat) (s : State) (sec : Nat) : wrongKey (ownSector key s sec) (64 * sec) key = false := by
  have hown := onlyOwns_ownSector key s sec
  cases hkeyed : isKeyed (homeOf s (64 * sec)) with
  | false => exact wrongKey_of_unkeyed key (by rw [onlyOwns_homeOf hown]; exact hkeyed)
  | true =>
    refine wrongKey_of_written ?_
    rw [memKey_ownSector, memKey_keySector key hkeyed, look_put_same, onlyOwns_keyNow hown]

/-- The key of every other sector stays. -/
theorem wrongKey_ownSector_other {sec sec' : Nat} (key : Nat) (s : State) (h : sec' ≠ sec) :
    wrongKey (ownSector key s sec) (64 * sec') key = wrongKey s (64 * sec') key := by
  refine wrongKey_congr key (onlyOwns_ownSector key s sec) ?_
  rw [memKey_ownSector]
  cases hkeyed : isKeyed (homeOf s (64 * sec)) with
  | false => rw [keySector_unkeyed key hkeyed]
  | true => rw [memKey_keySector key hkeyed, look_put_other _ _ (by omega)]

theorem wrongKey_ownSectors {s : State} {secs : List Nat} {sec : Nat} (key : Nat) (h : sec ∈ secs) :
    wrongKey (ownSectors s secs key) (64 * sec) key = false := by
  rw [ownSectors_eq_foldl]
  refine foldl_reaches (P := fun t => wrongKey t (64 * sec) key = false) (Q := fun _ => True) h
    (fun t _ => wrongKey_ownSector_same key t sec) (fun t b ht => ?_) (fun _ _ _ => trivial) s trivial
  by_cases hb : sec = b
  · rw [hb]; exact wrongKey_ownSector_same key t b
  · rw [wrongKey_ownSector_other key t hb, ht]

/-! ## Memory -/

section
variable {s : State} {pa : Nat} {bs : List Byte} (engine : Bool) (mode : CMode) (key part : Nat)

theorem changedSectors_clean (h : s.poison = []) (n : Nat) : changedSectors s engine pa n = sectorsOf pa n := by
  refine List.filter_eq_self.mpr fun sec _ => ?_
  rw [h]
  rfl

/-- Bytes written where nothing is poisoned: their sectors come under the writer's key, and the bytes are in memory. -/
theorem writeLoc_phys_clean (h : s.poison = []) :
    writeLoc s engine (.phys pa mode key part) bs =
      { ownSectors s (sectorsOf pa bs.length) key with mem := memSetN (ownSectors s (sectorsOf pa bs.length) key).mem pa bs, poison := [] } := by
  have hpoison := onlyOwns_poison (onlyOwns_ownSectors s (sectorsOf pa bs.length) key)
  rw [h] at hpoison
  have hwrite := writeSectors_clean engine (ownSectors s (sectorsOf pa bs.length) key).mem [] pa bs.length bs (fun _ _ _ => rfl) (Nat.le_refl _)
  simp only [writeLoc, changedSectors_clean engine h, hpoison, hwrite]

theorem readLoc_phys_of_key {n : Nat} (h : ∀ sec ∈ sectorsOf pa n, wrongKey s (64 * sec) key = false) :
    readLoc s (.phys pa mode key part) n = (memGetN s.mem pa n, s) := by
  have hnone : ((sectorsOf pa n).any fun sec => wrongKey s (64 * sec) key) = false := by
    simpa [List.any_eq_false] using h
  simp [readLoc, hnone]

/-- What is written in memory where nothing is poisoned is what is read there under the same key. -/
theorem readLoc_writeLoc_phys (hwf : memWf s.mem = true) (h : s.poison = []) :
    (readLoc (writeLoc s engine (.phys pa mode key part) bs) (.phys pa mode key part) bs.length).1 = bs := by
  rw [writeLoc_phys_clean engine mode key part h, readLoc_phys_of_key]
  · exact memGetN_memSetN bs pa (memWf_ownSectors _ key hwf)
  · exact fun sec hsec => wrongKey_ownSectors (s := s) key hsec

theorem sectorsOf_within {sec n : Nat} (h : sec ∈ sectorsOf pa n) : pa / 64 ≤ sec ∧ sec ≤ (pa + n) / 64 := by
  simp only [sectorsOf, List.mem_range'_1] at h
  omega

end

/-! ## Barrier objects (R195) -/

/-- The bytes of an object are one after another at its address, and so are its fields. -/
theorem memGetN_objBytes {m : Memory} {a : Nat} {o : BarObj} (h : memGetN m a 16 = objBytes o) :
    memGetN m a 4 = leBytes 4 (if o.phase then 1 else 0) ∧ memGetN m (a + 4) 2 = leBytes 2 o.tcount ∧ memGetN m (a + 6) 2 = leBytes 2 o.acount
      ∧ memGetN m (a + 8) 4 = leBytes 4 o.tbytes ∧ memGetN m (a + 12) 4 = leBytes 4 o.abytes := by
  simp only [objBytes, List.append_assoc] at h
  obtain ⟨hphase, h⟩ := memGetN_split (k := 12) (length_leBytes 4 _) h
  obtain ⟨htcount, h⟩ := memGetN_split (k := 10) (length_leBytes 2 _) h
  obtain ⟨hacount, h⟩ := memGetN_split (k := 8) (length_leBytes 2 _) h
  obtain ⟨htbytes, habytes⟩ := memGetN_split (k := 4) (length_leBytes 4 _) h
  simp only [Nat.add_assoc, Nat.reduceAdd] at htcount hacount htbytes habytes
  exact ⟨hphase, htcount, hacount, htbytes, habytes⟩

/-- A workgroup whose scratchpad holds an object's bytes has that object there. -/
theorem objAt_of_bytes {w : Workgroup} {a : Nat} {o : BarObj} (h : memGetN w.spad a 16 = objBytes o) (htcount : o.tcount < 2 ^ 16)
    (hacount : o.acount < 2 ^ 16) (htbytes : o.tbytes < 2 ^ 32) (habytes : o.abytes < 2 ^ 32) : objAt w a = o := by
  obtain ⟨hphase, h4, h6, h8, h12⟩ := memGetN_objBytes h
  have hbit : phaseBit w a = o.phase := by
    have hbyte : memGet w.spad a = BitVec.ofNat 8 (if o.phase then 1 else 0) := (List.cons.inj hphase).1
    rw [phaseBit, hbyte]
    cases o.phase <;> rfl
  rw [objAt, hbit, h4, h6, h8, h12, leNat_leBytes_of_lt htcount, leNat_leBytes_of_lt hacount, leNat_leBytes_of_lt htbytes,
    leNat_leBytes_of_lt habytes]

/-- An object as it is written has no reserved bit set, so it is not refused where its sector bears no poison. -/
theorem objectRefused_of_bytes {w : Workgroup} {a : Nat} {o : BarObj} (h : memGetN w.spad a 16 = objBytes o) (hp : w.spadPoison = []) :
    objectRefused w a = none := by
  have hpoison : poisonIn w.spadPoison a 16 = none := by simp [poisonIn, hp]
  have hphase : leNat (memGetN w.spad a 4) / 2 = 0 := by
    rw [(memGetN_objBytes h).1, leNat_leBytes]
    cases o.phase <;> rfl
  rw [objectRefused, hpoison]
  simp only [hphase, if_true]

/-- Settles O60: a write where nothing is poisoned is a run of bytes in canonical memory, whose sectors are under the writer's key. -/
theorem memoryReadsBack : Obligations.MemoryReadsBack := by
  intro s bs engine
  refine ⟨fun k a w hw hwf => ⟨fun hp => ?_, fun c hc hin hbs => ⟨?_, ?_⟩⟩, fun pa mode key part hwf hp => ?_,
    fun k a w o hw hp hwf htcount hacount htbytes habytes => ?_⟩
  · refine ⟨withSpad w a bs, writeLoc_spad_clean hw hp engine a bs, memWf_memSetN bs _ a hwf, hp, ?_,
      fun x hx => memGet_memSetN_outside bs hwf hx⟩
    rw [readLoc_spad (wgAt_writeLoc_spad_clean hw hp engine a bs)]
    exact memGetN_memSetN bs a hwf
  · rintro rfl
    exact writeLoc_spad_poisoned_thread hw hc hin
  · rintro rfl hlen
    refine ⟨_, wgAt_writeLoc_spad_poisoned_engine hw hc (by omega) hlen, rfl, ?_⟩
    rw [← hlen]
    exact memGetN_memSetN bs a hwf
  · have hread := readLoc_writeLoc_phys (bs := bs) (pa := pa) engine mode key part hwf hp
    have howned := memWf_ownSectors (sectorsOf pa bs.length) key hwf
    rw [writeLoc_phys_clean engine mode key part hp] at hread ⊢
    refine ⟨memWf_memSetN bs _ pa howned, rfl, memGetN_memSetN bs pa howned, hread, fun hunkeyed x hx => ?_⟩
    have hmem : (ownSectors s (sectorsOf pa bs.length) key).mem = s.mem := by
      refine mem_ownSectors_unkeyed key fun sec hsec => ?_
      have hwithin := sectorsOf_within hsec
      exact hunkeyed (64 * sec) (by omega) (by omega)
    simp only [hmem]
    exact memGet_memSetN_outside bs hwf hx
  · have hlen : (objBytes o).length = 16 := by simp [objBytes]
    have hbytes : memGetN (withSpad w a (objBytes o)).spad a 16 = objBytes o := by
      rw [← hlen]
      exact memGetN_memSetN (objBytes o) a hwf
    refine ⟨withSpad w a (objBytes o), wgAt_writeLoc_spad_clean hw hp false a (objBytes o),
      objAt_of_bytes hbytes htcount hacount htbytes habytes, objectRefused_of_bytes hbytes hp, fun x hx => ?_⟩
    exact memGet_memSetN_outside (objBytes o) hwf (by rw [hlen]; exact hx)

end Sys2Proof.Machine
end

section
/-! PROOFS. The module's own steps: reset, power, boot, attestation, the management port and errors (R8, R150, R249, R287, R376 to R384). -/

namespace Sys2Proof.Machine

/-! ## Lists and tables that a step changes at one place -/

theorem getElem?_modAt_same {α : Type} (l : List α) (k : Nat) (f : α → α) : (modAt l k f)[k]? = (l[k]?).map f := by
  unfold modAt
  cases h : l[k]? with
  | none => exact h
  | some x => simp [(List.getElem?_eq_some_iff.mp h).1]

theorem getElem?_modAt_other {α : Type} (l : List α) {k j : Nat} (f : α → α) (h : j ≠ k) : (modAt l k f)[j]? = l[j]? := by
  unfold modAt
  split
  · exact List.getElem?_set_ne (Ne.symm h)
  · rfl

@[simp] theorem length_modAt {α : Type} (l : List α) (k : Nat) (f : α → α) : (modAt l k f).length = l.length := by
  unfold modAt
  split
  · exact List.length_set
  · rfl

theorem partAt_modPart_same {s : State} {p : Nat} (f : Partition → Partition) (h : p < s.parts.length) :
    partAt (modPart s p f) p = f (partAt s p) := by
  have hp : s.parts[p]? = some s.parts[p] := List.getElem?_eq_getElem h
  simp [partAt, getElem?_modAt_same, hp]

theorem partAt_modPart_other (s : State) {p q : Nat} (f : Partition → Partition) (h : q ≠ p) : partAt (modPart s p f) q = partAt s q := by
  simp [partAt, getElem?_modAt_other _ _ h]

@[simp] theorem coreAt_setCore_same (s : State) (c : Nat) (x : Core) : coreAt (setCore s c x) c = x := by
  simp [coreAt, lookD]

theorem coreAt_setCore_other (s : State) {c d : Nat} (x : Core) (h : d ≠ c) : coreAt (setCore s c x) d = coreAt s d := by
  simp [coreAt, lookD, look_put_other _ _ h]

/-! ## Reset and power (R8, R376, R383) -/

/-- What a reset of the module leaves of its registers and of what runs on it; switch memory stays as it was. -/
def isBlank (s u : State) : Prop :=
  u.parts = State.reset.parts ∧ u.queues = [] ∧ u.ccpart = State.reset.ccpart ∧ u.keystat = 0 ∧ u.pinmap = [] ∧ u.coreoff = []
    ∧ u.threads = [] ∧ u.wgs = [] ∧ u.groups = [] ∧ u.cores = [] ∧ u.launches = [] ∧ u.switches = s.switches

theorem isBlank_resetModule (s : State) (p : Power) : isBlank s (resetModule s p) :=
  ⟨rfl, rfl, rfl, rfl, rfl, rfl, rfl, rfl, rfl, rfl, rfl, rfl⟩

theorem exec_moduleReset_on {s : State} (h : s.power = .on) :
    exec .moduleReset s = .next { resetModule s .on with cxlsz := s.cxlsz } := by
  change execModuleReset s = _
  simp [execModuleReset, h]

theorem exec_powerOff (s : State) : exec .powerOff s = .next (resetModule s .off) := rfl

theorem exec_powerOn_off {s : State} (image sig : List Byte) (cxl : List Nat) (h : s.power = .off) :
    exec (.powerOn image sig cxl) s = .next (resetModule s .booting) := by
  change execPowerOn image sig cxl s = _
  simp [execPowerOn, startBoot, h]

theorem exec_powerOn_halted {s : State} (image sig : List Byte) (cxl : List Nat) (h : s.power = .booting) (hh : s.bootHalted = true) :
    exec (.powerOn image sig cxl) s = .next s := by
  change execPowerOn image sig cxl s = _
  simp [execPowerOn, h, hh]

theorem exec_powerOn_booting {s : State} (image sig : List Byte) (cxl : List Nat) (h : s.power = .booting) (hh : s.bootHalted = false) :
    exec (.powerOn image sig cxl) s = .next (bootNext s image sig cxl) := by
  change execPowerOn image sig cxl s = _
  simp [execPowerOn, h, hh]

/-! ## Measurements and the boot (R376, R377, R384) -/

theorem measure_extendAt_same (s : State) (k : Nat) (data : List Byte) :
    (extendAt s k data).measure[k]? = (s.measure[k]?).map fun m => extendMeasure m data := getElem?_modAt_same s.measure k _

theorem measure_extendAt_other (s : State) {k j : Nat} (data : List Byte) (h : j ≠ k) :
    (extendAt s k data).measure[j]? = s.measure[j]? := getElem?_modAt_other s.measure _ h

section
variable {s : State} {image sig : List Byte} (cxl : List Nat)

/-- A stage whose image is refused: it is measured, and the boot halts and is reported (R376). -/
theorem bootNext_refused (h : Config.bootVerifies s.bootStage (bootImage s image) sig = false) :
    bootNext s image sig cxl =
      report { extendAt s s.bootStage (bootImage s image) with bootHalted := true } (.event portBootFailed) := by
  have hsame : (extendAt s s.bootStage (bootImage s image)).bootStage = s.bootStage := rfl
  simp [bootNext, hsame, h]

/-- A stage whose image is verified: it is measured and takes effect, the boot goes on, and after the last stage the module is ON (R376, R384). -/
theorem bootNext_verified (h : Config.bootVerifies s.bootStage (bootImage s image) sig = true) :
    bootNext s image sig cxl =
      { extendAt s s.bootStage (bootImage s image) with
        bootStage := s.bootStage + 1
        firmware := put s.firmware s.bootStage (bootImage s image)
        stagedFw := if s.stagedFw = some (bootImage s image) then none else s.stagedFw
        power := if s.bootStage + 1 < bootStages then s.power else .on
        cxlsz := if s.bootStage + 1 < bootStages then s.cxlsz else (List.range 4).map fun k => cxlSize ((cxl[k]?).getD 0) } := by
  have hsame : (extendAt s s.bootStage (bootImage s image)).bootStage = s.bootStage := rfl
  simp only [bootNext, hsame, h, Bool.not_true, Bool.false_eq_true, if_false]
  split <;> rfl

/-- Either way the stage's register alone is extended with the stage's image (R377). -/
theorem measure_bootNext : (bootNext s image sig cxl).measure = (extendAt s s.bootStage (bootImage s image)).measure := by
  cases h : Config.bootVerifies s.bootStage (bootImage s image) sig with
  | false => rw [bootNext_refused cxl h]; rfl
  | true => rw [bootNext_verified cxl h]

theorem measure_bootNext_same :
    (bootNext s image sig cxl).measure[s.bootStage]? = (s.measure[s.bootStage]?).map fun m => extendMeasure m (bootImage s image) := by
  rw [measure_bootNext cxl, measure_extendAt_same]

theorem measure_bootNext_other {j : Nat} (h : j ≠ s.bootStage) : (bootNext s image sig cxl).measure[j]? = s.measure[j]? := by
  rw [measure_bootNext cxl, measure_extendAt_other s _ h]

end

/-- What becomes of a boot at one stage (R376). -/
theorem bootNext_outcome {s : State} (image sig : List Byte) (cxl : List Nat) (hb : s.power = .booting) (hh : s.bootHalted = false)
    (hstage : s.bootStage < 6) :
    let u := bootNext s image sig cxl
    if Config.bootVerifies s.bootStage (bootImage s image) sig
      then look u.firmware s.bootStage = some (bootImage s image) ∧ u.bootHalted = false ∧ u.bootStage = s.bootStage + 1
        ∧ u.power = (if s.bootStage = 5 then .on else .booting) ∧ u.portOut = s.portOut
      else u.bootHalted = true ∧ u.power = .booting ∧ u.portOut = s.portOut ++ [.event 1] := by
  cases h : Config.bootVerifies s.bootStage (bootImage s image) sig with
  | false =>
    rw [bootNext_refused cxl h]
    exact ⟨rfl, hb, rfl⟩
  | true =>
    rw [bootNext_verified cxl h]
    refine ⟨look_put_same _ _ _, hh, rfl, ?_, rfl⟩
    by_cases hlast : s.bootStage = 5
    · simp [hlast, bootStages]
    · have hmore : s.bootStage + 1 < 6 := by omega
      simp [hlast, bootStages, hmore, hb]

/-! ## Attestation and the management port (R378, R384) -/

theorem exec_spdmRequest_lost {s : State} {peer : Option Nat} (req : Spdm) (h : spdmReaches s peer = false) :
    exec (.spdmRequest ⟨peer, req⟩) s = .next s := by
  change execSpdmRequest ⟨peer, req⟩ s = _
  simp [execSpdmRequest, h]

/-- The signature of an answer, which is there where the answer is signed (R378). -/
def spdmSignature (s : State) (req : Spdm) : List Byte :=
  if isSigned req then (List.range signatureSize).map (Config.signature (spdmCode req) s.measure) else []

theorem length_spdmSignature (s : State) (req : Spdm) : (spdmSignature s req).length = if isSigned req then 29792 else 0 := by
  unfold spdmSignature
  split
  · rw [List.length_map, List.length_range, signatureSize]
  · rfl

theorem exec_spdmRequest_answered {s : State} {peer : Option Nat} (req : Spdm) (hon : s.power = .on) (h : spdmReaches s peer = true) :
    exec (.spdmRequest ⟨peer, req⟩) s = .next { s with
      portOut := s.portOut ++ [.spdm peer req (if req = .measurements then s.measure else [])
        (if req = .algorithms then [.slhDsaShake256s, .shake256] else []) (Config.attest (spdmCode req) s.measure) (spdmSignature s req)] } := by
  change execSpdmRequest ⟨peer, req⟩ s = _
  simp [execSpdmRequest, hon, h, report, spdmSignature]

theorem exec_debugUnlock_verified {s : State} (token : List Byte) (hon : s.power = .on) :
    exec (.debugUnlock true token) s = .next { extendAt s 15 token with debugUnlocked := true } := by
  change execDebugUnlock true token s = _
  simp [execDebugUnlock, hon]

/-! ## Errors (R379 to R381) -/

theorem lookD_put_same {α : Type} (m : NMap α) (i : Nat) (x d : α) : lookD (put m i x) i d = x := by
  rw [lookD, look_put_same, Option.getD_some]

theorem lookD_put_other {α : Type} (m : NMap α) {i j : Nat} (x d : α) (h : j ≠ i) : lookD (put m i x) j d = lookD m j d := by
  rw [lookD, look_put_other m x h, lookD]

/-- One uncorrectable error more of a structure (R381). -/
def isCounted (s u : State) (k : Nat) : Prop :=
  lookD u.eccUncorrected k 0 = lookD s.eccUncorrected k 0 + 1 ∧ u.eccCorrected = s.eccCorrected

/-- An error that strikes without touching the counts is counted once. -/
theorem isCounted_countUncorrected {s u : State} (k : Nat) (hu : u.eccUncorrected = s.eccUncorrected) (hc : u.eccCorrected = s.eccCorrected) :
    isCounted s (countUncorrected u k) k := by
  refine ⟨?_, hc⟩
  rw [← hu]
  exact lookD_put_same u.eccUncorrected k _ 0

/-- A sector is poisoned: it is listed with its cause, and the bytes of other sectors stay (R150). -/
theorem poisonSector_does (m : Memory) (p : NMap Cause) (sec : Nat) (c : Cause) :
    ∃ m', poisonSector m p sec c = (m', put p sec c) ∧ (memWf m = true → ∀ a, a / 64 ≠ sec → memGet m' a = memGet m a) := by
  refine ⟨memSetN m (64 * sec) (causeCode c :: List.replicate 63 0#8), by rw [poisonSector], fun hwf a ha => ?_⟩
  rw [memGet_memSetN_outside _ hwf]
  rw [List.length_cons, List.length_replicate]
  omega

/-- An uncorrectable error in a sector of the package's memory (R150). -/
theorem exec_eccError_memory {s : State} {sec : Nat} (h : isPkgMem (homeOf s (64 * sec)) = true) :
    ∃ m, exec (.eccError (.memory sec)) s = .next (countUncorrected { s with mem := m, poison := put s.poison sec .ecc } 2)
      ∧ (memWf s.mem = true → ∀ a, a / 64 ≠ sec → memGet m a = memGet s.mem a) := by
  obtain ⟨m, hm, hbytes⟩ := poisonSector_does s.mem s.poison sec .ecc
  have hreach : hubReaches s (.phys (64 * sec) .uncached 0 0) = true := by
    unfold hubReaches locHome
    split
    · next hpinned => simp [hpinned, isPkgMem] at h
    · exact h
  refine ⟨m, ?_, hbytes⟩
  change execEccError (.memory sec) s = _
  simp only [execEccError, siteStructure, strike, hreach, if_true, hm]

/-- An uncorrectable error in a slice's copy of a sector (R287). -/
theorem exec_eccError_slice {s : State} {sec : Nat} (h : isPkgMem (homeOf s (64 * sec)) = true) :
    ∃ m clean, exec (.eccError (.slice sec)) s =
      .next (countUncorrected { s with mem := m, poison := put s.poison sec .ecc, sliceClean := clean } 1) := by
  obtain ⟨m, hm, -⟩ := poisonSector_does s.mem s.poison sec .ecc
  refine ⟨m, if (look s.sliceDirty sec).isSome || (look s.poison sec).isSome then s.sliceClean
    else put s.sliceClean sec (memGetN s.mem (64 * sec) 64), ?_⟩
  change execEccError (.slice sec) s = _
  simp only [execEccError, siteStructure, strike, h, if_true, strikeSlice, hm]

/-- The tile of a workgroup after a write of it. -/
theorem wgAt_setTile {s : State} {k : Nat} {w : Workgroup} (h : wgAt s k = some w) (tile : Nat) (t : Tile) :
    wgAt (setTile s k tile t) k = some { w with tiles := w.tiles.set tile t } := by
  rw [setTile, wgAt_modWg_same, h, Option.map_some]

theorem tileOf_set {w : Workgroup} {tile : Nat} (t : Tile) (h : tile < w.tiles.length) :
    tileOf { w with tiles := w.tiles.set tile t } tile = t := by
  simp [tileOf, h]

/-- An error in a register strikes it, until the word that first reads it (R379). -/
theorem exec_eccError_reg (s : State) (t r : Nat) :
    exec (.eccError (.reg t r)) s = .next (countUncorrected (modTh s t fun th => setReg th r RegVal.hit) 0) := rfl

/-- An error in a tile's row that is neither struck nor poisoned yet strikes it, until its first use (R379). -/
theorem exec_eccError_tileRow {s : State} {k tile row : Nat} {w : Workgroup} (hw : wgAt s k = some w) (ht : tile < w.tiles.length) (hr : row < 128)
    (hs : row ∉ (tileOf w tile).struck) (hp : rowTok (tileOf w tile) row = none) :
    exec (.eccError (.tileRow k tile row)) s =
      .next (countUncorrected (setTile s k tile { tileOf w tile with struck := (tileOf w tile).struck ++ [row] }) 1) := by
  change execEccError (.tileRow k tile row) s = _
  simp [execEccError, siteStructure, strike, poisonTileRow, hw, Nat.not_le.mpr ht, Nat.not_le.mpr hr, hs, hp]

/-- An error in the matrix array flips bits of one element (R249). -/
theorem exec_eccError_array {s : State} {k tile row col : Nat} {w : Workgroup} (bits : Word) (hw : wgAt s k = some w) (ht : tile < w.tiles.length)
    (hr : row < 128) (hc : col < 128) :
    exec (.eccError (.array k tile row col bits)) s =
      .next (setTile s k tile (tileSet (tileOf w tile) row col (tileGet (tileOf w tile) row col ^^^ bits))) := by
  change execEccError (.array k tile row col bits) s = _
  simp [execEccError, strike, hw, Nat.not_le.mpr ht, Nat.not_le.mpr hr, Nat.not_le.mpr hc]

theorem tileGet_tileSet_same {t : Tile} (i j : Nat) (x : Word) (h : rising t.elems = true) : tileGet (tileSet t i j x) i j = x := by
  unfold tileGet tileSet
  simp only
  split
  · next hx => rw [lookD, look_del_same _ h, hx]; rfl
  · exact lookD_put_same _ _ _ _

theorem tileGet_tileSet_other {t : Tile} {i j i' j' : Nat} (x : Word) (h : rising t.elems = true) (hj : j < 128) (hj' : j' < 128)
    (hne : ¬(i' = i ∧ j' = j)) : tileGet (tileSet t i j x) i' j' = tileGet t i' j' := by
  have hkey : 128 * i' + j' ≠ 128 * i + j := by omega
  unfold tileGet tileSet
  simp only
  split
  · rw [lookD, look_del_other h hkey, lookD]
  · exact lookD_put_other _ _ _ hkey

theorem tileGet_tileSet_xor {t : Tile} {row col i j : Nat} (bits : Word) (h : rising t.elems = true) (hc : col < 128) (hj : j < 128) :
    tileGet (tileSet t row col (tileGet t row col ^^^ bits)) i j = tileGet t i j ^^^ (if i = row ∧ j = col then bits else 0) := by
  by_cases hhere : i = row ∧ j = col
  · rw [if_pos hhere, hhere.1, hhere.2, tileGet_tileSet_same row col _ h]
  · rw [if_neg hhere, tileGet_tileSet_other _ h hc hj hhere]
    exact BitVec.xor_zero.symm

/-! ### What an error leaves -/

section
variable {s : State}

theorem eccError_memory_leaves {sec : Nat} (h : isPkgMem (homeOf s (64 * sec)) = true) :
    ∃ u, exec (.eccError (.memory sec)) s = .next u ∧ look u.poison sec = some .ecc ∧ isCounted s u 2 ∧ u.threads = s.threads
      ∧ (memWf s.mem = true → ∀ a, a / 64 ≠ sec → memGet u.mem a = memGet s.mem a) := by
  obtain ⟨m, hexec, hbytes⟩ := exec_eccError_memory h
  exact ⟨_, hexec, look_put_same s.poison sec .ecc, isCounted_countUncorrected 2 rfl rfl, rfl, hbytes⟩

theorem eccError_slice_leaves {sec : Nat} (h : isPkgMem (homeOf s (64 * sec)) = true) :
    ∃ u, exec (.eccError (.slice sec)) s = .next u ∧ look u.poison sec = some .ecc ∧ isCounted s u 1 ∧ u.threads = s.threads := by
  obtain ⟨m, clean, hexec⟩ := exec_eccError_slice h
  exact ⟨_, hexec, look_put_same s.poison sec .ecc, isCounted_countUncorrected 1 rfl rfl, rfl⟩

theorem eccError_reg_leaves {t : Nat} {th : Thread} (ht : thOf s t = some th) (r : Nat) :
    ∃ u, exec (.eccError (.reg t r)) s = .next u ∧ thOf u t = some (setReg th r RegVal.hit) ∧ isCounted s u 0 ∧ u.mem = s.mem := by
  have hstruck : thOf (modTh s t fun th => setReg th r RegVal.hit) t = some (setReg th r RegVal.hit) := by
    rw [thOf_modTh_same, ht, Option.map_some]
  exact ⟨_, exec_eccError_reg s t r, hstruck, isCounted_countUncorrected 0 rfl rfl, rfl⟩

section
variable {k tile row : Nat} {w : Workgroup} (hw : wgAt s k = some w) (ht : tile < w.tiles.length) (hr : row < 128)
include hw ht hr

theorem eccError_tileRow_leaves (hs : row ∉ (tileOf w tile).struck) (hp : rowTok (tileOf w tile) row = none) :
    ∃ u w', exec (.eccError (.tileRow k tile row)) s = .next u ∧ wgAt u k = some w' ∧ u.mem = s.mem ∧ u.threads = s.threads
      ∧ tileOf w' tile = { tileOf w tile with struck := (tileOf w tile).struck ++ [row] } :=
  ⟨_, _, exec_eccError_tileRow hw ht hr hs hp, wgAt_setTile hw tile _, rfl, rfl, tileOf_set _ ht⟩

theorem eccError_array_leaves {col : Nat} (bits : Word) (hc : col < 128) (hrise : rising (tileOf w tile).elems = true) :
    ∃ u w', exec (.eccError (.array k tile row col bits)) s = .next u ∧ wgAt u k = some w' ∧ u.mem = s.mem
      ∧ u.eccUncorrected = s.eccUncorrected ∧ u.eccCorrected = s.eccCorrected
      ∧ ∀ i j, i < 128 → j < 128 →
          tileGet (tileOf w' tile) i j = tileGet (tileOf w tile) i j ^^^ (if i = row ∧ j = col then bits else 0) := by
  refine ⟨_, _, exec_eccError_array bits hw ht hr hc, wgAt_setTile hw tile _, rfl, rfl, rfl, fun i j _ hj => ?_⟩
  rw [tileOf_set _ ht]
  exact tileGet_tileSet_xor bits hrise hc hj

end

end

end Sys2Proof.Machine
end

section
/-! PROOFS. A core offline (R380), and what the end of a launch, of a workgroup and of a core changes. -/

namespace Sys2Proof.Machine

/-! ## The end of threads (R131, R352) -/

/-- Threads end: only threads, workgroups and accesses change. -/
def onlyEnds (s u : State) : Prop := u = { s with threads := u.threads, wgs := u.wgs, ops := u.ops }

theorem onlyEnds_trans {s t u : State} (h : onlyEnds s t) (k : onlyEnds t u) : onlyEnds s u := by
  unfold onlyEnds at *
  rw [k, h]

theorem onlyEnds_launches {s u : State} (h : onlyEnds s u) : u.launches = s.launches := by
  unfold onlyEnds at h; rw [h]

theorem onlyEnds_cores {s u : State} (h : onlyEnds s u) : u.cores = s.cores := by
  unfold onlyEnds at h; rw [h]

theorem onlyEnds_parts {s u : State} (h : onlyEnds s u) : u.parts = s.parts := by
  unfold onlyEnds at h; rw [h]

theorem onlyEnds_eccUncorrected {s u : State} (h : onlyEnds s u) : u.eccUncorrected = s.eccUncorrected := by
  unfold onlyEnds at h; rw [h]

theorem onlyEnds_releaseSlices (s : State) (k : Nat) : onlyEnds s (releaseSlices s k) := by
  unfold releaseSlices
  split
  · rfl
  · refine foldl_rel (R := onlyEnds) (fun _ => rfl) onlyEnds_trans (fun t j => ?_) _ s
    split <;> rfl

theorem onlyEnds_killThread (s : State) (t : Nat) : onlyEnds s (killThread s t) :=
  onlyEnds_trans (t := modWg { dropSets s t with threads := del (dropSets s t).threads t } (wgOf t) _) rfl (onlyEnds_releaseSlices _ _)

/-! ## The core of a workgroup -/

/-- Workgroups are where they were, under the same keys. -/
def coresKept (s u : State) : Prop := ∀ k, (wgAt u k).map (·.core) = (wgAt s k).map (·.core)

theorem coresKept_trans {s t u : State} (h : coresKept s t) (k : coresKept t u) : coresKept s u := fun j => (k j).trans (h j)

theorem coresKept_of_wgs {s u : State} (h : u.wgs = s.wgs) : coresKept s u := fun k => by rw [wgAt, wgAt, h]

theorem coresKept_modWg (s : State) (k : Nat) {f : Workgroup → Workgroup} (hf : ∀ w, (f w).core = w.core) : coresKept s (modWg s k f) := by
  intro j
  rw [wgAt_modWg]
  split
  · next hj => rw [hj, Option.map_map]; exact congrArg (fun g => (wgAt s k).map g) (funext hf)
  · rfl

/-- A workgroup that is there afterwards was there before, on the same core. -/
theorem coresKept_some {s u : State} (h : coresKept s u) {k : Nat} {w : Workgroup} (hw : wgAt u k = some w) :
    ∃ v, wgAt s k = some v ∧ v.core = w.core := by
  have hk := h k
  rw [hw, Option.map_some] at hk
  exact Option.map_eq_some_iff.mp hk.symm

/-- A workgroup that was there is there afterwards, on the same core. -/
theorem coresKept_stays {s u : State} (h : coresKept s u) {k : Nat} {w : Workgroup} (hw : wgAt s k = some w) :
    ∃ v, wgAt u k = some v ∧ v.core = w.core := by
  have hk := h k
  rw [hw, Option.map_some] at hk
  exact Option.map_eq_some_iff.mp hk

theorem accrue_core (now : Nat) (w : Workgroup) : (accrue now w).core = w.core := by
  unfold accrue
  split <;> rfl

theorem coresKept_releaseSlices (s : State) (k : Nat) : coresKept s (releaseSlices s k) := by
  unfold releaseSlices
  split
  · exact fun _ => rfl
  · refine foldl_rel (R := coresKept) (fun _ _ => rfl) coresKept_trans (fun t j => ?_) _ s
    split
    · exact fun _ => rfl
    · exact coresKept_modWg t k fun w => accrue_core t.now w

theorem coresKept_killThread (s : State) (t : Nat) : coresKept s (killThread s t) := by
  unfold killThread endThread
  refine coresKept_trans ?_ (coresKept_releaseSlices _ _)
  exact coresKept_trans (t := { dropSets s t with threads := del (dropSets s t).threads t }) (fun _ => rfl)
    (coresKept_modWg _ _ fun _ => rfl)

/-! ## The abort of a launch (R352) -/

theorem sameOutside_cores {s u : State} (h : sameOutside s u) : u.cores = s.cores := by
  unfold sameOutside at h; rw [h]

theorem sameOutside_parts {s u : State} (h : sameOutside s u) : u.parts = s.parts := by
  unfold sameOutside at h; rw [h]

theorem sameOutside_eccUncorrected {s u : State} (h : sameOutside s u) : u.eccUncorrected = s.eccUncorrected := by
  unfold sameOutside at h; rw [h]

/-- What the abort of a launch does to one core's entry: its tasks and its reservation are gone. -/
def withoutLaunch (k : Nat) (c : Core) : Core :=
  { c with deque := c.deque.filter (fun t => t.launch ≠ k), reserved := if c.reserved = some k then none else c.reserved }

/-- What the abort of a launch does to one workgroup: the launch's own waits for no arrival and no registers. -/
def withoutWaits (k : Nat) (w : Workgroup) : Workgroup := if w.launch = k then { w with arrivals := [], wantRegs := none } else w

/-- The abort of a launch, part by part: the launch is marked, its threads end, and it leaves the workgroups, the cores and the saved tasks; the groups
are trimmed after that. -/
theorem abortLaunch_does (s : State) (k : Nat) :
    ∃ v ops,
      onlyEnds (modLaunch s k fun l => { l with status := .aborted, aborted := true }) v ∧ coresKept s v
        ∧ sameOutside
          { v with
            wgs := v.wgs.map fun p => (p.1, withoutWaits k p.2)
            cores := v.cores.map fun p => (p.1, withoutLaunch k p.2)
            ops := ops
            parts := v.parts.map fun p => { p with savedTasks := p.savedTasks.filter fun t => t.2.launch ≠ k } }
          (abortLaunch s k) := by
  have hwait : ∀ p : Nat × Workgroup,
      (if p.2.launch = k then (p.1, { p.2 with arrivals := [], wantRegs := none }) else p) = (p.1, withoutWaits k p.2) := by
    intro p
    unfold withoutWaits
    split <;> rfl
  unfold abortLaunch
  simp only [hwait]
  refine ⟨_, _, foldl_rel (R := onlyEnds) (fun _ => rfl) onlyEnds_trans onlyEnds_killThread _ _, ?_,
    sameOutside_foldl trimGroup sameOutside_trimGroup _ _⟩
  exact coresKept_trans (t := modLaunch s k _) (fun _ => rfl)
    (foldl_rel (R := coresKept) (fun _ _ => rfl) coresKept_trans coresKept_killThread _ _)

section
variable (s : State) (k : Nat)

theorem launches_abortLaunch : (abortLaunch s k).launches = alter s.launches k fun l => { l with status := .aborted, aborted := true } := by
  obtain ⟨v, ops, hends, -, hout⟩ := abortLaunch_does s k
  rw [sameOutside_launches hout]
  exact onlyEnds_launches hends

theorem coresKept_abortLaunch : coresKept s (abortLaunch s k) := by
  obtain ⟨v, ops, -, hcores, hout⟩ := abortLaunch_does s k
  refine coresKept_trans hcores fun j => ?_
  rw [sameOutside_wgAt hout]
  simp only [wgAt, look_map v.wgs fun _ => withoutWaits k, Option.map_map]
  refine congrArg (fun g => (look v.wgs j).map g) (funext fun w => ?_)
  simp only [Function.comp, withoutWaits]
  split <;> rfl

theorem carve_abortLaunch (c : Nat) : (coreAt (abortLaunch s k) c).carve = (coreAt s c).carve := by
  obtain ⟨v, ops, hends, -, hout⟩ := abortLaunch_does s k
  have hv : v.cores = s.cores := by rw [onlyEnds_cores hends, modLaunch_cores]
  rw [coreAt, sameOutside_cores hout, lookD, look_map v.cores fun _ => withoutLaunch k, hv, coreAt, lookD]
  cases look s.cores c <;> rfl

theorem parts_length_abortLaunch : (abortLaunch s k).parts.length = s.parts.length := by
  obtain ⟨v, ops, hends, -, hout⟩ := abortLaunch_does s k
  have hv : v.parts = s.parts := by rw [onlyEnds_parts hends, modLaunch_parts]
  rw [sameOutside_parts hout]
  simp only [List.length_map, hv]

theorem eccUncorrected_abortLaunch : (abortLaunch s k).eccUncorrected = s.eccUncorrected := by
  obtain ⟨v, ops, hends, -, hout⟩ := abortLaunch_does s k
  have hv : v.eccUncorrected = s.eccUncorrected := by rw [onlyEnds_eccUncorrected hends, modLaunch_eccUncorrected]
  rw [sameOutside_eccUncorrected hout]
  exact hv

end

/-! ## A launch lost with a core (R380) -/

/-- A launch that an error in control state has ended: aborted, with STICKY in its completion status (R166, R336, R380). -/
def isLost (l : Launch) : Prop := l.aborted = true ∧ l.status = .aborted ∧ l.sticky = true

/-- The launch of a key is lost. -/
def lostAt (s : State) (k : Nat) : Prop := ∃ l, look s.launches k = some l ∧ isLost l

theorem lostAt_congr {s u : State} {k : Nat} (h : u.launches = s.launches) (hl : lostAt s k) : lostAt u k := by
  rw [lostAt, h]
  exact hl

theorem lostAt_alter {s u : State} {j k : Nat} {f : Launch → Launch} (h : u.launches = alter s.launches j f) (hf : ∀ l, isLost l → isLost (f l))
    (hl : lostAt s k) : lostAt u k := by
  obtain ⟨l, hlook, hlost⟩ := hl
  rw [lostAt, h, look_alter]
  split
  · next hk => exact ⟨f l, by rw [← hk, hlook, Option.map_some], hf l hlost⟩
  · exact ⟨l, hlook, hlost⟩

/-- A launch aborted for work on a core that is in error: its completion status tells of an error without a token (R166, R380). -/
def loseLaunch (s : State) (k : Nat) : State := modLaunch (abortLaunch s k) k fun l => { l with sticky := true }

/-- A launch as it is lost. -/
def markLost (l : Launch) : Launch := { l with status := .aborted, aborted := true, sticky := true }

theorem launches_loseLaunch (s : State) (j k : Nat) :
    look (loseLaunch s j).launches k = if k = j then (look s.launches k).map markLost else look s.launches k := by
  rw [loseLaunch, modLaunch_launches, launches_abortLaunch]
  by_cases hk : k = j
  · rw [hk, look_alter_same, look_alter_same, if_pos rfl, Option.map_map]
    rfl
  · rw [look_alter_other _ _ hk, look_alter_other _ _ hk, if_neg hk]

theorem lostAt_loseLaunch_same {s : State} {k : Nat} (h : ∃ l, look s.launches k = some l) : lostAt (loseLaunch s k) k := by
  obtain ⟨l, hl⟩ := h
  exact ⟨markLost l, by rw [launches_loseLaunch, if_pos rfl, hl, Option.map_some], rfl, rfl, rfl⟩

theorem lostAt_loseLaunch {s : State} {k : Nat} (j : Nat) (h : lostAt s k) : lostAt (loseLaunch s j) k := by
  by_cases hk : k = j
  · obtain ⟨l, hl, -⟩ := h
    exact hk ▸ lostAt_loseLaunch_same ⟨l, hk ▸ hl⟩
  · rw [lostAt, launches_loseLaunch, if_neg hk]
    exact h

theorem look_loseLaunch {s : State} {k : Nat} (j : Nat) (h : ∃ l, look s.launches k = some l) :
    ∃ l, look (loseLaunch s j).launches k = some l := by
  by_cases hk : k = j
  · obtain ⟨l, hl, -⟩ := lostAt_loseLaunch_same (hk ▸ h)
    exact ⟨l, hk ▸ hl⟩
  · rw [launches_loseLaunch, if_neg hk]
    exact h

/-- What the abort of several launches leaves as it was. -/
structure launchesLost (s u : State) : Prop where
  cores : coresKept s u
  carve : ∀ c, (coreAt u c).carve = (coreAt s c).carve
  parts : u.parts.length = s.parts.length
  ecc : u.eccUncorrected = s.eccUncorrected

theorem launchesLost_trans {s t u : State} (h : launchesLost s t) (k : launchesLost t u) : launchesLost s u where
  cores := coresKept_trans h.cores k.cores
  carve c := (k.carve c).trans (h.carve c)
  parts := k.parts.trans h.parts
  ecc := k.ecc.trans h.ecc

theorem launchesLost_loseLaunch (s : State) (k : Nat) : launchesLost s (loseLaunch s k) where
  cores := coresKept_trans (coresKept_abortLaunch s k) fun _ => rfl
  carve := carve_abortLaunch s k
  parts := parts_length_abortLaunch s k
  ecc := eccUncorrected_abortLaunch s k

theorem launchesLost_foldl (ls : List Nat) (s : State) : launchesLost s (ls.foldl loseLaunch s) :=
  foldl_rel (R := launchesLost) (fun _ => ⟨fun _ => rfl, fun _ => rfl, rfl, rfl⟩) launchesLost_trans launchesLost_loseLaunch ls s

theorem lostAt_foldl {s : State} {ls : List Nat} {k : Nat} (hk : k ∈ ls) (h : ∃ l, look s.launches k = some l) :
    lostAt (ls.foldl loseLaunch s) k :=
  foldl_reaches (P := fun t => lostAt t k) (Q := fun t => ∃ l, look t.launches k = some l) hk (fun _ => lostAt_loseLaunch_same)
    (fun _ j => lostAt_loseLaunch j) (fun _ j => look_loseLaunch j) s h

/-! ## Workgroups that go with their core (R132, R367, R380) -/

/-- Workgroups leave a core: only workgroups, cores, the notes of issues, launches and queues change. -/
def onlyLoses (s u : State) : Prop :=
  u = { s with wgs := u.wgs, cores := u.cores, issueFaults := u.issueFaults, launches := u.launches, queues := u.queues }

theorem onlyLoses_trans {s t u : State} (h : onlyLoses s t) (k : onlyLoses t u) : onlyLoses s u := by
  unfold onlyLoses at *
  rw [k, h]

/-- Carved granules stay carved. -/
def carvesStay (s u : State) : Prop := ∀ c g, (coreAt s c).carve.getLsbD g = true → (coreAt u c).carve.getLsbD g = true

theorem carvesStay_trans {s t u : State} (h : carvesStay s t) (k : carvesStay t u) : carvesStay s u := fun c g hg => k c g (h c g hg)

theorem carvesStay_setCore {s : State} {c : Nat} {x : Core} (h : ∀ g, (coreAt s c).carve.getLsbD g = true → x.carve.getLsbD g = true) :
    carvesStay s (setCore s c x) := by
  intro d g hg
  by_cases hd : d = c
  · subst hd
    rw [coreAt_setCore_same]
    exact h g hg
  · rw [coreAt_setCore_other s x hd]
    exact hg

theorem carvesStay_congr {s t s' t' : State} (hs : s'.cores = s.cores) (ht : t'.cores = t.cores) (h : carvesStay s t) : carvesStay s' t' := by
  intro c g hg
  rw [coreAt, hs] at hg
  rw [coreAt, ht]
  exact h c g hg

theorem carvesStay_modCore (s : State) (c : Nat) {f : Core → Core} (h : ∀ x, (f x).carve = x.carve) : carvesStay s (modCore s c f) :=
  carvesStay_setCore fun _ hg => by rw [h]; exact hg

/-- Cores change, and nothing else. -/
def onlyCores (s u : State) : Prop := u = { s with cores := u.cores }

theorem onlyCores_trans {s t u : State} (h : onlyCores s t) (k : onlyCores t u) : onlyCores s u := by
  unfold onlyCores at *
  rw [k, h]

theorem onlyCores_settleCarve (s : State) (c : Nat) : onlyCores s (settleCarve s c) := by
  refine foldl_rel (R := onlyCores) (fun _ => rfl) onlyCores_trans (fun t g => ?_) _ s
  dsimp only
  split <;> rfl

theorem carvesStay_settleCarve (s : State) (c : Nat) : carvesStay s (settleCarve s c) := by
  refine foldl_rel (R := carvesStay) (fun _ _ _ h => h) carvesStay_trans (fun t g => ?_) _ s
  dsimp only
  split
  · exact carvesStay_setCore fun j hj => by simp [hj]
  · exact fun _ _ h => h

/-- A workgroup as it is once it is gone from its core. -/
def goneWg (s : State) (k : Nat) (w : Workgroup) : Workgroup :=
  { w with
    retired := true, fifos := [], arrivals := [], wantRegs := none
    tiles := if (coreAt s w.core).mxq.any fun p => p.2.wg = k then w.tiles else [] }

/-- A core without the deferred arrivals of a workgroup that no operation will reach. -/
def dropDeferred (k : Nat) (w : Workgroup) (c : Core) : Core :=
  { c with deferred := c.deferred.filter fun p => p.2.wg ≠ k || decide (p.2.num ≤ (timelineAt w p.2.tl).issued) }

/-- A workgroup gone from its core, before the records of its slot and its scratchpad lines are given back. -/
def leaveCore (s : State) (k : Nat) (w : Workgroup) : State :=
  let t := modCore (setWg s k (goneWg s k w)) w.core (dropDeferred k w)
  { t with issueFaults := t.issueFaults.filter fun f => !(f.core = w.core && f.wg = k) }

theorem removeWg_eq (s : State) (k : Nat) (w : Workgroup) :
    removeWg s k w = settleCarve (freeRecords (leaveCore s k w) w.core w.slot) w.core := rfl

theorem onlyCores_removeWg (s : State) (k : Nat) (w : Workgroup) : onlyCores (leaveCore s k w) (removeWg s k w) := by
  have hfree : onlyCores (leaveCore s k w) (freeRecords (leaveCore s k w) w.core w.slot) := by
    generalize leaveCore s k w = t
    rfl
  exact onlyCores_trans hfree (onlyCores_settleCarve _ w.core)

/-- The end of a workgroup: it is gone, and besides only cores and the notes of issues change. -/
theorem removeWg_state (s : State) (k : Nat) (w : Workgroup) :
    ∃ cores faults, removeWg s k w = { s with wgs := put s.wgs k (goneWg s k w), cores := cores, issueFaults := faults } := by
  obtain ⟨cores, faults, hleave⟩ : ∃ cores faults, leaveCore s k w =
      { s with wgs := put s.wgs k (goneWg s k w), cores := cores, issueFaults := faults } := ⟨_, _, rfl⟩
  have h := onlyCores_removeWg s k w
  generalize removeWg s k w = u at h ⊢
  rw [hleave] at h
  exact ⟨u.cores, faults, h⟩

theorem carvesStay_removeWg (s : State) (k : Nat) (w : Workgroup) : carvesStay s (removeWg s k w) := by
  have hdrop : carvesStay (setWg s k (goneWg s k w)) (modCore (setWg s k (goneWg s k w)) w.core (dropDeferred k w)) :=
    carvesStay_modCore _ w.core fun _ => rfl
  have hleave : carvesStay s (leaveCore s k w) := carvesStay_congr rfl rfl hdrop
  have hfree : carvesStay (leaveCore s k w) (freeRecords (leaveCore s k w) w.core w.slot) :=
    carvesStay_modCore (leaveCore s k w) w.core fun _ => rfl
  have hsettle := carvesStay_settleCarve (freeRecords (leaveCore s k w) w.core w.slot) w.core
  rw [removeWg_eq]
  exact carvesStay_trans hleave (carvesStay_trans hfree hsettle)

/-! ### The charge of a workgroup (R341) -/

/-- A workgroup whose lane-cycles are charged, the remainder kept. -/
def chargedWg (now : Nat) (w : Workgroup) : Workgroup := { accrue now w with laneCycles := (accrue now w).laneCycles % 64 }

/-- A charge: the workgroup keeps the remainder, and the launch has so much more; besides only queues change. -/
theorem chargeWg_does {s : State} {k : Nat} {w : Workgroup} (h : wgAt s k = some w) :
    ∃ queues, chargeWg s k =
      { s with
        wgs := put s.wgs k (chargedWg s.now w), queues := queues
        launches := alter s.launches w.launch fun l => { l with charge := l.charge + (accrue s.now w).laneCycles / 64 } } := by
  have haccrue : (accrue s.now w).launch = w.launch := by
    unfold accrue
    split <;> rfl
  rw [chargeWg, h, ← haccrue]
  simp only [setWg_launches]
  split
  · next hnone => exact ⟨s.queues, by simp only [alter, hnone]; rfl⟩
  · exact ⟨_, rfl⟩

/-! ### The workgroups of a core -/

/-- One workgroup that goes with its core: it is charged, and its check-interval register joins its launch's status (R166, R380). -/
def loseWg (s : State) (k : Nat) : State :=
  match wgAt s k with
  | some w => removeWg (modLaunch (chargeWg s k) w.launch fun l => mergeCir l w.cir) k w
  | none => s

theorem loseWg_none {s : State} {k : Nat} (h : wgAt s k = none) : loseWg s k = s := by
  rw [loseWg, h]

/-- What becomes of a workgroup that goes with its core. -/
theorem loseWg_does {s : State} {k : Nat} {w : Workgroup} (h : wgAt s k = some w) :
    ∃ cores faults queues v n,
      loseWg s k = { s with
        wgs := put (put s.wgs k (chargedWg s.now w)) k v, cores := cores, issueFaults := faults, queues := queues
        launches := alter (alter s.launches w.launch fun l => { l with charge := l.charge + n }) w.launch fun l => mergeCir l w.cir }
        ∧ v.core = w.core ∧ v.retired = true := by
  obtain ⟨queues, hcharge⟩ := chargeWg_does h
  obtain ⟨cores, faults, hremove⟩ := removeWg_state (modLaunch (chargeWg s k) w.launch fun l => mergeCir l w.cir) k w
  rw [loseWg, h]
  refine ⟨cores, faults, queues, goneWg (modLaunch (chargeWg s k) w.launch fun l => mergeCir l w.cir) k w,
    (accrue s.now w).laneCycles / 64, ?_, rfl, rfl⟩
  simp only [hremove]
  rw [hcharge]
  rfl

/-- A workgroup goes with its core: only workgroups, cores, the notes of issues, launches and queues change. -/
theorem onlyLoses_loseWg (s : State) (k : Nat) : onlyLoses s (loseWg s k) := by
  cases h : wgAt s k with
  | none => rw [loseWg_none h]; rfl
  | some w =>
    obtain ⟨cores, faults, queues, v, n, heq, -⟩ := loseWg_does h
    rw [heq]
    rfl

theorem wgAt_loseWg_other (s : State) {k j : Nat} (hj : j ≠ k) : wgAt (loseWg s k) j = wgAt s j := by
  cases h : wgAt s k with
  | none => rw [loseWg_none h]
  | some w =>
    obtain ⟨cores, faults, queues, v, n, heq, -⟩ := loseWg_does h
    rw [heq]
    simp only [wgAt]
    rw [look_put_other _ _ hj, look_put_other _ _ hj]

theorem wgAt_loseWg_same {s : State} {k : Nat} {w : Workgroup} (h : wgAt s k = some w) :
    ∃ v, wgAt (loseWg s k) k = some v ∧ v.core = w.core ∧ v.retired = true := by
  obtain ⟨cores, faults, queues, v, n, heq, hcore, hretired⟩ := loseWg_does h
  refine ⟨v, ?_, hcore, hretired⟩
  rw [heq]
  exact look_put_same _ _ _

theorem coresKept_loseWg (s : State) (k : Nat) : coresKept s (loseWg s k) := by
  intro j
  by_cases hj : j = k
  · cases h : wgAt s k with
    | none => rw [loseWg_none h]
    | some w =>
      obtain ⟨v, hv, hcore, -⟩ := wgAt_loseWg_same h
      rw [hj, hv, h, Option.map_some, Option.map_some, hcore]
  · rw [wgAt_loseWg_other s hj]

theorem isLost_mergeCir {l : Launch} (x : DWord) (h : isLost l) : isLost (mergeCir l x) := by
  obtain ⟨haborted, hstatus, hsticky⟩ := h
  exact ⟨haborted, hstatus, by simp [mergeCir, mergeFirst, hsticky]⟩

theorem lostAt_loseWg {s : State} {j : Nat} (k : Nat) (hl : lostAt s j) : lostAt (loseWg s k) j := by
  cases h : wgAt s k with
  | none => rwa [loseWg_none h]
  | some w =>
    obtain ⟨cores, faults, queues, v, n, heq, -⟩ := loseWg_does h
    have hcharged : lostAt (modLaunch s w.launch fun l => { l with charge := l.charge + n }) j :=
      lostAt_alter rfl (fun _ hlost => hlost) hl
    rw [heq]
    exact lostAt_alter rfl (fun _ => isLost_mergeCir w.cir) hcharged

theorem carvesStay_loseWg (s : State) (k : Nat) : carvesStay s (loseWg s k) := by
  cases h : wgAt s k with
  | none => rw [loseWg_none h]; exact fun _ _ hg => hg
  | some w =>
    obtain ⟨queues, hcharge⟩ := chargeWg_does h
    have hcores : (chargeWg s k).cores = s.cores := by rw [hcharge]
    rw [loseWg, h]
    exact carvesStay_congr hcores.symm rfl (carvesStay_removeWg (modLaunch (chargeWg s k) w.launch fun l => mergeCir l w.cir) k w)

/-- The workgroups of a core, by their keys. -/
def wgsOn (s : State) (core : Nat) : List Nat := (s.wgs.filter fun p => p.2.core = core).map (·.1)

theorem mem_wgsOn {s : State} {k : Nat} {w : Workgroup} (h : wgAt s k = some w) : k ∈ wgsOn s w.core :=
  List.mem_map.mpr ⟨(k, w), List.mem_filter.mpr ⟨mem_of_look h, decide_eq_true rfl⟩, rfl⟩

/-! ## What a core held is gone (R380) -/

section
variable (s : State) (core : Nat)

theorem wgs_loseCore : (loseCore s core).wgs = ((wgsOn s core).foldl loseWg s).wgs := rfl

theorem cores_loseCore : (loseCore s core).cores = ((wgsOn s core).foldl loseWg s).cores := rfl

theorem launches_loseCore : (loseCore s core).launches = ((wgsOn s core).foldl loseWg s).launches := rfl

theorem threads_loseCore :
    (loseCore s core).threads = ((wgsOn s core).foldl loseWg s).threads.filter fun p => !(wgsOn s core).contains (wgOf p.1) := rfl

theorem onlyLoses_foldl : onlyLoses s ((wgsOn s core).foldl loseWg s) :=
  foldl_rel (R := onlyLoses) (fun _ => rfl) onlyLoses_trans onlyLoses_loseWg _ s

theorem parts_loseCore : (loseCore s core).parts = s.parts := by
  have h := onlyLoses_foldl s core
  unfold onlyLoses at h
  exact (congrArg State.parts h).trans rfl

theorem eccUncorrected_loseCore : (loseCore s core).eccUncorrected = s.eccUncorrected := by
  have h := onlyLoses_foldl s core
  unfold onlyLoses at h
  exact (congrArg State.eccUncorrected h).trans rfl

theorem coresKept_loseCore : coresKept s (loseCore s core) :=
  coresKept_trans (foldl_rel (R := coresKept) (fun _ _ => rfl) coresKept_trans coresKept_loseWg (wgsOn s core) s)
    (coresKept_of_wgs (wgs_loseCore s core))

theorem carvesStay_loseCore : carvesStay s (loseCore s core) :=
  carvesStay_congr rfl (cores_loseCore s core)
    (foldl_rel (R := carvesStay) (fun _ _ _ h => h) carvesStay_trans carvesStay_loseWg (wgsOn s core) s)

end

theorem lostAt_loseCore {s : State} {k : Nat} (core : Nat) (h : lostAt s k) : lostAt (loseCore s core) k :=
  lostAt_congr (launches_loseCore s core) (foldl_keeps (P := fun t => lostAt t k) (fun _ j => lostAt_loseWg j) (wgsOn s core) s h)

/-- The workgroup of a key has retired, where there is one. -/
def retiredAt (s : State) (k : Nat) : Prop := ∀ w, wgAt s k = some w → w.retired = true

theorem retiredAt_loseWg_same (s : State) (k : Nat) : retiredAt (loseWg s k) k := by
  intro v hv
  cases h : wgAt s k with
  | none =>
    rw [loseWg_none h, h] at hv
    cases hv
  | some w =>
    obtain ⟨x, hx, -, hretired⟩ := wgAt_loseWg_same h
    rw [hx] at hv
    exact Option.some.inj hv ▸ hretired

theorem retiredAt_loseWg {s : State} {k : Nat} (j : Nat) (h : retiredAt s k) : retiredAt (loseWg s j) k := by
  by_cases hk : k = j
  · exact hk ▸ retiredAt_loseWg_same s k
  · rw [retiredAt, wgAt_loseWg_other s hk]
    exact h

/-- Every workgroup of the core has retired. -/
theorem retired_loseCore {s : State} {core k : Nat} {w : Workgroup} (h : wgAt (loseCore s core) k = some w) (hc : w.core = core) :
    w.retired = true := by
  obtain ⟨v, hv, hcore⟩ := coresKept_some (coresKept_loseCore s core) h
  have hmem : k ∈ wgsOn s core := hc ▸ hcore ▸ mem_wgsOn hv
  have hretired : retiredAt ((wgsOn s core).foldl loseWg s) k :=
    foldl_reaches (P := fun t => retiredAt t k) (Q := fun _ => True) hmem (fun t _ => retiredAt_loseWg_same t k)
      (fun _ j => retiredAt_loseWg j) (fun _ _ _ => trivial) s trivial
  exact hretired w h

/-- No thread of the core is left. -/
theorem thOf_loseCore {s : State} {core t : Nat} {w : Workgroup} (h : wgAt s (wgOf t) = some w) (hc : w.core = core) :
    thOf (loseCore s core) t = none := by
  have hmem : wgOf t ∈ wgsOn s core := hc ▸ mem_wgsOn h
  rw [thOf, threads_loseCore]
  refine look_eq_none_of fun p hp hkey => ?_
  have hkept := (List.mem_filter.mp hp).2
  rw [hkey] at hkept
  simp [hmem] at hkept

/-- The tracked copies of a core leave its cluster's vectors: only cluster caches change. -/
theorem dropVectors_state (s : State) (core : Nat) : dropVectors s core = { s with clusters := (dropVectors s core).clusters } := by
  refine foldl_rel (R := fun t u : State => u = { t with clusters := u.clusters }) (fun _ => rfl)
    (fun {t u v} h k => by rw [k, h]) (fun t sec => ?_) _ s
  unfold setVector
  split
  · split <;> rfl
  · rfl

section
variable (s : State) (core : Nat)

@[simp] theorem dropVectors_wgs : (dropVectors s core).wgs = s.wgs := by rw [dropVectors_state]
@[simp] theorem dropVectors_threads : (dropVectors s core).threads = s.threads := by rw [dropVectors_state]
@[simp] theorem dropVectors_cores : (dropVectors s core).cores = s.cores := by rw [dropVectors_state]
@[simp] theorem dropVectors_launches : (dropVectors s core).launches = s.launches := by rw [dropVectors_state]
@[simp] theorem dropVectors_parts : (dropVectors s core).parts = s.parts := by rw [dropVectors_state]
@[simp] theorem dropVectors_eccUncorrected : (dropVectors s core).eccUncorrected = s.eccUncorrected := by rw [dropVectors_state]

end

theorem getLsbD_two_pow {n k : Nat} (h : k < n) : (BitVec.ofNat n (2 ^ k)).getLsbD k = true := by
  rw [BitVec.getLsbD_ofNat, Nat.testBit_two_pow_self, Bool.and_true]
  exact decide_eq_true h

/-- The core itself: without power, with its records, its sequence counter and its carved granules, and marked in COREOFF (R380). -/
def darken (s : State) (core : Nat) : State :=
  let t := setCore s core
    { Core.reset with offline := true, recs := (coreAt s core).recs, seq := (coreAt s core).seq, carve := (coreAt s core).carve }
  { t with coreoff := put t.coreoff (core / 64) (lookD t.coreoff (core / 64) 0 ||| BitVec.ofNat 64 (2 ^ (core % 64))) }

section
variable (s : State) (core : Nat)

@[simp] theorem darken_wgs : (darken s core).wgs = s.wgs := rfl
@[simp] theorem darken_threads : (darken s core).threads = s.threads := rfl
@[simp] theorem darken_launches : (darken s core).launches = s.launches := rfl
@[simp] theorem darken_parts : (darken s core).parts = s.parts := rfl
@[simp] theorem darken_eccUncorrected : (darken s core).eccUncorrected = s.eccUncorrected := rfl

end

theorem coreAt_darken (s : State) (core : Nat) :
    (coreAt (darken s core) core).offline = true ∧ (coreAt (darken s core) core).carve = (coreAt s core).carve := by
  have h : coreAt (darken s core) core =
      { Core.reset with offline := true, recs := (coreAt s core).recs, seq := (coreAt s core).seq, carve := (coreAt s core).carve } :=
    coreAt_setCore_same s core _
  rw [h]
  exact ⟨rfl, rfl⟩

theorem coreoff_darken (s : State) (core : Nat) : (lookD (darken s core).coreoff (core / 64) 0).getLsbD (core % 64) = true := by
  have hbit : core % 64 < 64 := Nat.mod_lt _ (by decide)
  simp only [darken, lookD_put_same]
  rw [BitVec.getLsbD_or, getLsbD_two_pow hbit, Bool.or_true]

/-! ## Interrupts of a partition (R364, R373) -/

/-- The bit of a source is set in PIRQ. -/
def irqSet (s : State) (part k : Nat) : Prop := (partAt s part).pirq.getLsbD k = true

/-- An interrupt is raised: only partitions and the interrupt writes change. -/
def onlyRaises (s u : State) : Prop := u = { s with parts := u.parts, intWrites := u.intWrites }

theorem onlyRaises_trans {s t u : State} (h : onlyRaises s t) (k : onlyRaises t u) : onlyRaises s u := by
  unfold onlyRaises at *
  rw [k, h]

/-- What stands besides partitions and interrupt writes is as it was. -/
theorem onlyRaises_fields {s u : State} (h : onlyRaises s u) :
    u.cores = s.cores ∧ u.coreoff = s.coreoff ∧ u.eccUncorrected = s.eccUncorrected ∧ u.wgs = s.wgs ∧ u.threads = s.threads
      ∧ u.launches = s.launches := by
  unfold onlyRaises at h
  rw [h]
  exact ⟨rfl, rfl, rfl, rfl, rfl, rfl⟩

theorem onlyRaises_raiseIrq (s : State) (part k : Nat) : onlyRaises s (raiseIrq s part k) := by
  unfold raiseIrq
  simp only
  split
  · rfl
  · split <;> rfl

/-- PIRQ with the bit of a source. -/
def withIrq (k : Nat) (p : Partition) : Partition := { p with pirq := p.pirq ||| BitVec.ofNat 6 (2 ^ k) }

/-- A partition's PIRQ takes the bit, unless it has it. -/
theorem parts_raiseIrq (s : State) (part k : Nat) :
    irqSet s part k ∧ raiseIrq s part k = s ∨ (raiseIrq s part k).parts = modAt s.parts part (withIrq k) := by
  unfold raiseIrq
  simp only
  split
  · next h => exact .inl ⟨h, rfl⟩
  · split <;> exact .inr rfl

theorem parts_length_raiseIrq (s : State) (part k : Nat) : (raiseIrq s part k).parts.length = s.parts.length := by
  rcases parts_raiseIrq s part k with ⟨-, heq⟩ | heq
  · rw [heq]
  · rw [heq, length_modAt]

theorem irqSet_raiseIrq_same {s : State} {part k : Nat} (hp : part < s.parts.length) (hk : k < 6) : irqSet (raiseIrq s part k) part k := by
  rcases parts_raiseIrq s part k with ⟨hset, heq⟩ | heq
  · rw [heq]
    exact hset
  · have hpart : partAt (raiseIrq s part k) part = withIrq k (partAt s part) := by
      rw [partAt, heq]
      exact partAt_modPart_same (withIrq k) hp
    rw [irqSet, hpart, withIrq, BitVec.getLsbD_or, getLsbD_two_pow hk, Bool.or_true]

theorem irqSet_raiseIrq {s : State} {q : Nat} (part k : Nat) (hq : q < s.parts.length) (h : irqSet s q k) : irqSet (raiseIrq s part k) q k := by
  rcases parts_raiseIrq s part k with ⟨-, heq⟩ | heq
  · rwa [heq]
  · by_cases hpart : q = part
    · subst hpart
      have hsame : partAt (raiseIrq s q k) q = withIrq k (partAt s q) := by
        rw [partAt, heq]
        exact partAt_modPart_same (withIrq k) hq
      rw [irqSet] at h ⊢
      rw [hsame, withIrq, BitVec.getLsbD_or, h, Bool.true_or]
    · have hother : partAt (raiseIrq s part k) q = partAt s q := by
        rw [partAt, heq]
        exact partAt_modPart_other s (withIrq k) hpart
      rw [irqSet, hother]
      exact h

/-- MCHECK is raised in some partitions (R380). -/
def raiseMcheck (s : State) (ps : List Nat) : State := ps.foldl (fun s p => raiseIrq s p irqMcheck) s

theorem onlyRaises_raiseMcheck (s : State) (ps : List Nat) : onlyRaises s (raiseMcheck s ps) :=
  foldl_rel (R := onlyRaises) (fun _ => rfl) onlyRaises_trans (fun t p => onlyRaises_raiseIrq t p irqMcheck) ps s

theorem irqSet_raiseMcheck {s : State} {ps : List Nat} {p : Nat} (hp : p ∈ ps) (hlt : p < s.parts.length) :
    irqSet (raiseMcheck s ps) p irqMcheck := by
  refine (foldl_reaches (P := fun t : State => p < t.parts.length ∧ irqSet t p irqMcheck) (Q := fun t => p < t.parts.length) hp
    (fun t ht => ?_) (fun t q ht => ?_) (fun t q ht => ?_) s hlt).2
  · exact ⟨by rwa [parts_length_raiseIrq], irqSet_raiseIrq_same ht (by decide)⟩
  · exact ⟨by rw [parts_length_raiseIrq]; exact ht.1, irqSet_raiseIrq q irqMcheck ht.1 ht.2⟩
  · rwa [parts_length_raiseIrq]

/-! ## What has work on a core (R380) -/

/-- A list without repeats has what the list has. -/
theorem mem_foldl_insert {x : Nat} {l : List Nat} (h : x ∈ l) : x ∈ l.foldl (fun xs y => if xs.contains y then xs else xs ++ [y]) [] := by
  refine foldl_reaches (P := fun xs => x ∈ xs) (Q := fun _ => True) h (fun xs _ => ?_) (fun xs y hx => ?_) (fun _ _ _ => trivial) [] trivial
  · split
    · next hin => exact List.contains_iff_mem.mp hin
    · exact List.mem_append_right xs List.mem_cons_self
  · split
    · exact hx
    · exact List.mem_append_left [y] hx

section
variable {s : State} {k core : Nat} {w : Workgroup} (h : wgAt s k = some w) (hc : w.core = core) (hr : w.retired = false)
include h hc hr

theorem mem_running : (k, w) ∈ s.wgs.filter fun p => p.2.core = core && !p.2.retired :=
  List.mem_filter.mpr ⟨mem_of_look h, by simp [hc, hr]⟩

theorem launch_mem_launchesOn : w.launch ∈ launchesOn s core := by
  refine mem_foldl_insert (List.mem_append_left _ (List.mem_append_left _ ?_))
  exact List.mem_map.mpr ⟨(k, w), mem_running h hc hr, rfl⟩

theorem part_mem_partsOn : w.part ∈ partsOn s core := by
  refine mem_foldl_insert (List.mem_append_left _ (List.mem_append_left _ ?_))
  exact List.mem_map.mpr ⟨(k, w), mem_running h hc hr, rfl⟩

end

/-! ## CORE_OFFLINE (R380) -/

/-- The launches with work on a core are lost. -/
def abortOn (s : State) (core : Nat) : State := (launchesOn s core).foldl loseLaunch (countUncorrected s structControl)

/-- What the core held is gone too, and the core is without power. -/
def offlined (s : State) (core : Nat) : State := darken (dropVectors (loseCore (abortOn s core) core) core) core

theorem exec_coreOffline_on {s : State} {core : Nat} (h : core < 256) (hoff : (coreAt s core).offline = false) :
    exec (.coreOffline core) s = .next (raiseMcheck (offlined s core) (partsOn s core)) := by
  have hon : (decide (256 ≤ core) || (coreAt s core).offline) = false := by simp [hoff, h]
  change execCoreOffline core s = _
  rw [execCoreOffline, hon]
  rfl

section
variable (s : State) (core : Nat)

theorem launchesLost_abortOn : launchesLost (countUncorrected s structControl) (abortOn s core) :=
  launchesLost_foldl (launchesOn s core) _

theorem wgs_offlined : (offlined s core).wgs = (loseCore (abortOn s core) core).wgs := by
  rw [offlined, darken_wgs, dropVectors_wgs]

theorem threads_offlined : (offlined s core).threads = (loseCore (abortOn s core) core).threads := by
  rw [offlined, darken_threads, dropVectors_threads]

theorem launches_offlined : (offlined s core).launches = (loseCore (abortOn s core) core).launches := by
  rw [offlined, darken_launches, dropVectors_launches]

theorem eccUncorrected_offlined : (offlined s core).eccUncorrected = (countUncorrected s structControl).eccUncorrected := by
  rw [offlined, darken_eccUncorrected, dropVectors_eccUncorrected, eccUncorrected_loseCore, (launchesLost_abortOn s core).ecc]

theorem parts_length_offlined : (offlined s core).parts.length = s.parts.length := by
  rw [offlined, darken_parts, dropVectors_parts, parts_loseCore, (launchesLost_abortOn s core).parts]
  rfl

theorem carve_offlined (g : Nat) (h : (coreAt s core).carve.getLsbD g = true) : (coreAt (offlined s core) core).carve.getLsbD g = true := by
  have habort : (coreAt (abortOn s core) core).carve = (coreAt s core).carve := (launchesLost_abortOn s core).carve core
  have hlose := carvesStay_loseCore (abortOn s core) core core g (habort ▸ h)
  rw [coreAt] at hlose
  rw [offlined, (coreAt_darken _ core).2, coreAt, dropVectors_cores]
  exact hlose

end

/-- Every workgroup of the core has retired. -/
theorem retired_offlined {s : State} {core k : Nat} {w : Workgroup} (h : wgAt (offlined s core) k = some w) (hc : w.core = core) :
    w.retired = true := by
  rw [wgAt, wgs_offlined] at h
  exact retired_loseCore h hc

/-- No thread of the core is left. -/
theorem thOf_offlined {s : State} {core t : Nat} {w : Workgroup} (h : wgAt s (wgOf t) = some w) (hc : w.core = core) :
    thOf (offlined s core) t = none := by
  obtain ⟨v, hv, hcore⟩ := coresKept_stays (launchesLost_abortOn s core).cores h
  rw [thOf, threads_offlined]
  exact thOf_loseCore hv (hcore.trans hc)

/-- A launch with work on the core is lost. -/
theorem lostAt_offlined {s : State} {core k : Nat} (hk : k ∈ launchesOn s core) (h : ∃ l, look s.launches k = some l) :
    lostAt (offlined s core) k := by
  have habort : lostAt (abortOn s core) k := lostAt_foldl hk h
  exact lostAt_congr (launches_offlined s core) (lostAt_loseCore core habort)

/-- What CORE_OFFLINE leaves: of the core, of its workgroups, threads and launches, and in the partitions that had work there. -/
theorem coreOffline_leaves {s : State} {core : Nat} (hcore : core < 256) (hoff : (coreAt s core).offline = false) (hparts : s.parts.length = 16) :
    ∃ u, exec (.coreOffline core) s = .next u ∧ (coreAt u core).offline = true
      ∧ (lookD u.coreoff (core / 64) 0).getLsbD (core % 64) = true
      ∧ lookD u.eccUncorrected structControl 0 = lookD s.eccUncorrected structControl 0 + 1
      ∧ (∀ k w, wgAt u k = some w → w.core = core → w.retired = true)
      ∧ (∀ g, (coreAt s core).carve.getLsbD g = true → (coreAt u core).carve.getLsbD g = true)
      ∧ (∀ t w, wgAt s (wgOf t) = some w → w.core = core → thOf u t = none)
      ∧ ∀ k w, wgAt s k = some w → w.core = core → w.retired = false →
          (w.part < 16 → irqSet u w.part irqMcheck) ∧ ∀ l, look s.launches w.launch = some l → lostAt u w.launch := by
  have hraise := onlyRaises_raiseMcheck (offlined s core) (partsOn s core)
  have hmcheck : ∀ p ∈ partsOn s core, p < 16 → irqSet (raiseMcheck (offlined s core) (partsOn s core)) p irqMcheck := fun p hp hlt =>
    irqSet_raiseMcheck hp (by rw [parts_length_offlined, hparts]; exact hlt)
  refine ⟨raiseMcheck (offlined s core) (partsOn s core), exec_coreOffline_on hcore hoff, ?_⟩
  generalize raiseMcheck (offlined s core) (partsOn s core) = u at hraise hmcheck
  obtain ⟨hcores, hcoreoff, hecc, hwgs, hthreads, hlaunches⟩ := onlyRaises_fields hraise
  have hcoreAt : coreAt u core = coreAt (offlined s core) core := by rw [coreAt, hcores, coreAt]
  refine ⟨?_, ?_, ?_, fun k w hw hc => ?_, fun g hg => ?_, fun t w hw hc => ?_,
    fun k w hw hc hr => ⟨hmcheck w.part (part_mem_partsOn hw hc hr), fun l hl => ?_⟩⟩
  · rw [hcoreAt]
    exact (coreAt_darken _ core).1
  · rw [hcoreoff]
    exact coreoff_darken _ core
  · rw [hecc, eccUncorrected_offlined]
    exact lookD_put_same _ _ _ _
  · rw [wgAt, hwgs] at hw
    exact retired_offlined hw hc
  · rw [hcoreAt]
    exact carve_offlined s core g hg
  · rw [thOf, hthreads]
    exact thOf_offlined hw hc
  · exact lostAt_congr hlaunches (lostAt_offlined (launch_mem_launchesOn hw hc hr) ⟨l, hl⟩)

/-- Settles O52: each step is what its own lemma says it does, and the fields that the statement names are read off that. -/
theorem moduleStepsAct : Obligations.ModuleStepsAct := by
  intro s
  refine ⟨?reset, ?powerOff, ?powerOn, ?boot, ?spdm, ?stage, ?redfishOff, ?errorCounts, ?coreOff, ?unlock, ?refused, ?corrected, ?memory, ?slice,
    ?register, ?tileRow, ?array, ?scrub, ?offline⟩
  case reset => exact fun h => ⟨_, exec_moduleReset_on h, isBlank_resetModule s .on, rfl, rfl, rfl⟩
  case powerOff => exact ⟨_, exec_powerOff s, isBlank_resetModule s .off, rfl⟩
  case powerOn =>
    exact fun image sig cxl h => ⟨_, exec_powerOn_off image sig cxl h, isBlank_resetModule s .booting, rfl, rfl, rfl, rfl⟩
  case boot =>
    refine fun image sig cxl hb => ⟨exec_powerOn_halted image sig cxl hb, fun hh hstage _ => ?_⟩
    exact ⟨_, exec_powerOn_booting image sig cxl hb hh, fun j hj => measure_bootNext_other cxl hj, measure_bootNext_same cxl,
      bootNext_outcome image sig cxl hb hh hstage⟩
  case spdm =>
    exact fun peer req hon => ⟨exec_spdmRequest_lost req,
      fun h => ⟨_, _, exec_spdmRequest_answered req hon h, length_spdmSignature s req⟩⟩
  case stage => exact fun image => rfl
  case redfishOff => exact ⟨_, rfl, rfl, rfl, rfl⟩
  case errorCounts => rfl
  case coreOff => rfl
  case unlock =>
    exact fun token hon _ => ⟨_, exec_debugUnlock_verified token hon, rfl, measure_extendAt_same s 15 token,
      fun j hj => measure_extendAt_other s token hj, rfl⟩
  case refused => exact fun token => rfl
  case corrected => exact fun k => rfl
  case memory => exact fun sec h => eccError_memory_leaves h
  case slice => exact fun sec h => eccError_slice_leaves h
  case register => exact fun t th r ht _ _ => eccError_reg_leaves ht r
  case tileRow => exact fun k w tile row hw ht hr hs hp => eccError_tileRow_leaves hw ht hr hs hp
  case array => exact fun k w tile row col bits hw ht hr hc hrise => eccError_array_leaves hw ht hr bits hc hrise
  case scrub => rfl
  case offline => exact fun core hcore hoff _ hparts => coreOffline_leaves hcore hoff hparts

end Sys2Proof.Machine
end

section
/-! PROOFS. The fetch of a word, and the step that runs it (R25, R79, R80, R139 to R141; log 9). -/

namespace Sys2Proof.Machine

/-! ## What a fetch changes -/

theorem onlyTlb_modCore (s : State) (c : Nat) (f : Core → Core) : onlyTlb s (modCore s c f) := rfl

theorem onlyTlb_drawNat (s : State) (n : Nat) : onlyTlb s (drawNat s n).2 := rfl

theorem onlyTlb_memWord (s : State) (l : Loc) : onlyTlb s (memWord s l).2 := by
  unfold memWord
  simp only
  split
  · exact onlyTlb_refl s
  · split
    · exact onlyTlb_drawBytes s 8
    · exact onlyTlb_readLoc s l 8

theorem onlyTlb_memFetch (s : State) (core : Nat) (l : Loc) : onlyTlb s (memFetch s core l).2 := by
  unfold memFetch
  split
  · exact onlyTlb_refl s
  · exact onlyTlb_memWord s l

theorem onlyTlb_icPut (s : State) (core pa : Nat) (w : DWord) : onlyTlb s (icPut s core pa w) := by
  unfold icPut
  simp only
  split <;> rfl

/-- A word kept in the instruction cache and in the port's loop buffer. -/
theorem onlyTlb_keep (s : State) (core pa : Nat) (w : DWord) (f : Core → Core) : onlyTlb s (modCore (icPut s core pa w) core f) :=
  onlyTlb_trans (onlyTlb_icPut s core pa w) (onlyTlb_modCore _ core f)

theorem onlyTlb_coreWord (s : State) (core port : Nat) (first : Bool) (old : NMap DWord) (l : Loc) :
    onlyTlb s (coreWord s core port first old l).2 := by
  unfold coreWord
  extract_lets pa m c loops loop fresh held dropped keep fetched
  have hm : onlyTlb s m.2 := onlyTlb_memFetch s core l
  have hkeep (w : DWord) {u : State} (hu : onlyTlb s u) : onlyTlb s (keep w u).2 := by
    dsimp only [keep]
    exact onlyTlb_trans hu (onlyTlb_keep ..)
  have hfetched {u : State} (hu : onlyTlb s u) : onlyTlb s (fetched u).2 := by
    cases hr : m.1 with
    | error e => simpa only [fetched, hr] using hu
    | ok w => simpa only [fetched, hr] using hkeep w hu
  split
  · exact hfetched hm
  · extract_lets d
    have hd : onlyTlb s d.2 := onlyTlb_trans hm (onlyTlb_drawNat m.2 _)
    split
    · split
      · exact hkeep _ hd
      · exact hd
    · exact hfetched hd

theorem onlyTlb_fetchAt (s : State) (core part port : Nat) (first : Bool) (old : NMap DWord) (va : DWord) :
    onlyTlb s (fetchAt s core part port first old va).2 := by
  have ht := onlyTlb_translate s core part va.toNat .fetch 0
  unfold fetchAt
  simp only
  split
  · exact onlyTlb_refl s
  · split
    · exact onlyTlb_refl s
    · split
      · exact ht
      · next l _ =>
        split
        · exact ht
        · have hw := onlyTlb_trans ht (onlyTlb_coreWord (translate s core part va.toNat .fetch 0).2 core port first old l)
          split <;> next e => rw [e] at hw; exact hw

/-- The fetch of a group's next word changes nothing but caches, TLBs and the pages that are pinned in slices (R80, R139). -/
theorem onlyTlb_fetchGroup (s : State) (G : Group) : onlyTlb s (fetchGroup s G).2 := by
  unfold fetchGroup
  split
  · exact onlyTlb_refl s
  · split
    · exact onlyTlb_fetchAt ..
    · exact onlyTlb_refl s

/-! ## The step -/

theorem step_focus {s : State} {g : Nat} {G : Group} (hf : s.focus = some g) (hg : grpOf s g = some G) : step s = stepWord s G := by
  simp only [step, hf, hg]

/-- Settles O26: the fetch by what each of its parts may change, the rest by the cases of `stepWord` and of `step`. -/
theorem stepRunsTheFetchedWord : Obligations.StepRunsTheFetchedWord := by
  refine fun s => ⟨fun g G hf hg => ⟨onlyTlb_fetchGroup s G, fun w i hw hi => ?word, fun w e hw he => ?noWord, fun e he => ?noFetch⟩,
    fun dt i rest hf ha hsel => ?input, fun hf ha => ?turn⟩
  case word => rw [step_focus hf hg, stepWord]; simp only [hw, hi]
  case noWord => rw [step_focus hf hg, stepWord]; simp only [hw, he]
  case noFetch => rw [step_focus hf hg, stepWord]; simp only [he]
  case input => simp only [step, hf, ha, stepInput, hsel]; rfl
  case turn => simp only [step, hf, ha]

end Sys2Proof.Machine
end

section
/-! PROOFS. Registers, and the words that move values (R18, R36, R37, R106, R120, R121). -/

namespace Sys2Proof.Machine

/-! ## Registers (R18) -/

@[simp] theorem readReg_zero (th : Thread) : readReg th 0 = .clean 0 := rfl

@[simp] theorem setReg_zero (th : Thread) (v : RegVal) : setReg th 0 v = th := rfl

theorem readReg_setReg_same {th : Thread} {r : Nat} (v : RegVal) (h0 : r ≠ 0) (hr : r < th.regs.length) : readReg (setReg th r v) r = v := by
  simp [readReg, setReg, h0, hr]

theorem readReg_setReg_other (th : Thread) {r q : Nat} (v : RegVal) (h : q ≠ r) : readReg (setReg th r v) q = readReg th q := by
  by_cases h0 : r = 0
  · rw [h0, setReg_zero]
  · simp [readReg, setReg, h0, List.getElem?_set_ne (Ne.symm h)]

/-! ## Values of the sources -/

theorem arithVal_first (v : Val) : arithVal (fun x _ _ => x) [v] = match v.tok with
    | some k => badVal k
    | none => cleanVal v.data := by
  cases h : v.tok <;> simp [arithVal, firstPoison, h]

theorem selVal_eq_selected (a b c : Val) : selVal [a, b, c] = selected a b c := by
  simp only [selVal, selected]
  cases c.tok with
  | some k => rfl
  | none => exact ite_not ..

/-! ## Words of a group -/

/-- The words that perform an implicit commit before themselves though they are no releases (R152, R158). -/
def commitsFirst : Instr → Bool
  | .rbegin .. | .exit | .barinit .. | .arrive .. | .waitph .. | .testph .. | .arrivex .. => true
  | _ => false

theorem preCommit_eq_false {i : Instr} (hr : isRelease i = false) (hc : commitsFirst i = false) (s : State) (t : Nat) :
    preCommit i s t = false := by
  unfold preCommit
  split
  · rw [hr, Bool.false_and, Bool.false_or]
    cases i <;> first | rfl | cases hc
  · rfl

/-- A word that computes its result from its sources gives it to each member; `v` may be written in another form. -/
theorem wordGives_of_sources {i : Instr} {s : State} {g : Nat} {G : Group} (h : issuesNow i s g G = true) (nd : G.members.Nodup)
    (hp : noPorts i s G = true) (hr : isRelease i = false) (hc : commitsFirst i = false) (he : isSpanEnd i = false) {v : List Val → Val}
    (e : exec i s = runWord i (fun _ ts s => ts.foldl (arithThread (usesOf i) v) s) s) {f : Thread → Val}
    (hf : ∀ th, v (sourceVals i th) = f th) :
    wordGives i s G fun _ th _ => f th := by
  obtain ⟨u, hu, hout, hin, hothers⟩ := valueWord h nd hp hr (preCommit_eq_false hr hc s) he v
  exact ⟨u, e.trans hu, hout, fun t ht th _ hth _ => (hin t ht th hth).trans (by rw [hf]), hothers⟩

/-- A member's value of a special register. -/
def sysrResult (s : State) (d : Reg) (sr : SReg) (t : Nat) (th : Thread) : Thread :=
  match wgAt s (wgOf t) with
  | some w => withResult (.sysr d sr) th (cleanVal (sregVal s t th w sr))
  | none => th

theorem sysrResult_cond (s : State) (d : Reg) (sr : SReg) (t : Nat) (th : Thread) : (sysrResult s d sr t th).cond = th.cond := by
  unfold sysrResult
  split
  · exact withResult_cond _ _ _
  · rfl

theorem sysrThread_noPort {s : State} {t : Nat} {th : Thread} {w : Workgroup} {d : Reg} {sr : SReg} (h : thOf s t = some th)
    (hw : wgAt s (wgOf t) = some w) (p : ∀ u ∈ usesOf (.sysr d sr), isPort w u.reg = false) :
    sysrThread d sr s t = modTh s t (sysrResult s d sr t) := by
  unfold sysrThread
  simp only [h, hw]
  rw [arithThread_noPort h hw (.sysr d sr) p, ← setTh_eq_modTh h, ← setTh_eq_modTh h, sysrResult, hw]

/-- A special register depends on no other thread: one member after another receives its own. -/
theorem sysrFold (d : Reg) (sr : SReg) (ts : List Nat) (s s' : State) (hs : ∀ t th, sysrResult s' d sr t th = sysrResult s d sr t th)
    (p : ∀ t ∈ ts, ∃ th w, thOf s' t = some th ∧ wgAt s' (wgOf t) = some w ∧ ∀ u ∈ usesOf (.sysr d sr), isPort w u.reg = false) :
    ts.foldl (sysrThread d sr) s' = ts.foldl (fun s' t => modTh s' t (sysrResult s d sr t)) s' := by
  induction ts generalizing s' with
  | nil => rfl
  | cons t ts ih =>
    obtain ⟨th, w, h, hw, hp⟩ := p t (by simp)
    rw [List.foldl_cons, List.foldl_cons, sysrThread_noPort h hw hp, funext (hs t)]
    refine ih _ hs fun u hu => ?_
    obtain ⟨thu, wu, hthu, hwu, hpu⟩ := p u (List.mem_cons_of_mem _ hu)
    by_cases e : u = t
    · subst e
      exact ⟨_, wu, by rw [thOf_modTh_same, h]; rfl, hwu, hpu⟩
    · exact ⟨thu, wu, by rw [thOf_modTh_other _ _ e, hthu], hwu, hpu⟩

theorem sregVal_eq_special (s : State) (t : Nat) (th : Thread) (w : Workgroup) (sr : SReg) : sregVal s t th w sr = special s t th w sr := by
  cases sr <;> rfl

/-- SYSR gives each member its own special register (R36, R37, R121). -/
theorem sysr_gives {s : State} {g : Nat} {G : Group} {d : Reg} {sr : SReg} (h : issuesNow (.sysr d sr) s g G = true) (nd : G.members.Nodup)
    (hp : noPorts (.sysr d sr) s G = true) : wordGives (.sysr d sr) s G fun t th w => cleanVal (special s t th w sr) := by
  have hfold : G.members.foldl (sysrThread d sr) (entered s) = G.members.foldl (fun s' t => modTh s' t (sysrResult s d sr t)) (entered s) := by
    refine sysrFold d sr _ s _ (fun _ _ => rfl) fun t ht => ?_
    obtain ⟨th, w, hth, hw⟩ := legalHere_there (issuesNow_legal h ht)
    exact ⟨th, w, hth, hw, noPorts_at hp ht hw⟩
  obtain ⟨u, hu, hout, hin, hothers⟩ := memberWord h nd rfl (fun t _ => preCommit_eq_false rfl rfl s t) rfl (sysrResult s d sr)
    (sysrResult_cond s d sr) (fun _ ts s => ts.foldl (sysrThread d sr) s) hfold
  refine ⟨u, hu, hout, fun t ht th w hth hw => ?_, hothers⟩
  rw [hin t ht th hth, sysrResult, hw]
  simp only [sregVal_eq_special]

theorem foldl_modTh_id (ts : List Nat) (s : State) : ts.foldl (fun s t => modTh s t fun th => th) s = s := by
  induction ts with
  | nil => rfl
  | cons t ts ih =>
    have stays : modTh s t (fun th => th) = s := by
      cases hth : thOf s t with
      | none => exact modTh_none hth _
      | some th => rw [← setTh_eq_modTh hth, setTh_self hth]
    rwa [List.foldl_cons, stays]

/-- NOP only moves on (R121). -/
theorem nop_gives {s : State} {g : Nat} {G : Group} (h : issuesNow .nop s g G = true) (nd : G.members.Nodup) :
    wordGives .nop s G fun _ _ _ => cleanVal 0 := by
  obtain ⟨u, hu, hout, hin, hothers⟩ := memberWord h nd rfl (fun t _ => preCommit_eq_false rfl rfl s t) rfl (fun _ th => th) (fun _ _ => rfl)
    (fun _ _ s => s) (foldl_modTh_id _ _).symm
  exact ⟨u, hu, hout, fun t ht th _ hth _ => hin t ht th hth, hothers⟩

/-- Settles O2: the registers by their two laws, SEL and MOV as words that compute a value of their sources, SYSR as a word whose members each take a
value of their own. -/
theorem moveWordsCompute : Obligations.MoveWordsCompute := by
  refine ⟨fun th v => ⟨readReg_zero th, setReg_zero th v, fun r h0 hr =>
    ⟨readReg_setReg_same v h0 hr, fun q hq => readReg_setReg_other th v hq⟩⟩, fun s g G nd => ⟨?sel, ?selW, ?mov, ?sysr, ?nop⟩⟩
  case sel => exact fun d a b c h hp => wordGives_of_sources h nd hp rfl rfl rfl rfl fun th => selVal_eq_selected _ _ _
  case selW => exact fun d a b c h hp => wordGives_of_sources h nd hp rfl rfl rfl rfl fun th => selVal_eq_selected _ _ _
  case mov => exact fun d a h hp => wordGives_of_sources h nd hp rfl rfl rfl rfl fun th => arithVal_first _
  case sysr => exact fun d sr h hp => sysr_gives h nd hp
  case nop => exact fun h => nop_gives h nd

end Sys2Proof.Machine
end

section
/-! PROOFS. The steps that reach a thread after an access: acknowledgements, late taints, the bound of a release, deferred arrivals (R28, R155, R196,
R273, R319). -/

namespace Sys2Proof.Machine

theorem sameOutside_acks {s u : State} (h : sameOutside s u) : u.acks = s.acks := by
  unfold sameOutside at h; rw [h]

theorem sameOutside_late {s u : State} (h : sameOutside s u) : u.late = s.late := by
  unfold sameOutside at h; rw [h]

@[simp] theorem threads_endIssue (s : State) (n : Nat) : (endIssue s n).threads = s.threads := by
  unfold endIssue; split <;> rfl

theorem makeToken_late (s : State) (o : Org) (f : Why) : (makeToken s o f).1.late = s.late := by
  have h := onlyTokens_makeToken s o f
  unfold onlyTokens at h
  rw [h]

/-! ## What an update of held copies changes (R208, R214, R278) -/

/-- Every field but cores, cluster caches and the count of uses is as it was. -/
def onlyCopies (s u : State) : Prop := u = { s with cores := u.cores, clusters := u.clusters, useCtr := u.useCtr }

theorem onlyCopies_refl (s : State) : onlyCopies s s := rfl

theorem onlyCopies_trans {s t u : State} (h : onlyCopies s t) (k : onlyCopies t u) : onlyCopies s u := by
  unfold onlyCopies at *
  rw [k, h]

theorem onlyCopies_ite {s t u : State} (p : Prop) [Decidable p] (ht : onlyCopies s t) (hu : onlyCopies s u) : onlyCopies s (if p then t else u) := by
  split
  · exact ht
  · exact hu

theorem onlyCopies_useCopies (s : State) (core a n : Nat) (pol : CPol) : onlyCopies s (useCopies s core a n pol) := by
  refine foldl_rel onlyCopies_refl onlyCopies_trans (fun s sec => ?_) _ s
  have hl1 : onlyCopies s (if (look (coreAt s core).l1 sec).isSome then useL1 s core sec pol else s) :=
    onlyCopies_ite _ rfl (onlyCopies_refl s)
  exact onlyCopies_ite _ (onlyCopies_trans hl1 rfl) hl1

theorem onlyCopies_forwardCopies (s : State) (core a : Nat) (bs : List Byte) (p : Nat) : onlyCopies s (forwardCopies s core a bs p) := by
  refine foldl_rel onlyCopies_refl onlyCopies_trans (fun s sec => ?_) _ s
  have hl1 (f : CacheSector → Option CacheSector) : onlyCopies s
      (if (look (coreAt s core).l1 sec).isSome then modCore s core fun x => { x with l1 := alterOpt x.l1 sec f } else s) :=
    onlyCopies_ite _ rfl (onlyCopies_refl s)
  exact onlyCopies_ite _ (onlyCopies_trans (hl1 _) rfl) (hl1 _)

/-! ## STORE_ACK (R28, R278) -/

/-- The copies of the writer's core and cluster as an acknowledgement leaves them. -/
def ackCopies (s : State) (o : Op) : State :=
  match o.loc, o.phase with
  | .phys pa _ _ _, .performed p => if remoteOp s o then s else useCopies (forwardCopies s o.core pa (opBytes o) p) o.core pa o.n o.pol
  | _, _ => s

theorem onlyCopies_ackCopies (s : State) (o : Op) : onlyCopies s (ackCopies s o) := by
  unfold ackCopies
  split
  · exact onlyCopies_ite _ (onlyCopies_refl s) (onlyCopies_trans (onlyCopies_forwardCopies ..) (onlyCopies_useCopies ..))
  · exact onlyCopies_refl s

theorem finishMember_live {s : State} {m : Member} {th : Thread} (h : thOf s m.th = some th) (hs : th.serial = m.serial) (hd : m.dst = [])
    (vs : List RegVal) : finishMember s m vs = modTh s m.th fun th => { th with stc := th.stc - 1 } := by
  simp [finishMember, liveTh, h, hs, hd]

theorem isForked_eq_false {o : Op} (h : ∀ x b, o.kind ≠ .forked x b) : isForked o = false := by
  unfold isForked
  split
  · next hk => exact absurd hk (h _ _)
  · rfl

/-- STORE_ACK of an access of one thread without a destination: copies are updated, STC falls, and the acknowledgement is over. -/
theorem exec_storeAck_sole {s : State} {k : Nat} {o : Op} {m : Member} (h : look s.acks k = some o) (hparts : o.parts = [m]) (hd : m.dst = [])
    (heng : o.eng = none) (hfork : ∀ x b, o.kind ≠ .forked x b) (hremote : remoteOp s o = false) (hwaits : ackWaits s o = false) :
    exec (.storeAck k) s =
      .next (endIssue { finishMember (ackCopies s o) m [] with acks := del (finishMember (ackCopies s o) m []).acks k } o.issue) := by
  have hf := isForked_eq_false hfork
  change execStoreAck k s = _
  unfold execStoreAck
  split
  · next hn => cases h.symm.trans hn
  · next o' ho' =>
    obtain rfl : o = o' := Option.some.inj (h.symm.trans ho')
    rw [if_neg (by simp [hf, hremote, hwaits])]
    extract_lets copied t
    have ht : t = finishMember (ackCopies s o) m [] := by
      dsimp only [t]
      split
      · next hk => exact absurd hk (hfork _ _)
      · simp only [heng, hparts, Option.isSome_none, Bool.false_eq_true, if_false, List.foldl_cons, List.foldl_nil, ackMember, hd, if_true]
        rfl
    rw [ht]

theorem storeAck_reaches {s : State} {k : Nat} {o : Op} {m : Member} {th : Thread} (h : look s.acks k = some o) (hparts : o.parts = [m])
    (hd : m.dst = []) (heng : o.eng = none) (hfork : ∀ x b, o.kind ≠ .forked x b) (ht : thOf s m.th = some th) (hs : th.serial = m.serial)
    (hremote : remoteOp s o = false) (hwaits : ackWaits s o = false) :
    ∃ u, exec (.storeAck k) s = .next u ∧ thOf u m.th = some { th with stc := th.stc - 1 } ∧ u.acks = del s.acks k ∧ u.mem = s.mem
      ∧ u.wgs = s.wgs ∧ u.ops = s.ops := by
  have hcopies := onlyCopies_ackCopies s o
  refine ⟨_, exec_storeAck_sole h hparts hd heng hfork hremote hwaits, ?_⟩
  generalize ackCopies s o = t at hcopies
  unfold onlyCopies at hcopies
  have htt : thOf t m.th = some th := by rw [hcopies]; exact ht
  have hend := sameOutside_endIssue { finishMember t m [] with acks := del (finishMember t m []).acks k } o.issue
  rw [thOf_endIssue, sameOutside_acks hend, sameOutside_mem hend, sameOutside_wgs hend, sameOutside_ops hend, finishMember_live htt hs hd]
  refine ⟨?_, by rw [hcopies]; rfl, by rw [hcopies]; rfl, by rw [hcopies]; rfl, by rw [hcopies]; rfl⟩
  exact (thOf_modTh_same ..).trans (by rw [htt]; rfl)

/-! ## LATE_TAINT (R155) -/

theorem taintLate_live {s : State} {t serial : Nat} {th : Thread} (h : thOf s t = some th) (hs : th.serial = serial)
    (hc : ∀ l, th.cond ≠ .replay l) (wg launch : Nat) (tok : Word) : taintLate s t serial wg launch tok = taint s t tok := by
  unfold taintLate
  simp only [liveTh, h, hs, if_true]

theorem lateTaint_reaches {s : State} {k : Nat} {x : LateFault} {th : Thread} (h : look s.late k = some x) (hd : x.dst = [])
    (ht : thOf s x.th = some th) (hs : th.serial = x.serial) (hc : ∀ l, th.cond ≠ .replay l) :
    let s' := { s with late := del s.late k }
    let j := makeToken s'
      { issue := x.issue, core := x.core, wg := x.wg, span := x.span, off := x.off, lane := th.lane, idx := idxOf x.th }
      ⟨x.cause, some x.va, false, true⟩
    ∃ u, exec (.lateTaint k) s = .next u ∧ thOf u x.th = some { th with region := taintRegion th.region j.2, stc := th.stc - 1 }
      ∧ u.late = s'.late ∧ u.mem = s.mem := by
  intro s' j
  have ht' : thOf s' x.th = some th := ht
  have hlane : laneFor s' x.wg x.th = th.lane := by simp only [laneFor, ht']
  have htoken : thOf j.1 x.th = some th := (thOf_makeToken ..).trans ht'
  have htaint : thOf (taint j.1 x.th j.2) x.th = some { th with region := taintRegion th.region j.2 } := by
    rw [thOf_taint, if_pos rfl, htoken]
    rfl
  have happly : (applyLate s' x false).1 = modTh (taint j.1 x.th j.2) x.th fun th => { th with stc := th.stc - 1 } := by
    simp only [applyLate, hlane]
    rw [taintLate_live htoken hs hc, finishMember_live htaint hs hd]
  have hend := sameOutside_endIssue (applyLate s' x false).1 x.issue
  refine ⟨endIssue (applyLate s' x false).1 x.issue, ?_, ?_, ?_, ?_⟩
  · change execLateTaint k s = _
    simp only [execLateTaint, h]
    rfl
  · rw [thOf_endIssue, happly, thOf_modTh_same, htaint]
    rfl
  · rw [sameOutside_late hend, happly]
    exact makeToken_late ..
  · rw [sameOutside_mem hend, happly]
    exact makeToken_mem ..

/-! ## REMOTE_UNACKED_BOUND (R319) -/

theorem exec_remoteUnackedBound_passed {s : State} {t c : Nat} {th : Thread} {a : DWord} (ht : thOf s t = some th) (hr : th.relSince = some c)
    (hc : c + us 200 ≤ s.now) (ha : firstUnacked s t th = some a) :
    exec (.remoteUnackedBound t) s = .next (setTh s t { th with unacked := some a }) := by
  change execRemoteUnackedBound t s = _
  simp only [execRemoteUnackedBound, ht, hr, hc, if_true, ha]

/-! ## DEFERRED_ARRIVAL (R196, R273) -/

theorem arrive_eq_arrived (o : BarObj) (c y : Nat) : o.arrive c y = arrived o c y := by
  simp only [BarObj.arrive, arrived, Bool.and_eq_true, decide_eq_true_eq]

/-- An arrival at an object leaves what the statements call so. -/
theorem arriveWith_eq_afterArrival {s : State} {k : Nat} {w : Workgroup} (h : wgAt s k = some w) (sc : Option Scope) (a c : Nat) :
    arriveWith sc s k a c 0 = afterArrival s k a w sc c := by
  have hphase : (objAt w a).phase = phaseBit w a := rfl
  simp only [arriveWith, h, afterArrival, arrive_eq_arrived, hphase, phaseScopes, bne_iff_ne, ne_eq, ite_not]


@[simp] theorem wgAt_modCore (s : State) (c k : Nat) (f : Core → Core) : wgAt (modCore s c f) k = wgAt s k := rfl

theorem wgAt_afterArrival_congr {s t : State} {k : Nat} (h : wgAt t k = wgAt s k) (a : Nat) (w : Workgroup) (sc : Option Scope) (c : Nat) :
    wgAt (afterArrival t k a w sc c) k = wgAt (afterArrival s k a w sc c) k := by
  simp only [afterArrival, setObj, writeLoc, wgAt_modWg_same, h]

theorem deferredArrival_reaches {s : State} {core k : Nat} {e : Deferred} {w : Workgroup} (h : look (coreAt s core).deferred k = some e)
    (hw : wgAt s e.wg = some w) (hactive : wgActive s w = true) (hdone : e.num ≤ (timelineAt w e.tl).done)
    (hline : lineAbsent s (.spad e.wg e.addr) 16 = false) (hobj : objectRefused w e.addr = none)
    (hfirst : ∀ p ∈ (coreAt s core).deferred, p.2.wg = e.wg → dueBefore p (k, e) = false) :
    ∃ u, exec (.deferredArrival core k) s = .next u
      ∧ wgAt u e.wg = wgAt (afterArrival s e.wg e.addr w (scopeOfTl w e.tl) e.count) e.wg
      ∧ (coreAt u core).deferred = del (coreAt s core).deferred k ∧ u.mem = s.mem ∧ u.threads = s.threads := by
  have hdue : deferredDue s e = true := by simp [deferredDue, hw, hactive, hdone, hline]
  have hnone : (coreAt s core).deferred.any (fun p => dueBefore p (k, e) && p.2.wg = e.wg && deferredDue s p.2) = false := by
    rw [List.any_eq_false]
    intro p hp hx
    simp only [Bool.and_eq_true, decide_eq_true_eq] at hx
    obtain ⟨⟨hbefore, hwg⟩, -⟩ := hx
    rw [hfirst p hp hwg] at hbefore
    cases hbefore
  let t := modCore s core fun c => { c with deferred := del c.deferred k }
  have hwt : wgAt t e.wg = some w := hw
  have hacts : engineArrive t (engineOrg t e.issue core e.wg e.th e.span e.off) w.launch (scopeOfTl w e.tl) e.addr e.count
      = afterArrival t e.wg e.addr w (scopeOfTl w e.tl) e.count := by
    simp only [engineArrive, engineOrg, hwt, hobj]
    exact arriveWith_eq_afterArrival hwt _ _ _
  refine ⟨endIssue (afterArrival t e.wg e.addr w (scopeOfTl w e.tl) e.count) e.issue, ?_, ?_, ?_, ?_, ?_⟩
  · change execDeferredArrival core k s = _
    simp only [execDeferredArrival, h, hdue, hnone, Bool.not_true, Bool.or_false, Bool.false_eq_true, if_false, wgAt_modCore, hw]
    rw [← hacts]
  all_goals have hend := sameOutside_endIssue (afterArrival t e.wg e.addr w (scopeOfTl w e.tl) e.count) e.issue
  · rw [sameOutside_wgAt hend]
    exact wgAt_afterArrival_congr rfl ..
  · rw [coreAt, sameOutside_cores hend]
    exact congrArg Core.deferred (coreAt_setCore_same ..)
  · exact (sameOutside_mem hend).trans rfl
  · rw [threads_endIssue]
    rfl

/-- Settles O33: each of the four steps by the lemma that says what it does. -/
theorem answersReachTheirThreads : Obligations.AnswersReachTheirThreads := by
  refine fun s k => ⟨?ack, ?late, ?bound, ?arrival⟩
  case ack => exact fun o m th h hparts hd heng hfork ht hs hremote hwaits => storeAck_reaches h hparts hd heng hfork ht hs hremote hwaits
  case late => exact fun x th h hd ht hs hc => lateTaint_reaches h hd ht hs hc
  case bound => exact fun t th c a ht hr hc ha => exec_remoteUnackedBound_passed ht hr hc ha
  case arrival =>
    exact fun core e w h hw hactive hdone hline hobj hfirst => deferredArrival_reaches h hw hactive hdone hline hobj hfirst

end Sys2Proof.Machine
end

section
/-! PROOFS. The steps of the matrix queue: element accesses, completions, the Tandem wait (R28, R231, R232, R236, R246, R256, R257, R260). -/

namespace Sys2Proof.Machine

/-! ## The queue of one operation (R231) -/

section OneOperation
variable {s : State} {core k : Nat} {e : MxEntry} {w : Workgroup} (hw : wgAt s e.wg = some w) (hactive : wgActive s w = true)
  (hretired : w.retired = false) (hq : (coreAt s core).mxq = [(k, e)]) (hstage : e.stage = .queued)

include hq hstage in
/-- Nothing is held. -/
theorem releaseHeld_queued : releaseHeld s core = s := by
  simp [releaseHeld, hq, hstage]

include hw hactive hq hstage in
theorem mxNext_queued : mxNext s core = some (k, e) := by
  simp [mxNext, mxRunning, isHead, headOp, MxEntry.pos, hq, hstage, hw, hactive]

end OneOperation

/-- A core whose matrix queue has lost an entry. -/
def withoutMx (k : Nat) (c : Core) : Core := { c with mxq := del c.mxq k }

/-- An operation that leaves the queue of a workgroup which has not retired. -/
theorem dropMx_resident {s : State} {wg : Nat} {w : Workgroup} (hw : wgAt s wg = some w) (hretired : w.retired = false) (core k : Nat) :
    dropMx s core k wg = modCore s core (withoutMx k) := by
  have h (f : Core → Core) : wgAt (modCore s core f) wg = some w := hw
  simp only [dropMx, h, hretired, Bool.false_and, Bool.false_eq_true, if_false]
  rfl

theorem coreAt_modCore_same (s : State) (c : Nat) (f : Core → Core) : coreAt (modCore s c f) c = f (coreAt s c) := coreAt_setCore_same s c _

theorem coreAt_endIssue (s : State) (n c : Nat) : coreAt (endIssue s n) c = coreAt s c := by
  rw [coreAt, sameOutside_cores (sameOutside_endIssue s n), coreAt]

/-- Rows that no error has struck are met as they are (R379). -/
theorem meetRows_clean {s : State} {wg tile row : Nat} {w : Workgroup} (hw : wgAt s wg = some w) (h : (tileOf w tile).struck.contains row = false)
    (core k : Nat) (e : MxEntry) : meetRows core k e wg tile [row] s = s := by
  have hit : (tileOf w tile).struck.filter [row].contains = [] := by
    rw [List.filter_eq_nil_iff]
    intro x hx hc
    rw [List.contains_iff_mem, List.mem_singleton] at hc
    rw [hc, ← List.contains_iff_mem, h] at hx
    cases hx
  simp only [meetRows, hw, hit, if_true]

/-! ## MX_ELEMENT_ACCESS (R256, R257) -/

section
variable {s : State} {core k tile : Nat} {e : MxEntry} {w : Workgroup} {x : MxElem} {th : Thread}

/-- The value that an MXRD reads: the row's token, or the element (R256). -/
def elemRead (t : Tile) (x : MxElem) : RegVal :=
  match look t.rowPoison x.row with
  | some tok => .bad tok
  | none => .clean (tileGet t x.row x.col)

/-- A thread with an MXRD's element landed. -/
def elemLanded (x : MxElem) (v : RegVal) (th : Thread) : Thread :=
  { setReg th x.dst v with pending := th.pending.filter (fun r => r ≠ x.dst), mxc := th.mxc - 1 }

theorem landElem_live (ht : thOf s x.th = some th) (hs : th.serial = x.serial) (v : RegVal) : landElem s x v = modTh s x.th (elemLanded x v) := by
  have hpend (th : Thread) : (setReg th x.dst v).pending = th.pending := by unfold setReg; split <;> rfl
  have hmxc (th : Thread) : (setReg th x.dst v).mxc = th.mxc := by unfold setReg; split <;> rfl
  simp only [landElem, liveTh, ht, hs, if_true, hpend, hmxc]
  rfl

theorem readElem_live (hw : wgAt s e.wg = some w) (ht : thOf s x.th = some th) (hs : th.serial = x.serial) :
    readElem e.wg tile s x = modTh s x.th (elemLanded x (elemRead (tileOf w tile) x)) := by
  simp only [readElem, hw]
  exact landElem_live ht hs _

theorem writeElem_live (hw : wgAt s e.wg = some w) (ht : thOf s x.th = some th) (hs : th.serial = x.serial) :
    ∃ t, t.elems = (tileSet (tileOf w tile) x.row x.col x.data).elems
      ∧ writeElem e.wg tile s x = modTh (setTile s e.wg tile t) x.th fun th => { th with mxc := th.mxc - 1 } := by
  refine ⟨{ resum (tileSet (tileOf w tile) x.row x.col x.data) [x.row] [x.col] with replayable := false }, rfl, ?_⟩
  have ht' (t : Tile) : thOf (setTile s e.wg tile t) x.th = some th := ht
  simp only [writeElem, hw, liveTh, ht', hs, if_true]

variable (hw : wgAt s e.wg = some w) (hactive : wgActive s w = true) (hretired : w.retired = false) (hq : (coreAt s core).mxq = [(k, e)])
  (hstage : e.stage = .queued) (ht : thOf s x.th = some th) (hs : th.serial = x.serial)

include hw hactive hretired hq hstage ht hs

theorem mxrd_reaches (hkind : e.kind = .rd tile [x]) (hclean : (tileOf w tile).struck.contains x.row = false) :
    ∃ u, exec (.mxElementAccess core) s = .next u ∧ thOf u x.th = some (elemLanded x (elemRead (tileOf w tile) x) th)
      ∧ (coreAt u core).mxq = [] ∧ u.wgs = s.wgs ∧ u.mem = s.mem := by
  let t := modTh s x.th (elemLanded x (elemRead (tileOf w tile) x))
  have hwt : wgAt t e.wg = some w := hw
  have hend := sameOutside_endIssue (modCore t core (withoutMx k)) e.issue
  refine ⟨endIssue (modCore t core (withoutMx k)) e.issue, ?_, ?_, ?_, (sameOutside_wgs hend).trans rfl, (sameOutside_mem hend).trans rfl⟩
  · change execMxElementAccess core s = _
    simp only [execMxElementAccess, releaseHeld_queued hq hstage, mxNext_queued hw hactive hq hstage, hkind, List.map_cons, List.map_nil,
      meetRows_clean hw hclean, List.foldl_cons, List.foldl_nil, readElem_live hw ht hs]
    rw [dropMx_resident hwt hretired]
  · rw [thOf_endIssue]
    exact (thOf_modTh_same ..).trans (congrArg (Option.map _) ht)
  · have hqt : (coreAt t core).mxq = [(k, e)] := hq
    rw [coreAt_endIssue, coreAt_modCore_same]
    simp [withoutMx, hqt, del]

theorem mxwr_reaches (hkind : e.kind = .wr tile [x]) (htile : tile < w.tiles.length) (hcol : x.col < 128)
    (hrise : rising (tileOf w tile).elems = true) :
    ∃ u w', exec (.mxElementAccess core) s = .next u ∧ wgAt u e.wg = some w'
      ∧ (∀ i j, j < 128 → tileGet (tileOf w' tile) i j = if i = x.row ∧ j = x.col then x.data else tileGet (tileOf w tile) i j)
      ∧ thOf u x.th = some { th with mxc := th.mxc - 1 } ∧ (coreAt u core).mxq = [] ∧ w'.spad = w.spad ∧ u.mem = s.mem := by
  obtain ⟨tl, helems, hwrite⟩ := writeElem_live (tile := tile) hw ht hs
  let w' : Workgroup := { w with tiles := w.tiles.set tile tl }
  let t := modTh (setTile s e.wg tile tl) x.th fun th => { th with mxc := th.mxc - 1 }
  have hwt : wgAt t e.wg = some w' := wgAt_setTile hw tile tl
  have hget (i j : Nat) : tileGet tl i j = tileGet (tileSet (tileOf w tile) x.row x.col x.data) i j := by rw [tileGet, helems, tileGet]
  have hend := sameOutside_endIssue (modCore t core (withoutMx k)) e.issue
  refine ⟨endIssue (modCore t core (withoutMx k)) e.issue, w', ?_, ?_, fun i j hj => ?_, ?_, ?_, rfl, (sameOutside_mem hend).trans rfl⟩
  · change execMxElementAccess core s = _
    simp only [execMxElementAccess, releaseHeld_queued hq hstage, mxNext_queued hw hactive hq hstage, hkind, List.foldl_cons, List.foldl_nil,
      hwrite]
    rw [dropMx_resident hwt hretired]
  · rw [sameOutside_wgAt hend]
    exact hwt
  · rw [tileOf_set tl htile, hget]
    split
    · next hhere => rw [hhere.1, hhere.2, tileGet_tileSet_same _ _ _ hrise]
    · next hne => exact tileGet_tileSet_other _ hrise hcol hj hne
  · rw [thOf_endIssue]
    exact (thOf_modTh_same ..).trans (congrArg (Option.map _) ht)
  · have hqt : (coreAt t core).mxq = [(k, e)] := hq
    rw [coreAt_endIssue, coreAt_modCore_same]
    simp [withoutMx, hqt, del]

end

/-! ## MX_OP_COMPLETE (R232, R236, R260) -/

theorem advancePhase_tiles {s : State} {e : MxEntry} {w : Workgroup} (hw : wgAt s e.wg = some w) :
    ∃ ts, advancePhase s e = { s with wgs := put s.wgs e.wg { w with tiles := ts } } := by
  have hstays : s = { s with wgs := put s.wgs e.wg { w with tiles := w.tiles } } := by rw [put_look s.wgs e.wg w hw]
  unfold advancePhase
  split
  · next w' _ hw' =>
    obtain rfl : w = w' := Option.some.inj (hw.symm.trans hw')
    simp only
    split
    · exact ⟨_, by rw [setTile, modWg_eq_put hw]⟩
    · exact ⟨w.tiles, hstays⟩
  · exact ⟨w.tiles, hstays⟩

theorem finish_next {t : Timeline} (h : t.complete = []) : t.finish (t.done + 1) = { t with done := t.done + 1 } := by
  simp [Timeline.finish, advance, h]

theorem markDue_cores (s : State) (wg tl : Nat) : onlyCores s (markDue s wg tl) := by
  unfold markDue
  split
  · rfl
  · simp only
    split <;> rfl

theorem mxq_markDue (s : State) (wg tl c : Nat) : (coreAt (markDue s wg tl) c).mxq = (coreAt s c).mxq := by
  unfold markDue
  split
  · rfl
  · next w _ =>
    simp only
    split
    · by_cases hc : c = w.core
      · rw [hc, coreAt_modCore_same]
      · rw [modCore, coreAt_setCore_other _ _ hc]
    · rfl

/-- Of two entries written for a key the later one stands. -/
theorem put_put {α : Type} (m : NMap α) (i : Nat) (x y : α) : put (put m i x) i y = put m i y := by
  induction m with
  | nil => simp [put]
  | cons p m ih =>
    obtain ⟨k, v⟩ := p
    simp only [put]
    split
    · simp [put]
    · split
      · simp [put]
      · next hne hlt => simp [put, hne, hlt, ih]

section
variable {s : State} {core k : Nat} {e : MxEntry} {w : Workgroup} {th : Thread} {a tl num r : Nat}

/-- The state in which an operation's phase and record are written, its entry is gone, and its thread's MXC has fallen. -/
def recorded (s : State) (core k : Nat) (e : MxEntry) (w : Workgroup) : State :=
  modTh (modCore { s with wgs := put s.wgs e.wg w } core (withoutMx k)) e.th fun th => { th with mxc := th.mxc - 1 }

variable (hw : wgAt s e.wg = some w) (hretired : w.retired = false) (hlook : look (coreAt s core).mxq k = some e) (hkind : e.kind = .go a tl num)
  (hevent : e.event = none) (hcrec : e.crec = some r) (hclean : w.spadPoison = []) (ht : thOf s e.th = some th) (hs : th.serial = e.serial)

include hw hretired hlook hkind hevent hcrec hclean ht hs in
/-- The completion of an operation that met no event (R232, R236). -/
theorem completeMx_quiet :
    ∃ ts v, v = withSpad { w with tiles := ts } r (leBytes 16 (recordBits num e.res).toNat)
      ∧ completeMx s core k = endIssue (completeNumber (recorded s core k e v) e.wg tl num) e.issue := by
  obtain ⟨ts, hphase⟩ := advancePhase_tiles hw
  refine ⟨ts, _, rfl, ?_⟩
  have hres : withEvent e = e.res := by simp only [withEvent, hevent]
  have hwrite := writeLoc_spad_clean (s := { s with wgs := put s.wgs e.wg { w with tiles := ts } }) (look_put_same ..) hclean true r
    (leBytes 16 (recordBits num e.res).toNat)
  simp only [put_put] at hwrite
  have hv : (withSpad { w with tiles := ts } r (leBytes 16 (recordBits num e.res).toNat)).retired = false := hretired
  generalize withSpad { w with tiles := ts } r (leBytes 16 (recordBits num e.res).toNat) = v at hwrite hv ⊢
  have hlive (f : Core → Core) : liveTh (modCore { s with wgs := put s.wgs e.wg v } core f) e.th e.serial = some th := by
    have hth : thOf (modCore { s with wgs := put s.wgs e.wg v } core f) e.th = some th := ht
    simp only [liveTh, hth, hs, if_true]
  have hdrop := dropMx_resident (s := { s with wgs := put s.wgs e.wg v }) (look_put_same ..) hv core k
  simp only [completeMx, hlook, hkind, hphase, hcrec, hevent, hres, hwrite, hdrop, hlive]
  rfl

theorem mxOpComplete_started (hlook : look (coreAt s core).mxq k = some e) (hw : wgAt s e.wg = some w) (hactive : wgActive s w = true)
    (hstage : e.stage = .started) (hfused : e.fusedWith = none) (hops : s.ops = []) (hacks : s.acks = []) :
    exec (.mxOpComplete core k) s = .next (completeMx s core k) := by
  change execMxOpComplete core k s = _
  simp [execMxOpComplete, hlook, wgSaved, hw, hactive, mxDone, hstage, mxOutstanding, hops, hacks, hfused]

theorem mxOpComplete_reaches (hw : wgAt s e.wg = some w) (hactive : wgActive s w = true) (hretired : w.retired = false)
    (hlook : look (coreAt s core).mxq k = some e) (hkind : e.kind = .go a tl num) (hstage : e.stage = .started) (hfused : e.fusedWith = none)
    (hops : s.ops = []) (hacks : s.acks = []) (hevent : e.event = none) (hcrec : e.crec = some r) (hclean : w.spadPoison = [])
    (hwf : memWf w.spad = true) (ht : thOf s e.th = some th) (hs : th.serial = e.serial) (htl : tl < w.tls.length)
    (hcomplete : (timelineAt w tl).complete = []) (hnum : num = (timelineAt w tl).done + 1) :
    ∃ u w', exec (.mxOpComplete core k) s = .next u ∧ wgAt u e.wg = some w'
      ∧ memGetN w'.spad r 16 = leBytes 16 (recordBits num e.res).toNat
      ∧ (∀ x, (x < r ∨ r + 16 ≤ x) → memGet w'.spad x = memGet w.spad x)
      ∧ timelineAt w' tl = { timelineAt w tl with done := num } ∧ thOf u e.th = some { th with mxc := th.mxc - 1 }
      ∧ (coreAt u core).mxq = del (coreAt s core).mxq k ∧ u.mem = s.mem := by
  obtain ⟨ts, v, hv, hdoes⟩ := completeMx_quiet hw hretired hlook hkind hevent hcrec hclean ht hs
  let t := modTl (recorded s core k e v) e.wg tl fun t => t.finish num
  let v' : Workgroup := { v with tls := modAt v.tls tl fun t => t.finish num }
  have hwt : wgAt t e.wg = some v' := by
    have hwv : wgAt (recorded s core k e v) e.wg = some v := look_put_same ..
    exact (wgAt_modWg_same ..).trans (congrArg (Option.map _) hwv)
  have hcores := markDue_cores t e.wg tl
  have hend := sameOutside_endIssue (markDue t e.wg tl) e.issue
  have hspad : v'.spad = memSetN w.spad r (leBytes 16 (recordBits num e.res).toNat) := by subst hv; rfl
  have hfields : (markDue t e.wg tl).wgs = t.wgs ∧ (markDue t e.wg tl).threads = t.threads ∧ (markDue t e.wg tl).mem = t.mem := by
    unfold onlyCores at hcores
    rw [hcores]
    exact ⟨rfl, rfl, rfl⟩
  obtain ⟨hwgs, hthreads, hmem⟩ := hfields
  refine ⟨endIssue (markDue t e.wg tl) e.issue, v', ?_, ?_, ?_, fun x hx => ?_, ?_, ?_, ?_, ?_⟩
  · rw [mxOpComplete_started hlook hw hactive hstage hfused hops hacks, hdoes]
    rfl
  · rw [sameOutside_wgAt hend, wgAt, hwgs]
    exact hwt
  · have hback := memGetN_memSetN (leBytes 16 (recordBits num e.res).toNat) r hwf
    rwa [length_leBytes, ← hspad] at hback
  · rw [hspad]
    exact memGet_memSetN_outside _ hwf (by rwa [length_leBytes])
  · have htls : v.tls = w.tls := by subst hv; rfl
    have hat : timelineAt v' tl = (timelineAt w tl).finish num := by
      change ((modAt v.tls tl _)[tl]?).getD _ = _
      rw [getElem?_modAt_same, htls, timelineAt, List.getElem?_eq_getElem htl]
      rfl
    rw [hat, hnum, finish_next hcomplete]
  · rw [thOf_endIssue, thOf, hthreads]
    exact (thOf_modTh_same ..).trans (congrArg (Option.map _) ht)
  · rw [coreAt_endIssue, mxq_markDue]
    exact congrArg Core.mxq (coreAt_modCore_same ..)
  · rw [sameOutside_mem hend, hmem]
    rfl

end

/-! ## TANDEM_TIMEOUT (R246) -/

section
variable {s : State} {core k c n : Nat} {e : MxEntry} {w : Workgroup} (hw : wgAt s e.wg = some w) (hactive : wgActive s w = true)
  (hlook : look (coreAt s core).mxq k = some e) (hstage : e.stage = .held c) (hindex : e.index = some n)

include hw hlook hstage hindex in
theorem exec_tandemTimeout_early (h : s.now < c + 4096) : exec (.tandemTimeout core k) s = .next s := by
  change execTandemTimeout core k s = _
  simp [execTandemTimeout, hlook, hstage, hindex, hw, h]

include hw hactive hlook hstage hindex in
theorem tandemTimeout_reaches {p : Nat} {pw : Workgroup} (h : c + 4096 ≤ s.now) (hpartner : partnerOf s w = some (p, pw))
    (harrived : partnerArrived s core p n (c + 4096) = false) (hp : wgAt s p = some pw) :
    ∃ u, exec (.tandemTimeout core k) s = .next u
      ∧ look (coreAt u core).mxq k = some { e with stage := .ready, res := { e.res with partner := true, mismatch := false } }
      ∧ wgAt u p = some { pw with soloPartner := pw.soloPartner ++ [n] } ∧ u.mem = s.mem := by
  refine ⟨modWg (runSolo s core k true false) p fun x => { x with soloPartner := x.soloPartner ++ [n] }, ?_, ?_, ?_, rfl⟩
  · change execTandemTimeout core k s = _
    simp only [execTandemTimeout, hlook, hstage, hindex, hw, hactive, Nat.not_lt.mpr h, hpartner, harrived, Bool.not_true, Bool.false_eq_true,
      decide_false, Bool.or_false, if_false]
  · change look (coreAt (modMx s core k _) core).mxq k = _
    rw [modMx, coreAt_modCore_same, look_alter_same, hlook]
    rfl
  · exact (wgAt_modWg_same ..).trans (congrArg (Option.map _) hp)

end

/-- Settles O44: each step of the queue by the lemma that says what it does. -/
theorem matrixQueueSteps : Obligations.MatrixQueueSteps := by
  refine fun s core k e w hw hactive hretired => ⟨?rd, ?wr, ?done, ?held⟩
  case rd =>
    exact fun tile x th hq hstage hkind ht hs hclean => mxrd_reaches hw hactive hretired hq hstage ht hs hkind hclean
  case wr =>
    exact fun tile x th hq hstage hkind ht hs htile hcol hrise => mxwr_reaches hw hactive hretired hq hstage ht hs hkind htile hcol hrise
  case done =>
    exact fun a tl num th r hlook hkind hstage hfused hops hacks hevent hcrec _ hclean hwf ht hs htl hcomplete hnum =>
      mxOpComplete_reaches hw hactive hretired hlook hkind hstage hfused hops hacks hevent hcrec hclean hwf ht hs htl hcomplete hnum
  case held =>
    exact fun c n hlook hstage hindex => ⟨exec_tandemTimeout_early hw hlook hstage hindex,
      fun p pw h hpartner harrived hp _ => tandemTimeout_reaches hw hactive hlook hstage hindex h hpartner harrived hp⟩

end Sys2Proof.Machine
end

section
/-! PROOFS. A cohort's placement and a core's reservation (R33, R39, R333, R338 to R340). -/

namespace Sys2Proof.Machine

/-! ## The core that a cohort takes does not depend on when its launch was last unblocked (R338, R339) -/

/-- A launch whose next cohort could be placed at a moment. -/
def notedAt (l : Launch) (now : Nat) : Launch := { l with blockedSince := now }

/-- The state with one launch, noted as unblocked now. -/
def unblocked (s : State) (k : Nat) (l : Launch) : State := { s with launches := [(k, notedAt l s.now)] }

theorem launchLive_unblocked {s : State} {k : Nat} {l : Launch} (h : s.launches = [(k, l)]) (j : Nat) :
    launchLive (unblocked s k l) j = launchLive s j := by
  by_cases hj : j = k
  · simp [launchLive, unblocked, notedAt, h, look, hj]
  · simp [launchLive, unblocked, h, look, hj]

theorem taskFits_unblocked {s : State} {k : Nat} {l : Launch} (h : s.launches = [(k, l)]) (core : Nat) (t : Task) :
    taskFits (unblocked s k l) core t = taskFits s core t := by
  unfold taskFits
  rw [launchLive_unblocked h]
  rfl

theorem searchFinds_unblocked {s : State} {k : Nat} {l : Launch} (h : s.launches = [(k, l)]) (core : Nat) :
    searchFinds (unblocked s k l) core = searchFinds s core := by
  have hvisit : visitTakes (unblocked s k l) core = visitTakes s core := by
    funext x
    unfold visitTakes
    rw [funext (taskFits_unblocked h core)]
    rfl
  exact congrArg (searchOrder core).findSome? hvisit

theorem ownStarts_unblocked {s : State} {k : Nat} {l : Launch} (h : s.launches = [(k, l)]) (core : Nat) :
    ownStarts (unblocked s k l) core = ownStarts s core := by
  unfold ownStarts
  rw [funext (taskFits_unblocked h core)]
  rfl

theorem canStartTask_unblocked {s : State} {k : Nat} {l : Launch} (h : s.launches = [(k, l)]) (core : Nat) :
    canStartTask (unblocked s k l) core = canStartTask s core := by
  unfold canStartTask searchDue
  rw [searchFinds_unblocked h, ownStarts_unblocked h]
  rfl

theorem placeable_unblocked {s : State} {k : Nat} {l : Launch} (h : s.launches = [(k, l)]) :
    placeable (unblocked s k l) k (notedAt l s.now) = placeable s k l := by
  have htakes : coreTakes (unblocked s k l) k (notedAt l s.now) = coreTakes s k l := by
    funext core
    unfold coreTakes
    rw [canStartTask_unblocked h]
    rfl
  unfold placeable
  rw [htakes]
  rfl

theorem noteUnblocked_sole {s : State} {k : Nat} {l : Launch} {c : Nat} (h : s.launches = [(k, l)]) (hc : placeable s k l = some c) :
    noteUnblocked s = unblocked s k l := by
  simp [noteUnblocked, unblocked, notedAt, h, hc]

/-! ## The cohort fits the core that it takes (R338) -/

theorem mostFree_mem (free : Nat → Nat) {xs : List Nat} {c : Nat} (h : mostFree free xs = some c) : c ∈ xs := by
  induction xs generalizing c with
  | nil => cases h
  | cons x xs ih =>
    simp only [mostFree] at h
    split at h
    · cases h
      exact List.mem_cons_self
    next y hy =>
      split at h <;> cases h
      · exact List.mem_cons_of_mem x (ih hy)
      · exact List.mem_cons_self

theorem pickCore_fits {s : State} {l : Launch} {counts : Workgroup → Bool} {fits : Nat → Bool} {c : Nat}
    (h : pickCore s l counts fits = some c) : fits c = true := by
  unfold pickCore at h
  extract_lets sum die at h
  generalize die = d at h
  cases d with
  | none => cases h
  | some d =>
    dsimp only at h
    split at h
    · cases h
    · exact (List.mem_filter.mp (mostFree_mem _ h)).2

theorem fitCohort_of_placeable {s : State} {k : Nat} {l : Launch} {c : Nat} (h : placeable s k l = some c) :
    ∃ fs, fitCohort (occOf s c fun _ => true) l.hdr (cohortSize l) = some fs := by
  unfold placeable at h
  split at h
  · have hfits := pickCore_fits h
    simp only [coreTakes, Bool.and_eq_true] at hfits
    exact Option.isSome_iff_exists.mp hfits.2
  · cases h

theorem length_fitAll (h : Header) (paired : Bool) (n : Nat) {o : Occ} {fs : List (Nat × Nat)} (e : fitAll o h paired n = some fs) :
    fs.length = n := by
  induction n generalizing o fs with
  | zero => cases e; rfl
  | succ n ih =>
    simp only [fitAll] at e
    split at e
    · cases e
    · obtain ⟨gs, hgs, rfl⟩ := Option.map_eq_some_iff.mp e
      exact congrArg Nat.succ (ih hgs)

theorem length_fitCohort {o : Occ} {h : Header} {n : Nat} {fs : List (Nat × Nat)} (e : fitCohort o h n = some fs) : fs.length = n := by
  unfold fitCohort at e
  split at e
  · cases e
  · exact length_fitAll h true n e

/-! ## What a placement changes -/

/-- Nothing changed but workgroups, threads, and their numbers. -/
def onlyPlaces (s u : State) : Prop :=
  u = { s with wgs := u.wgs, threads := u.threads, nextWg := u.nextWg, nextSerial := u.nextSerial }

theorem onlyPlaces_refl (s : State) : onlyPlaces s s := rfl

theorem onlyPlaces_trans {s t u : State} (h : onlyPlaces s t) (k : onlyPlaces t u) : onlyPlaces s u := by
  unfold onlyPlaces at *
  rw [k, h]

theorem onlyPlaces_startThread (s : State) (k i : Nat) (e : DWord) : onlyPlaces s (startThread s k i e) := by
  unfold startThread
  split <;> rfl

theorem nextWg_startThread (s : State) (k i : Nat) (e : DWord) : (startThread s k i e).nextWg = s.nextWg := by
  unfold startThread
  split <;> rfl

theorem onlyPlaces_placeWorkgroup (s : State) (w : Workgroup) (e : DWord) : onlyPlaces s (placeWorkgroup s w e) :=
  onlyPlaces_trans (t := { s with wgs := put s.wgs s.nextWg w, nextWg := s.nextWg + 1 }) rfl
    (foldl_rel onlyPlaces_refl onlyPlaces_trans (fun s i => onlyPlaces_startThread s _ i e) _ _)

theorem nextWg_placeWorkgroup (s : State) (w : Workgroup) (e : DWord) : (placeWorkgroup s w e).nextWg = s.nextWg + 1 :=
  foldl_keeps (P := fun u => u.nextWg = s.nextWg + 1) (fun u i h => (nextWg_startThread u _ i e).trans h) _ _ rfl

theorem onlyPlaces_placeAll (core k : Nat) (l : Launch) (fs : List (Nat × Nat)) (s : State) (g : Nat) :
    onlyPlaces s (placeAll s core k l g fs) := by
  induction fs generalizing s g with
  | nil => exact onlyPlaces_refl s
  | cons f fs ih => exact onlyPlaces_trans (onlyPlaces_placeWorkgroup ..) (ih ..)

/-! ## A workgroup that stands, with its threads at their start (R39, R333) -/

/-- Workgroup `w` of launch `k`, of work number `g`, as it is placed on a core. -/
def placedAs (core k : Nat) (l : Launch) (now g : Nat) (w : Workgroup) : Prop :=
  w.core = core ∧ w.launch = k ∧ w.g = g ∧ w.hdr = l.hdr ∧ w.part = l.part ∧ w.arg = l.recd.args ∧ w.age = now ∧ w.saved = false

/-- A thread at the kernel's entry with its own work identifier. -/
def startedAs (l : Launch) (now g i : Nat) (th : Thread) : Prop :=
  th.span = l.hdr.entry ∧ th.off = 0 ∧ th.cond = .ready now 0 ∧ th.wid = BitVec.ofNat 64 (g * 2 ^ (l.hdr.workid.headD 0) + i)

/-- Workgroup `m` stands on its core, whether or not its threads are started. -/
def wgStands (core k : Nat) (l : Launch) (now m g : Nat) (s : State) : Prop :=
  s.now = now ∧ ∃ w, wgAt s m = some w ∧ placedAs core k l now g w

/-- Workgroup `m` stands, and its thread `i` is started. -/
def threadStands (core k : Nat) (l : Launch) (now m g i : Nat) (s : State) : Prop :=
  wgStands core k l now m g s ∧ ∃ th, thOf s (tidOf m i) = some th ∧ startedAs l now g i th

/-- Workgroup `m` stands, and all its threads are started. -/
def allStand (core k : Nat) (l : Launch) (now m g : Nat) (s : State) : Prop :=
  wgStands core k l now m g s ∧ ∀ i, i < l.hdr.width * l.hdr.depth → threadStands core k l now m g i s

section
variable {core k now m g : Nat} {l : Launch}

theorem startedAs_newThread {s : State} {w : Workgroup} (hw : placedAs core k l now g w) (hn : s.now = now) (i : Nat) :
    startedAs l now g i (newThread s w i l.hdr.entry) := by
  obtain ⟨-, -, hg, hh, -⟩ := hw
  subst hn hg
  unfold startedAs
  rw [← hh]
  exact ⟨rfl, rfl, rfl, rfl⟩

theorem wgStands_startThread (s : State) (j i : Nat) (e : DWord) (h : wgStands core k l now m g s) :
    wgStands core k l now m g (startThread s j i e) := by
  obtain ⟨hn, w, hw, hp⟩ := h
  unfold startThread
  split
  · exact ⟨hn, w, hw, hp⟩
  · refine ⟨hn, ?_⟩
    change ∃ w, wgAt (modWg s j _) m = some w ∧ _
    rw [wgAt_modWg]
    split
    next hj =>
      rw [← hj, hw]
      exact ⟨_, rfl, hp⟩
    · exact ⟨w, hw, hp⟩

theorem threadStands_startThread_same (s : State) (i : Nat) (h : wgStands core k l now m g s) :
    threadStands core k l now m g i (startThread s m i l.hdr.entry) := by
  refine ⟨wgStands_startThread s m i _ h, ?_⟩
  obtain ⟨hn, w, hw, hp⟩ := h
  simp only [startThread, hw]
  exact ⟨_, look_put_same .., startedAs_newThread hp hn i⟩

theorem threadStands_startThread_other {i j b : Nat} (s : State) (e : DWord) (hne : tidOf m i ≠ tidOf j b) (h : threadStands core k l now m g i s) :
    threadStands core k l now m g i (startThread s j b e) := by
  obtain ⟨hw, th, hth, hs⟩ := h
  refine ⟨wgStands_startThread s j b e hw, th, ?_, hs⟩
  unfold startThread
  split
  · exact hth
  · exact (look_put_other _ _ hne).trans hth

theorem allStand_startThreads {j : Nat} (hlt : m < j) (hsz : l.hdr.width * l.hdr.depth ≤ 2048) (e : DWord) (xs : List Nat) (s : State)
    (h : allStand core k l now m g s) : allStand core k l now m g (xs.foldl (fun s b => startThread s j b e) s) := by
  refine foldl_keeps (fun s b h => ?_) xs s h
  refine ⟨wgStands_startThread s j b e h.1, fun i hi => threadStands_startThread_other s e ?_ (h.2 i hi)⟩
  unfold tidOf
  omega

theorem allStand_placeWorkgroup_new (s : State) (w : Workgroup) (hw : placedAs core k l now g w) (hn : s.now = now) :
    allStand core k l now s.nextWg g (placeWorkgroup s w l.hdr.entry) := by
  have hstart : wgStands core k l now s.nextWg g { s with wgs := put s.wgs s.nextWg w, nextWg := s.nextWg + 1 } :=
    ⟨hn, w, look_put_same .., hw⟩
  have hkeep (u : State) (b : Nat) : wgStands core k l now s.nextWg g u → wgStands core k l now s.nextWg g (startThread u s.nextWg b l.hdr.entry) :=
    wgStands_startThread u _ b _
  refine ⟨foldl_keeps hkeep _ _ hstart, fun i hi => ?_⟩
  have hmem : i ∈ List.range (w.hdr.width * w.hdr.depth) := by
    obtain ⟨-, -, -, hh, -⟩ := hw
    rw [hh]
    exact List.mem_range.mpr hi
  refine foldl_reaches hmem (fun u => threadStands_startThread_same u i) (fun u b h => ?_) hkeep _ hstart
  by_cases hb : b = i
  · subst hb
    exact threadStands_startThread_same u b h.1
  · refine threadStands_startThread_other u _ ?_ h
    unfold tidOf
    omega

theorem allStand_placeWorkgroup_old (s : State) (w : Workgroup) (e : DWord) (hlt : m < s.nextWg) (hsz : l.hdr.width * l.hdr.depth ≤ 2048)
    (h : allStand core k l now m g s) : allStand core k l now m g (placeWorkgroup s w e) := by
  refine allStand_startThreads hlt hsz e _ _ ?_
  have hwg (h : wgStands core k l now m g s) : wgStands core k l now m g { s with wgs := put s.wgs s.nextWg w, nextWg := s.nextWg + 1 } := by
    obtain ⟨hn, x, hx, hp⟩ := h
    exact ⟨hn, x, (look_put_other _ _ (Nat.ne_of_lt hlt)).trans hx, hp⟩
  exact ⟨hwg h.1, fun i hi => ⟨hwg h.1, (h.2 i hi).2⟩⟩

theorem allStand_placeAll_old (hsz : l.hdr.width * l.hdr.depth ≤ 2048) (fs : List (Nat × Nat)) {s : State} (g' : Nat) (hlt : m < s.nextWg)
    (h : allStand core k l now m g s) : allStand core k l now m g (placeAll s core k l g' fs) := by
  induction fs generalizing s g' with
  | nil => exact h
  | cons f fs ih =>
    exact ih (g' + 1) (by rw [nextWg_placeWorkgroup]; omega) (allStand_placeWorkgroup_old s _ _ hlt hsz h)

/-- Every workgroup of a cohort stands once all are placed (R33, R333). -/
theorem allStand_placeAll (hsz : l.hdr.width * l.hdr.depth ≤ 2048) (fs : List (Nat × Nat)) {s : State} (g : Nat) (hn : s.now = now) {j : Nat}
    (hj : j < fs.length) : allStand core k l now (s.nextWg + j) (g + j) (placeAll s core k l g fs) := by
  induction fs generalizing s g j with
  | nil => cases hj
  | cons f fs ih =>
    have hnew : placedAs core k l now g (newWorkgroup s core f k l.part l.hdr g l.recd.args true none false) :=
      ⟨rfl, rfl, rfl, rfl, rfl, rfl, hn, rfl⟩
    have hnext := nextWg_placeWorkgroup s (newWorkgroup s core f k l.part l.hdr g l.recd.args true none false) l.hdr.entry
    unfold placeAll
    cases j with
    | zero => exact allStand_placeAll_old hsz fs (g + 1) (by rw [hnext]; omega) (allStand_placeWorkgroup_new s _ hnew hn)
    | succ j =>
      have hframe := onlyPlaces_placeWorkgroup s (newWorkgroup s core f k l.part l.hdr g l.recd.args true none false) l.hdr.entry
      have hnow : (placeWorkgroup s (newWorkgroup s core f k l.part l.hdr g l.recd.args true none false) l.hdr.entry).now = now := by
        unfold onlyPlaces at hframe
        rw [hframe]
        exact hn
      have hlater := ih (g + 1) hnow (Nat.lt_of_succ_lt_succ hj)
      rw [hnext] at hlater
      rw [show s.nextWg + (j + 1) = s.nextWg + 1 + j by omega, show g + (j + 1) = g + 1 + j by omega]
      exact hlater

end

/-! ## COHORT_PLACE (R338, R340) -/

theorem scheduleFrom_of_no_level {s : State} {ps : List Nat} (h : ∀ p, levelOf s p = []) : scheduleFrom s ps = s := by
  induction ps with
  | nil => rfl
  | cons p ps ih =>
    unfold scheduleFrom
    rw [h p]
    exact ih

theorem scheduleFrom_sole {s : State} {p : Nat} {e : Nat × Launch × Nat} {ps : List Nat} (hp : p ∈ ps) (hl : levelOf s p = [e])
    (hno : ∀ q, q ≠ p → levelOf s q = []) : scheduleFrom s ps = placeAtLevel s p [e] := by
  induction ps with
  | nil => cases hp
  | cons q ps ih =>
    unfold scheduleFrom
    by_cases hq : q = p
    · rw [hq, hl]
    · rw [hno q hq]
      exact ih ((List.mem_cons.mp hp).resolve_left (Ne.symm hq))

theorem levelOf_sole {s : State} {k c : Nat} {l : Launch} (h : s.launches = [(k, l)]) (hc : placeable s k l = some c) (p : Nat) :
    levelOf s p = if l.recd.prio = p then [(k, l, c)] else [] := by
  by_cases hp : l.recd.prio = p
  · simp [levelOf, h, hc, hp]
  · simp [levelOf, h, hp]

/-- A queue without a debt is served at once, its deficit as it was (R340). -/
theorem placeAtLevel_sole {s : State} {k c : Nat} {l : Launch} (p : Nat) (hd : 0 ≤ (queueAt s l.queue).deficit) :
    placeAtLevel s p [(k, l, c)] =
      { placeCohort (giveQuanta s [l.queue] 0) c k l with roundPtr := s.roundPtr.set p ((l.queue + 1) % 16384) } := by
  have hrounds : roundsFor s [l.queue] = 0 := by
    simp only [roundsFor]
    exact Nat.div_eq_of_lt (by omega)
  have hok : 0 ≤ (queueAt (giveQuanta s [l.queue] 0) l.queue).deficit := by
    simp only [giveQuanta, List.foldl, modQueue, queueAt, lookD_put_same]
    simpa [queueAt] using hd
  have hrobin (ptr : Nat) : roundRobin (giveQuanta s [l.queue] 0) ptr [l.queue] = some l.queue := by
    by_cases hptr : ptr ≤ l.queue
    · simp [roundRobin, hok, hptr]
    · simp [roundRobin, hok, hptr]
  simp [placeAtLevel, hrounds, hrobin]
  rfl

/-- A cohort that fits is placed, and its launch counts it (R33, R338). -/
theorem placeCohort_stands {s : State} {k c : Nat} {l : Launch} {fs : List (Nat × Nat)} (hl : look s.launches k = some l)
    (hfit : fitCohort (occOf s c fun _ => true) l.hdr (cohortSize l) = some fs) (hsz : l.hdr.width * l.hdr.depth ≤ 2048) :
    (placeCohort s c k l).mem = s.mem ∧ (∃ l', look (placeCohort s c k l).launches k = some l' ∧ l'.placed = l.placed + cohortSize l)
      ∧ ∀ j, j < cohortSize l → allStand c k l s.now (s.nextWg + j) (l.placed + j) (placeCohort s c k l) := by
  have hall := fun j (hj : j < cohortSize l) =>
    allStand_placeAll (core := c) (k := k) (now := s.now) hsz fs (s := dropSelfInv s c .pkg) l.placed rfl ((length_fitCohort hfit).symm ▸ hj)
  have hframe := onlyPlaces_placeAll c k l fs (dropSelfInv s c .pkg) l.placed
  have hlook : look (placeAll (dropSelfInv s c .pkg) c k l l.placed fs).launches k = some l := by
    unfold onlyPlaces at hframe
    rw [hframe]
    exact hl
  have hmem : (placeAll (dropSelfInv s c .pkg) c k l l.placed fs).mem = s.mem := by
    unfold onlyPlaces at hframe
    rw [hframe]
    rfl
  unfold placeCohort
  simp only [hfit]
  have hcount (F : Launch → Launch) : look (alter (placeAll (dropSelfInv s c .pkg) c k l l.placed fs).launches k F) k = some (F l) :=
    (look_alter_same ..).trans (congrArg (Option.map F) hlook)
  generalize placeAll (dropSelfInv s c .pkg) c k l l.placed fs = u at *
  split
  · exact ⟨hmem, ⟨_, hcount _, rfl⟩, hall⟩
  · exact ⟨hmem, ⟨_, hcount _, rfl⟩, hall⟩

theorem cohortPlace_stands {s : State} {k c : Nat} {l : Launch} (h : s.launches = [(k, l)]) (hc : placeable s k l = some c)
    (hp : l.recd.prio < 4) (hd : 0 ≤ (queueAt s l.queue).deficit) (hsz : l.hdr.width * l.hdr.depth ≤ 2048) :
    ∃ u, exec .cohortPlace s = .next u ∧ u.mem = s.mem ∧ (∃ l', look u.launches k = some l' ∧ l'.placed = l.placed + cohortSize l)
      ∧ ∀ j, j < cohortSize l → allStand c k l s.now (s.nextWg + j) (l.placed + j) u := by
  obtain ⟨fs, hfs⟩ := fitCohort_of_placeable hc
  have hlevel := levelOf_sole (s := unblocked s k l) rfl ((placeable_unblocked h).trans hc)
  have hsched : scheduleFrom (unblocked s k l) [0, 1, 2, 3] = placeAtLevel (unblocked s k l) l.recd.prio [(k, notedAt l s.now, c)] := by
    refine scheduleFrom_sole (p := l.recd.prio) (by simp; omega) ((hlevel _).trans (if_pos rfl)) fun q hq => ?_
    exact (hlevel q).trans (if_neg (Ne.symm hq))
  have hstands := placeCohort_stands (s := giveQuanta (unblocked s k l) [l.queue] 0) (l := notedAt l s.now) (look_put_same [] k _) hfs hsz
  have hserved := placeAtLevel_sole (s := unblocked s k l) (k := k) (c := c) (l := notedAt l s.now) l.recd.prio hd
  refine ⟨placeAtLevel (unblocked s k l) l.recd.prio [(k, notedAt l s.now, c)], congrArg Host.Outcome.next ?_, ?_⟩
  · rw [noteUnblocked_sole h hc, hsched]
  · rw [hserved]
    exact hstands

theorem cohortPlace_none {s : State} (h : ∀ k l, (k, l) ∈ s.launches → placeable s k l = none) : exec .cohortPlace s = .next s := by
  have hnote : noteUnblocked s = s := by
    have hmap : (s.launches.map fun (k, l) => (k, if (placeable s k l).isSome then { l with blockedSince := s.now } else l)) = s.launches := by
      refine (List.map_congr_left fun p hp => ?_).trans (List.map_id _)
      simp [h p.1 p.2 hp]
    unfold noteUnblocked
    rw [hmap]
  have hlevel (p : Nat) : levelOf s p = [] := by
    refine List.filterMap_eq_nil_iff.mpr fun e he => ?_
    simp [h e.1 e.2 he]
  change Host.Outcome.next _ = _
  rw [hnote, scheduleFrom_of_no_level hlevel]

/-! ## COHORT_RESERVING (R339) -/

theorem cohortReserving_reserves {s : State} {k c : Nat} {l : Launch} (h : s.launches = [(k, l)]) (hm : mayReserve s k l = true)
    (hr : reserveCore s k l = some c) :
    exec (.cohortReserving k) s = .next { s with cores := put s.cores c { coreAt s c with reserved := some k } } := by
  have hlook : look s.launches k = some l := by
    rw [h]
    exact look_put_same [] k l
  change execCohortReserving k s = _
  simp only [execCohortReserving, hlook, hm, hr]
  rw [if_neg (by simp), if_neg (by simp [h])]
  rfl

/-- Settles O49: the cohort's core does not depend on when its launch was last unblocked, a cohort that a core takes fits it, and a workgroup that
stands with its threads started stays so while the later ones of the cohort are placed. -/
theorem cohortsArePlaced : Obligations.CohortsArePlaced := by
  unfold Obligations.CohortsArePlaced
  intro s
  refine ⟨fun k l c h hc hp hd hsz => ?_, fun h => ⟨s, cohortPlace_none h, rfl, rfl, rfl⟩, fun k l c => cohortReserving_reserves⟩
  obtain ⟨u, hu, hmem, hl, hall⟩ := cohortPlace_stands h hc hp hd hsz
  refine ⟨u, hu, hmem, hl, fun j hj => ?_⟩
  obtain ⟨⟨-, w, hw, hcore, hlaunch, hg, hhdr, hpart, harg, hage, hsaved⟩, hths⟩ := hall j hj
  exact ⟨w, hw, hcore, hlaunch, hg, hhdr, hpart, harg, hage, hsaved, fun i hi => (hths i hi).2⟩

end Sys2Proof.Machine

end

section
/-! PROOFS. Loads at issue (R28, R96, R167, R208, R212, R217, R316). -/

namespace Sys2Proof.Machine

/-! ## Copies and fills do not depend on threads, and change none (R208, R277) -/

/-- The state with other threads. -/
def withThreads (s : State) (m : NMap Thread) : State := { s with threads := m }

theorem ite_withThreads {s t u v : State} {m : NMap Thread} (p : Prop) [Decidable p] (h : s = withThreads u m) (k : t = withThreads v m) :
    (if p then s else t) = withThreads (if p then u else v) m := by
  by_cases hp : p
  · rw [if_pos hp, if_pos hp, h]
  · rw [if_neg hp, if_neg hp, k]

section
variable (s : State) (m : NMap Thread)

theorem coreAt_withThreads (c : Nat) : coreAt (withThreads s m) c = coreAt s c := rfl

theorem clusterAt_withThreads (c : Nat) : clusterAt (withThreads s m) c = clusterAt s c := rfl

theorem setVector_withThreads (core sec : Nat) (on : Bool) :
    setVector (withThreads s m) core sec on = withThreads (setVector s core sec on) m := by
  simp only [setVector, clusterAt_withThreads]
  cases look (clusterAt s (cluOf core)) sec with
  | none => rfl
  | some c =>
    dsimp only
    cases c.kind <;> rfl

theorem dropL1_withThreads (core sec : Nat) : dropL1 (withThreads s m) core sec = withThreads (dropL1 s core sec) m := ite_withThreads _ rfl rfl

theorem evictL1_withThreads (core line : Nat) : evictL1 (withThreads s m) core line = withThreads (evictL1 s core line) m := by
  refine List.foldl_hom (fun x => withThreads x m) fun x sec => ite_withThreads _ ?_ rfl
  rw [dropL1_withThreads, setVector_withThreads]

theorem l1Room_withThreads (core sec : Nat) : l1Room (withThreads s m) core sec = withThreads (l1Room s core sec) m := by
  have victim (cand : List Nat) (v : Option Nat) :
      (match v with
        | some v => evictL1 (drawNat (withThreads s m) cand.length).2 core v
        | none => (drawNat (withThreads s m) cand.length).2) =
      withThreads (match v with
        | some v => evictL1 (drawNat s cand.length).2 core v
        | none => (drawNat s cand.length).2) m := by
    cases v with
    | some v => exact evictL1_withThreads (drawNat s cand.length).2 m core v
    | none => rfl
  exact ite_withThreads _ rfl (ite_withThreads _ rfl (victim _ _))

theorem putL1_withThreads (core sec : Nat) (pol : CPol) (c : CacheSector) :
    putL1 (withThreads s m) core sec pol c = withThreads (putL1 s core sec pol c) m := by
  unfold putL1
  rw [l1Room_withThreads]
  rfl

theorem copyUp_withThreads (core sec : Nat) (pol : CPol) (c : CacheSector) :
    copyUp (withThreads s m) core sec pol c = withThreads (copyUp s core sec pol c) m := by
  have huse : useCluster (withThreads s m) (cluOf core) sec pol = withThreads (useCluster s (cluOf core) sec pol) m := rfl
  unfold copyUp
  rw [huse]
  refine ite_withThreads _ ?_ rfl
  cases c.kind with
  | tracked _ => simp only [putL1_withThreads, setVector_withThreads]
  | _ => simp only [putL1_withThreads]

theorem wantFill_withThreads (core : Nat) (l : Loc) (pol : CPol) :
    wantFill (withThreads s m) core l pol = withThreads (wantFill s core l pol) m := by
  cases l with
  | spad => rfl
  | phys pa kind key part =>
    cases kind with
    | tracked =>
      refine ite_withThreads _ rfl ?_
      simp only [coreAt_withThreads, clusterAt_withThreads]
      split
      · rfl
      · exact copyUp_withThreads ..
      · exact ite_withThreads _ rfl rfl
    | _ => rfl

theorem threads_wantFill (core : Nat) (l : Loc) (pol : CPol) : (wantFill s core l pol).threads = s.threads := by
  have hsame : wantFill s core l pol = withThreads (wantFill s core l pol) s.threads := wantFill_withThreads s s.threads core l pol
  rw [hsame]
  rfl

theorem wantFill_modTh (t : Nat) (F : Thread → Thread) (core : Nat) (l : Loc) (pol : CPol) :
    wantFill (modTh s t F) core l pol = modTh (wantFill s core l pol) t F := by
  refine (wantFill_withThreads s (alter s.threads t F) core l pol).trans ?_
  rw [← threads_wantFill s core l pol]
  rfl

end

theorem thOf_acquireNow (s : State) (t core : Nat) (acq : Option Scope) : thOf (acquireNow s core acq) t = thOf s t := by
  cases acq with
  | none => rfl
  | some sc => cases sc <;> rfl

theorem acquireNow_modTh (s : State) (t : Nat) (F : Thread → Thread) (core : Nat) (acq : Option Scope) :
    acquireNow (modTh s t F) core acq = modTh (acquireNow s core acq) t F := by
  cases acq with
  | none => rfl
  | some sc => cases sc <;> rfl

/-! ## A word that acts with its thread and its workgroup at hand -/

/-- A word of one thread whose effect is that of `after` with a change of the thread itself. -/
theorem soleWord_modTh {i : Instr} {s : State} {g t : Nat} {G : Group} {th th' : Thread} {w : Workgroup} (h : soleMember i s g G t th w)
    (he : isSpanEnd i = false) {body : Nat → List Nat → State → State} (e : exec i s = runWord i body s) {after : State} {F : Thread → Thread}
    (hb : body s.nextIssue [t] (issued i s G) = modTh after t F) (ht : thOf after t = some th') (hF : (F th').cond = .inFlight) :
    wordLeaves i s t after (some (nextWord (F th'))) := by
  have hth : thOf (body s.nextIssue [t] (issued i s G)) t = some (F th') := by
    rw [hb, thOf_modTh_same, ht]
    rfl
  obtain ⟨u, hu, hout, hthread, hothers⟩ := soleWord h he body e hth hF
  rw [hb] at hout hothers
  refine ⟨u, hu, sameOutside_trans (sameOutside_modTh after t F) hout, hthread, fun x hx y hy => hothers x hx y ?_⟩
  rw [thOf_modTh_other _ _ hx]
  exact hy

/-- The same for a word that acts with the thread and its workgroup at hand. -/
theorem threadWord_leaves {i : Instr} {s : State} {g t : Nat} {G : Group} {th th' : Thread} {w : Workgroup} (h : soleMember i s g G t th w)
    (he : isSpanEnd i = false) {f : Nat → State → Nat → Thread → Workgroup → State} (e : exec i s = threadWord i f s) {after : State}
    {F : Thread → Thread} (hb : f s.nextIssue (issued i s G) t th w = modTh after t F) (ht : thOf after t = some th')
    (hF : (F th').cond = .inFlight) : wordLeaves i s t after (some (nextWord (F th'))) := by
  refine soleWord_modTh h he e ?_ ht hF
  simp only [List.foldl_cons, List.foldl_nil, h.2.2.1, h.2.2.2, hb]

/-- A token for a word's own thread. -/
theorem threadToken_eq {s : State} {issue t : Nat} {th : Thread} (h : thOf s t = some th) (y : Why) :
    threadToken s issue t y = makeToken s (orgOf s issue t th) y := by
  unfold threadToken
  rw [h]

theorem orgOf_congr {s u : State} (h : ∀ k, wgAt u k = wgAt s k) (issue t : Nat) (th : Thread) : orgOf u issue t th = orgOf s issue t th := by
  unfold orgOf
  rw [h]

theorem splitRegs_zero (n : Nat) : splitRegs n 0 = List.replicate n (.clean 0) := by
  induction n with
  | zero => rfl
  | succ n ih => exact congrArg (RegVal.clean 0 :: ·) ih

/-! ## Suppressed words (R153) -/

/-- A thread whose word is suppressed: its region is tainted, and the destination receives the token. -/
def suppressedTh (k : Word) (d : Reg) (n : Nat) (th : Thread) : Thread :=
  setRegs { th with region := taintRegion th.region k } d.toNat (List.replicate n (RegVal.bad k))

theorem suppressedTh_cond (k : Word) (d : Reg) (n : Nat) (th : Thread) : (suppressedTh k d n th).cond = th.cond := setRegs_cond ..

theorem suppress_dst (s : State) (t : Nat) (k : Word) (d : Reg) (n : Nat) :
    suppress s t k [(d.toNat, n)] = modTh s t (suppressedTh k d n) := modTh_modTh ..

/-! ## Loads -/

/-- What the four loads have in common: the effect on their thread, the frame of the formation of their address, and that they neither release,
nor commit first, nor end a span. -/
theorem loadWord_exec {s : State} {th : Thread} {w : Workgroup} {t : Nat} {i : Instr} {d : Reg} {n : Nat} {acq : Option Scope}
    {form : Place → LoadForm} {f : Formed × State} (h : loadWord (entered s) th w t i d n acq form f) :
    (∃ ff : State → Nat → Thread → Workgroup → Formed × State,
      exec i s = threadWord i (fun issue s t th w => loadThread issue d n acq form (ff s t th w) t th w) s ∧ ff (entered s) t th w = f)
      ∧ onlyTlb (entered s) f.2 ∧ isRelease i = false ∧ commitsFirst i = false ∧ isSpanEnd i = false := by
  rcases h with ⟨a, off, sz, cp, sx, mo, rfl, rfl, rfl, rfl, rfl⟩ | ⟨a, b, off, sz, cp, two, mo, rfl, rfl, rfl, rfl, rfl⟩
    | ⟨a, off, sz, sx, mo, rfl, rfl, rfl, rfl, rfl⟩ | ⟨a, off, cp, spad, mo, rfl, rfl, rfl, rfl, rfl⟩
  · exact ⟨⟨fun s t th w => formFlat s th w a.toNat off sz.bytes .read cp, rfl, rfl⟩, onlyTlb_formFlat .., rfl, rfl, rfl⟩
  · exact ⟨⟨fun s t th w => formRec s th w a.toNat b.toNat two off .load (fun f => sizeOk f sz) .read cp, rfl, rfl⟩,
      onlyTlb_formRec .., rfl, rfl, rfl⟩
  · exact ⟨⟨fun s t th w => (formSpad th w (wgOf t) a.toNat off sz.bytes, s), rfl, rfl⟩, onlyTlb_refl _, rfl, rfl, rfl⟩
  · refine ⟨⟨fun s t th w => if spad then (formSpad th w (wgOf t) a.toNat off 32, s) else formFlat s th w a.toNat off 32 .read cp,
      rfl, rfl⟩, ?_, rfl, rfl, rfl⟩
    cases spad
    · exact onlyTlb_formFlat ..
    · exact onlyTlb_refl _

section
variable {i : Instr} {s : State} {g : Nat} {G : Group} {t : Nat} {th : Thread} {w : Workgroup} {d : Reg} {n : Nat} {acq : Option Scope}
  {form : Place → LoadForm} {f : Formed × State}

/-- A load of one thread leaves what its thread's part leaves. -/
theorem loadWord_leaves (h : soleMember i s g G t th w) (hl : loadWord (entered s) th w t i d n acq form f) {after : State} {F : Thread → Thread}
    (hb : loadThread s.nextIssue d n acq form f t th w = modTh after t F) (ht : thOf after t = some th) (hF : (F th).cond = th.cond) :
    wordLeaves i s t after (some (nextWord (F th))) := by
  obtain ⟨⟨ff, hexec, rfl⟩, -, hr, hc, he⟩ := loadWord_exec hl
  refine threadWord_leaves h he hexec ?_ ht (hF.trans (isInFlight_issued h))
  rw [issued_plain s G hr fun x _ => preCommit_eq_false hr hc s x]
  exact hb

theorem thOf_loadForm (h : soleMember i s g G t th w) (hl : loadWord (entered s) th w t i d n acq form f) : thOf f.2 t = some th := by
  obtain ⟨-, htlb, hr, hc, -⟩ := loadWord_exec hl
  have hth := h.2.2.1
  rw [issued_plain s G hr fun x _ => preCommit_eq_false hr hc s x] at hth
  rw [onlyTlb_thOf htlb, hth]

/-- A load whose address or whose zero-fill gives its destination a value at once: an acquire takes effect all the same (R212, R217, R316). -/
theorem load_answered (h : soleMember i s g G t th w) (hl : loadWord (entered s) th w t i d n acq form f) {u : State}
    (hu : thOf u t = some th) (v : Val)
    (hb : loadThread s.nextIssue d n acq form f t th w = acquireNow (writeN u t d.toNat n v) w.core acq) :
    wordLeaves i s t (acquireNow u w.core acq) (some (nextWord (setRegs th d.toNat (resultRegs n v)))) :=
  loadWord_leaves h hl (F := fun th => setRegs th d.toNat (resultRegs n v)) (hb.trans (acquireNow_modTh ..)) ((thOf_acquireNow ..).trans hu)
    (setRegs_cond ..)

theorem load_token (h : soleMember i s g G t th w) (hl : loadWord (entered s) th w t i d n acq form f) (y : Why) :
    threadToken f.2 s.nextIssue t y = makeToken f.2 (orgOf s s.nextIssue t th) y := by
  obtain ⟨-, htlb, -⟩ := loadWord_exec hl
  rw [threadToken_eq (thOf_loadForm h hl), orgOf_congr (s := s) fun k => onlyTlb_wgAt (s := entered s) htlb k]

theorem load_txRemote (hl : loadWord (entered s) th w t i d n acq form f) {p : Place}
    (hp : th.region.mode = .tx → isRemote (locHome s p.loc) = false) : txRemote f.2 th p = false := by
  obtain ⟨-, htlb, -⟩ := loadWord_exec hl
  unfold onlyTlb at htlb
  have hhome : locHome f.2 p.loc = locHome s p.loc := by
    rw [htlb]
    cases p.loc <;> rfl
  unfold txRemote
  rw [hhome]
  by_cases htx : th.region.mode = .tx
  · rw [hp htx, Bool.and_false]
  · simp [htx]

/-- A load in a transaction whose read set is full is suppressed (R167). -/
theorem load_overflows (h : soleMember i s g G t th w) (hl : loadWord (entered s) th w t i d n acq form f) {p : Place} (hat : f.1 = .at p)
    (hp : th.region.mode = .tx → isRemote (locHome s p.loc) = false) (hr : readEntry th p (heldBytes th p.loc p.n) = none) :
    let k := makeToken f.2 (orgOf s s.nextIssue t th) ⟨.txCapacity, some p.va, false, false⟩
    wordLeaves i s t (acquireNow k.1 w.core acq)
      (some (nextWord (setRegs { th with region := taintRegion th.region k.2 } d.toNat (List.replicate n (RegVal.bad k.2))))) := by
  intro k
  have hb : loadThread s.nextIssue d n acq form f t th w = acquireNow (suppress k.1 t k.2 [(d.toNat, n)]) w.core acq := by
    simp only [loadThread, hat, load_txRemote hl hp, hr, load_token h hl]
    rfl
  have hth : thOf k.1 t = some th := (thOf_makeToken ..).trans (thOf_loadForm h hl)
  refine loadWord_leaves h hl (F := suppressedTh k.2 d n) (hb.trans ?_) ((thOf_acquireNow ..).trans hth) (suppressedTh_cond ..)
  rw [suppress_dst, acquireNow_modTh]

/-- A thread with a load outstanding: its destinations but v0 await the result (R28, R96). -/
def loading (th : Thread) (dst : List Nat) (reads : List ReadEntry) : Thread :=
  { th with ldc := th.ldc + 1, pending := th.pending ++ dst.filter (· ≠ 0), region := { th.region with reads := reads } }

/-- A load that is made: an outstanding access, and a fill where a byte is not held (R28, R96, R152, R208). -/
theorem load_goesOut (h : soleMember i s g G t th w) (hl : loadWord (entered s) th w t i d n acq form f) {p : Place} {reads : List ReadEntry}
    (hat : f.1 = .at p) (hp : th.region.mode = .tx → isRemote (locHome s p.loc) = false)
    (hr : readEntry th p (heldBytes th p.loc p.n) = some reads) :
    let o : Op :=
      { kind := .load (form p), core := w.core, wg := wgOf t, launch := w.launch, issue := s.nextIssue, span := th.span, off := th.off,
        loc := p.loc, n := p.n, pol := p.pol,
        parts := [⟨t, th.serial, List.range' d.toNat n, p.va, 0, 0, heldBytes th p.loc p.n, decide (th.region.mode = .tx)⟩], acq := acq,
        rel := false, blocking := acq.isSome, phase := .waiting, eng := none, entered := s.now, sent := false, reply := none }
    let out : State := { f.2 with ops := put s.ops s.nextId o, nextId := s.nextId + 1 }
    wordLeaves i s t (if allHeld o then out else wantFill out w.core p.loc p.pol)
      (some (nextWord (loading th (List.range' d.toNat n) reads))) := by
  intro o out
  obtain ⟨-, htlb, -⟩ := loadWord_exec hl
  unfold onlyTlb at htlb
  have hpush : pushLoad f.2 s.nextIssue t th w p (form p) (List.range' d.toNat n) (heldBytes th p.loc p.n) reads acq =
      if allHeld o then modTh out t (loading · (List.range' d.toNat n) reads)
      else wantFill (modTh out t (loading · (List.range' d.toNat n) reads)) w.core p.loc p.pol := by
    simp only [o, out]
    rw [htlb]
    rfl
  have hth : thOf out t = some th := thOf_loadForm h hl
  refine loadWord_leaves h hl (F := (loading · (List.range' d.toNat n) reads)) ?_ ?_ rfl
  · simp only [loadThread, hat, load_txRemote hl hp, hr, hpush]
    by_cases hheld : allHeld o
    · simp only [hheld]
      rfl
    · simp only [hheld]
      exact wantFill_modTh ..
  · split
    · exact hth
    · exact (congrArg (look · t) (threads_wantFill ..)).trans hth

end

/-- Settles O15: a load's effect is a change of its own thread over a state that holds the access, the token or the acquire; the three differ by
what the formation of the address and the read set give. -/
theorem loadsIssue : Obligations.LoadsIssue := by
  refine ⟨fun i s g G t th w d n acq form f p reads h hl hat hp hr => ⟨load_goesOut h hl hat hp hr, ?_⟩,
    fun i s g G t th w d n acq form f h hl => ?_⟩
  · obtain ⟨-, htlb, -⟩ := loadWord_exec hl
    unfold onlyTlb at htlb
    rw [htlb]
    exact ⟨rfl, rfl⟩
  · have hth := thOf_loadForm h hl
    refine ⟨fun k hk => ?tok, fun y hy => ?make, fun hd => ?dropped, fun p hat hp hr => load_overflows h hl hat hp hr⟩
    case tok => exact load_answered h hl hth (badVal k) (by simp only [loadThread, hk])
    case make =>
      exact load_answered h hl ((thOf_makeToken ..).trans hth) (badVal (makeToken f.2 (orgOf s s.nextIssue t th) y).2)
        (by simp only [loadThread, hy, load_token h hl])
    case dropped =>
      rw [← splitRegs_zero]
      exact load_answered h hl hth (cleanVal 0) (by simp only [loadThread, hd])

end Sys2Proof.Machine

end

section
/-! PROOFS. Atomics at issue (R28, R96, R153, R220 to R224, R315; log 104). -/

namespace Sys2Proof.Machine

/-! ## The cycle of a word that a transaction forbids is the cycle of its step -/

theorem now_recover (s : State) (t : Nat) (tok : Word) : (recover s t tok).now = s.now := by
  have hend (u : State) : (endThread u t).now = u.now := by
    have h := onlyEnds_releaseSlices
      (modWg { u with threads := del u.threads t } (wgOf t) fun w => { w with vacant := put w.vacant (idxOf t) u.now }) (wgOf t)
    unfold onlyEnds at h
    unfold endThread
    rw [h]
    rfl
  unfold recover
  cases thOf s t with
  | none => rfl
  | some th =>
    dsimp only
    cases th.region.target with
    | some target => rfl
    | none =>
      dsimp only
      rw [hend]
      split
      · rfl
      · rfl

theorem now_openRegion (s : State) (t : Nat) (start : DWord) : (openRegion s t start).now = s.now := by
  unfold openRegion
  split
  next th w _ _ => exact foldl_keeps (f := releaseStore t th w) (P := fun u => u.now = s.now) (fun _ _ h => h) _ s rfl
  · rfl

theorem now_commitOne (replay : Bool) (start : Thread → DWord) (s : State) (t : Nat) : (commitOne replay start s t).now = s.now := by
  unfold commitOne
  cases thOf s t with
  | none => rfl
  | some th =>
    dsimp only
    split
    · exact now_openRegion ..
    · split
      · rfl
      · exact now_recover ..

theorem now_commitBefore {s : State} {ts : List Nat} (h : ∀ t ∈ ts, txClean s t = false) (issue : Nat) :
    (commitBefore s issue ts).now = s.now := by
  have hnone : ts.filter (txClean s) = [] := List.filter_eq_nil_iff.mpr fun t ht => by simp [h t ht]
  unfold commitBefore commitAll
  simp only [hnone, resolve, List.foldl_nil]
  exact foldl_keeps (P := fun u => u.now = s.now) (fun u t hu => (now_commitOne _ _ u t).trans hu) ts s rfl

theorem txClean_of_txStops {i : Instr} {s : State} {t : Nat} (hi : txForbids i = true) (hl : legalHere i s t = true) (h : txStops i s t = false) :
    txClean s t = false := by
  obtain ⟨th, w, hth, hw⟩ := legalHere_there hl
  unfold txStops at h
  simp only [hth, hw, hi, Bool.true_or, Bool.and_true, decide_eq_false_iff_not] at h
  simp [txClean, hth, h]

theorem now_issued {i : Instr} {s : State} {g : Nat} {G : Group} (h : issuesNow i s g G = true) (hi : txForbids i = true) :
    (issued i s G).now = s.now := by
  have hclean : ∀ t ∈ G.members, txClean s t = false := fun t ht => by
    have hlegal := issuesNow_legal h ht
    simp only [issuesNow, Bool.and_eq_true] at h
    have hstops := List.all_eq_true.mp h.1.1.1.1.1.1.2 t ht
    simp only [Bool.and_eq_true, Bool.not_eq_true'] at hstops
    exact txClean_of_txStops hi hlegal hstops.1.2
  have hcommit := now_commitBefore (s := entered s) (ts := G.members.filter (preCommit i s))
    (fun t ht => hclean t (List.mem_filter.mp ht).1) s.nextIssue
  unfold issued noteRelease
  split
  · refine foldl_keeps (P := fun u : State => u.now = s.now) (fun u x h => ?_) _ _ hcommit
    exact h
  · exact hcommit

/-! ## A release that acts (R315, R319) -/

/-- The thread of a word that may release, its wait over. -/
def actedAs (rel : Bool) (th : Thread) : Thread := if rel then { th with relSince := none, unacked := none } else th

/-- The state in which the effect of a word that may release acts for its thread. -/
def actsFor (rel : Bool) (s : State) (t : Nat) : State := if rel then releaseActs s t else s

theorem actsFor_eq (rel : Bool) (s : State) (t : Nat) : actsFor rel s t = { s with threads := (actsFor rel s t).threads } := by
  cases rel <;> rfl

theorem thOf_actsFor {s : State} {t : Nat} {th : Thread} (rel : Bool) (h : thOf s t = some th) :
    thOf (actsFor rel s t) t = some (actedAs rel th) := by
  cases rel with
  | false => exact h
  | true => exact (thOf_modTh_same ..).trans (congrArg (Option.map _) h)

theorem actedAs_region (rel : Bool) (th : Thread) : (actedAs rel th).region = th.region := by cases rel <;> rfl

theorem actedAs_cond (rel : Bool) (th : Thread) : (actedAs rel th).cond = th.cond := by cases rel <;> rfl

theorem actedAs_span (rel : Bool) (th : Thread) : (actedAs rel th).span = th.span := by cases rel <;> rfl

theorem actedAs_off (rel : Bool) (th : Thread) : (actedAs rel th).off = th.off := by cases rel <;> rfl

theorem orgOf_actedAs (s : State) (issue t : Nat) (rel : Bool) (th : Thread) : orgOf s issue t (actedAs rel th) = orgOf s issue t th := by
  cases rel <;> rfl

/-! ## What an atomic gives its destination at once (R223; log 104) -/

/-- The destination of an atomic written: D = v0 names none. -/
def atomGives (d : Reg) (n : Nat) (v : RegVal) (th : Thread) : Thread := if d = 0 then th else setRegs th d.toNat (List.replicate n v)

theorem atomGives_cond (d : Reg) (n : Nat) (v : RegVal) (th : Thread) : (atomGives d n v th).cond = th.cond := by
  unfold atomGives
  split
  · rfl
  · exact setRegs_cond ..

theorem suppress_atomDsts (s : State) (t : Nat) (d : Reg) (sz : Size) (k : Word) :
    suppress s t k (atomDsts d sz) =
      modTh s t fun th => atomGives d sz.regs (RegVal.bad k) { th with region := taintRegion th.region k } := by
  unfold suppress atomDsts atomGives
  by_cases hd : d = 0
  · simp only [hd, if_true]
    rfl
  · simp only [hd, if_false]
    exact modTh_modTh ..

theorem zero_atomDsts (s : State) (t : Nat) (d : Reg) (sz : Size) (hs : ∃ th, thOf s t = some th) :
    (atomDsts d sz).foldl (fun s d => writeN s t d.1 d.2 (cleanVal 0)) s = modTh s t (atomGives d sz.regs (.clean 0)) := by
  obtain ⟨th, hth⟩ := hs
  unfold atomDsts atomGives
  by_cases hd : d = 0
  · simp only [hd, if_true, ← setTh_eq_modTh hth, setTh_self hth]
    rfl
  · simp only [hd, if_false, ← splitRegs_zero]
    rfl

/-! ## The atomic of one thread -/

/-- How an atomic forms its address and reads its operands, for the thread that `form`, `x` and `y` speak of. -/
def atomParts (th : Thread) (w : Workgroup) (t : Nat) (form : State → Formed × State) (x y : List RegVal)
    (ff : State → Nat → Thread → Workgroup → Formed × State) (data : Thread → DWord × DWord × List RegVal) : Prop :=
  (∀ s, ff s t th w = form s) ∧ data th = (BitVec.ofNat 64 (joinRegs x), BitVec.ofNat 64 (joinRegs y), x ++ y)

/-- What the three atomics have in common: how they act, the frame of the formation of their address, and that none of them ends a span or may
stand in a transaction. -/
theorem atomicWord_exec {th : Thread} {w : Workgroup} {t : Nat} {i : Instr} {d : Reg} {sz : Size} {op : AtomOp} {mo : MemOrder}
    {form : State → Formed × State} {x y : List RegVal} (h : atomicWord th w t i d sz op mo form x y) :
    (∃ ff data, (∀ s, exec i s = atomWord i d sz op mo ff data s) ∧ atomParts th w t form x y ff data)
      ∧ (∀ s, onlyTlb s (form s).2) ∧ isSpanEnd i = false ∧ txForbids i = true := by
  obtain ⟨a, b, off, ⟨cp, rfl, rfl, rfl, rfl⟩ | ⟨cp, rfl, rfl, rfl, rfl⟩ | ⟨rfl, rfl, rfl, rfl⟩⟩ := h
  · exact ⟨⟨fun s _ th w => formFlat s th w a.toNat off sz.bytes .atomic cp, fun th => atomData th b.toNat sz op false,
      fun _ => rfl, fun _ => rfl, rfl⟩, fun _ => onlyTlb_formFlat .., rfl, Bool.or_true _⟩
  · refine ⟨⟨fun s _ th w => formRec s th w a.toNat b.toNat false off .atomic (fun f => atomFmtOk f sz op) .atomic cp,
      fun th => atomData th b.toNat sz op true, fun _ => rfl, fun _ => rfl, ?_⟩, fun _ => onlyTlb_formRec .., rfl, Bool.or_true _⟩
    cases sz <;> rfl
  · exact ⟨⟨fun s t th w => (formSpad th w (wgOf t) a.toNat off sz.bytes, s), fun th => atomData th b.toNat sz op false,
      fun _ => rfl, fun _ => rfl, rfl⟩, fun _ => onlyTlb_refl _, rfl, Bool.or_true _⟩

section
variable {i : Instr} {s : State} {g : Nat} {G : Group} {t : Nat} {th : Thread} {w : Workgroup} {d : Reg} {sz : Size} {op : AtomOp} {mo : MemOrder}
  {form : State → Formed × State} {x y : List RegVal}

/-- The state in which an atomic acts for its thread. -/
def atomState (i : Instr) (mo : MemOrder) (s : State) (G : Group) (t : Nat) : State := actsFor (isRel mo) (issued i s G) t

theorem thOf_atomForm (h : soleMember i s g G t th w) (ha : atomicWord th w t i d sz op mo form x y) :
    thOf (form (atomState i mo s G t)).2 t = some (actedAs (isRel mo) th) := by
  obtain ⟨-, htlb, -⟩ := atomicWord_exec ha
  rw [onlyTlb_thOf (htlb _)]
  exact thOf_actsFor (isRel mo) h.2.2.1

/-! What the checks of an atomic give, a case at a time (R223, R224). -/

section
variable {ff : State → Nat → Thread → Workgroup → Formed × State} {data : Thread → DWord × DWord × List RegVal}

theorem atomState_eq : (if isRel mo = true then releaseActs (issued i s G) t else issued i s G) = atomState i mo s G t := rfl

theorem atomThread_fault (h : soleMember i s g G t th w) (un : th.unacked = none) (hp : atomParts th w t form x y ff data) {z : AddrFault}
    (hf : (form (atomState i mo s G t)).1 = .fault z) :
    atomThread s.nextIssue d sz mo (ff · t) data (issued i s G) t =
      (acquireNow (suppressWith (form (atomState i mo s G t)).2 s.nextIssue t z (atomDsts d sz)) w.core (acqScope mo), none) := by
  simp only [atomThread, h.2.2.1, h.2.2.2, un, ite_self, hp.1, hp.2, atomState_eq, hf]

theorem atomThread_poisoned (h : soleMember i s g G t th w) (un : th.unacked = none) (hp : atomParts th w t form x y ff data) {k : Word}
    (hk : firstTok (x ++ y) = some k) (hf : ∀ z, (form (atomState i mo s G t)).1 ≠ .fault z) :
    atomThread s.nextIssue d sz mo (ff · t) data (issued i s G) t =
      (acquireNow (suppress (form (atomState i mo s G t)).2 t k (atomDsts d sz)) w.core (acqScope mo), none) := by
  simp only [atomThread, h.2.2.1, h.2.2.2, un, ite_self, hp.1, hp.2, atomState_eq, hk]

theorem atomThread_dropped (h : soleMember i s g G t th w) (un : th.unacked = none) (hp : atomParts th w t form x y ff data)
    (hk : firstTok (x ++ y) = none) (hf : (form (atomState i mo s G t)).1 = .dropped) :
    atomThread s.nextIssue d sz mo (ff · t) data (issued i s G) t =
      (acquireNow ((atomDsts d sz).foldl (fun s d => writeN s t d.1 d.2 (cleanVal 0)) (form (atomState i mo s G t)).2) w.core
        (acqScope mo), none) := by
  simp only [atomThread, h.2.2.1, h.2.2.2, un, ite_self, hp.1, hp.2, atomState_eq, hf, hk]

theorem atomThread_at (h : soleMember i s g G t th w) (un : th.unacked = none) (hp : atomParts th w t form x y ff data) {p : Place}
    (hu : thOf (form (atomState i mo s G t)).2 t = some (actedAs (isRel mo) th))
    (hk : firstTok (x ++ y) = none) (hf : (form (atomState i mo s G t)).1 = .at p) (hm : heldMeets th p.loc p.n = false) :
    atomThread s.nextIssue d sz mo (ff · t) data (issued i s G) t =
      ((form (atomState i mo s G t)).2, some (p, ⟨t, th.serial, if d = 0 then [] else List.range' d.toNat sz.regs, p.va,
        BitVec.ofNat 64 (joinRegs x), BitVec.ofNat 64 (joinRegs y), [], false⟩)) := by
  have hin : isInFlight (form (atomState i mo s G t)).2 t = true := by
    unfold isInFlight
    rw [hu]
    exact decide_eq_true ((actedAs_cond ..).trans (isInFlight_issued h))
  simp only [atomThread, h.2.2.1, h.2.2.2, un, ite_self, hp.1, hp.2, atomState_eq, hf, hk, hm, Bool.false_eq_true, if_false, hin, if_true]

end

/-- An atomic that fails its checks or is dropped: the destination is written at once, and an acquire keeps its effect (R153, R216, R224). -/
theorem atom_answered (h : soleMember i s g G t th w) (ha : atomicWord th w t i d sz op mo form x y) {u : State}
    (hu : thOf u t = some (actedAs (isRel mo) th)) {F : Thread → Thread} (hF : ∀ th, (F th).cond = th.cond)
    (hb : ∀ ff data, atomParts th w t form x y ff data →
      atomThread s.nextIssue d sz mo (ff · t) data (issued i s G) t = (acquireNow (modTh u t F) w.core (acqScope mo), none)) :
    wordLeaves i s t (acquireNow u w.core (acqScope mo)) (some (nextWord (F (actedAs (isRel mo) th)))) := by
  obtain ⟨⟨ff, data, hexec, hparts⟩, -, he, -⟩ := atomicWord_exec ha
  refine soleWord_modTh h he (hexec s) ?_ ((thOf_acquireNow ..).trans hu) ((hF _).trans ((actedAs_cond _ _).trans (isInFlight_issued h)))
  simp only [List.foldl_cons, List.foldl_nil, hb ff data hparts, acquireNow_modTh]

/-- An atomic that is suppressed: its region is tainted, and its destination receives the token (R153). -/
theorem atom_suppressed (h : soleMember i s g G t th w) (ha : atomicWord th w t i d sz op mo form x y) {u : State}
    (hu : thOf u t = some (actedAs (isRel mo) th)) (k : Word)
    (hb : ∀ ff data, atomParts th w t form x y ff data →
      atomThread s.nextIssue d sz mo (ff · t) data (issued i s G) t = (acquireNow (suppress u t k (atomDsts d sz)) w.core (acqScope mo), none)) :
    wordLeaves i s t (acquireNow u w.core (acqScope mo))
      (some (nextWord (atomGives d sz.regs (RegVal.bad k) { actedAs (isRel mo) th with region := taintRegion th.region k }))) := by
  have key := atom_answered h ha hu (F := fun th => atomGives d sz.regs (RegVal.bad k) { th with region := taintRegion th.region k })
    (fun _ => atomGives_cond ..) fun ff data hp => (hb ff data hp).trans (by rw [suppress_atomDsts])
  rw [actedAs_region] at key
  exact key

theorem atom_token (h : soleMember i s g G t th w) (ha : atomicWord th w t i d sz op mo form x y) (z : Why) :
    threadToken (form (atomState i mo s G t)).2 s.nextIssue t z =
      makeToken (form (atomState i mo s G t)).2 (orgOf (atomState i mo s G t) s.nextIssue t th) z := by
  obtain ⟨-, htlb, -⟩ := atomicWord_exec ha
  rw [threadToken_eq (thOf_atomForm h ha), orgOf_actedAs, orgOf_congr (onlyTlb_wgAt (htlb _))]

/-- A thread with an atomic outstanding (R28, R223). -/
def atomCounted (d : Reg) (n : Nat) (th : Thread) : Thread :=
  if d = 0 then { th with stc := th.stc + 1 }
  else { th with ldc := th.ldc + 1, pending := th.pending ++ (List.range' d.toNat n).filter (· ≠ 0) }

theorem countAtom_eq (u : State) (m : Member) (hm : m.dst = if d = 0 then [] else List.range' d.toNat sz.regs) :
    countAtom u m = modTh u m.th (atomCounted d sz.regs) := by
  have hn : List.range' d.toNat sz.regs ≠ [] := by cases sz <;> simp [Size.regs]
  unfold countAtom atomCounted
  by_cases hd : d = 0
  · simp only [hm, hd, if_true]
  · simp only [hm, hd, if_false, hn]

theorem atomCounted_actedAs (n : Nat) (rel : Bool) (th : Thread) :
    atomCounted d n (actedAs rel th) =
      if d = 0 then { actedAs rel th with stc := th.stc + 1 }
      else { actedAs rel th with ldc := th.ldc + 1, pending := th.pending ++ (List.range' d.toNat n).filter (· ≠ 0) } := by
  cases rel <;> rfl

theorem atomCounted_cond (d : Reg) (n : Nat) (th : Thread) : (atomCounted d n th).cond = th.cond := by
  unfold atomCounted
  split
  · rfl
  · rfl

theorem pushAtom_sole {u : State} {issue : Nat} {p : Place} {m : Member} {th : Thread} (hth : thOf u m.th = some th)
    (hw : wgAt u (wgOf m.th) = some w) (hm : m.dst = if d = 0 then [] else List.range' d.toNat sz.regs) :
    pushAtom issue op mo u (p, [m]) =
      modTh { u with
        ops := put u.ops u.nextId
          { kind := .atomic op (decide (p.n = 8)), core := w.core, wg := wgOf m.th, launch := w.launch, issue := issue, span := th.span,
            off := th.off, loc := p.loc, n := p.n, pol := p.pol, parts := [m], acq := acqScope mo, rel := isRel mo, blocking := isAcq mo,
            phase := .waiting, eng := none, entered := u.now, sent := false, reply := none }
        nextId := u.nextId + 1 } m.th (atomCounted d sz.regs) := by
  simp only [pushAtom, hth, hw, List.foldl_cons, List.foldl_nil, countAtom_eq (d := d) (sz := sz) _ m hm]
  rfl

/-- An atomic that goes out: an outstanding access with its operands, counted as a load, or as a store where it has no destination (R28, R223). -/
theorem atom_goesOut (h : soleMember i s g G t th w) (ha : atomicWord th w t i d sz op mo form x y) (un : th.unacked = none) {p : Place}
    (hk : firstTok (x ++ y) = none) (hf : (form (atomState i mo s G t)).1 = .at p) (hm : heldMeets th p.loc p.n = false) :
    let dst := if d = 0 then [] else List.range' d.toNat sz.regs
    let o : Op :=
      { kind := .atomic op (decide (p.n = 8)), core := w.core, wg := wgOf t, launch := w.launch, issue := s.nextIssue, span := th.span,
        off := th.off, loc := p.loc, n := p.n, pol := p.pol,
        parts := [⟨t, th.serial, dst, p.va, BitVec.ofNat 64 (joinRegs x), BitVec.ofNat 64 (joinRegs y), [], false⟩],
        acq := acqScope mo, rel := isRel mo, blocking := isAcq mo, phase := .waiting, eng := none, entered := s.now, sent := false, reply := none }
    wordLeaves i s t { (form (atomState i mo s G t)).2 with
        ops := put (atomState i mo s G t).ops (atomState i mo s G t).nextId o, nextId := (atomState i mo s G t).nextId + 1 }
      (some (nextWord (if d = 0 then { actedAs (isRel mo) th with stc := th.stc + 1 }
        else { actedAs (isRel mo) th with
          ldc := th.ldc + 1, pending := th.pending ++ (List.range' d.toNat sz.regs).filter (· ≠ 0) }))) := by
  intro dst o
  rw [← atomCounted_actedAs]
  have hu := thOf_atomForm h ha
  obtain ⟨⟨ff, data, hexec, hparts⟩, htlb, he, hforbid⟩ := atomicWord_exec ha
  have hat := atomThread_at (d := d) (sz := sz) h un hparts hu hk hf hm
  have hnow : (atomState i mo s G t).now = s.now := by
    unfold atomState
    rw [actsFor_eq]
    exact now_issued h.1 hforbid
  have hwg : wgAt (atomState i mo s G t) (wgOf t) = some w := by
    unfold atomState
    rw [actsFor_eq]
    exact h.2.2.2
  have hframe := htlb (atomState i mo s G t)
  have hw : wgAt (form (atomState i mo s G t)).2 (wgOf t) = some w := (onlyTlb_wgAt hframe _).trans hwg
  refine soleWord_modTh h he (hexec s) (F := atomCounted d sz.regs) ?_ hu
    ((atomCounted_cond ..).trans ((actedAs_cond ..).trans (isInFlight_issued h)))
  simp only [List.foldl_cons, List.foldl_nil, hat, addMember]
  refine (pushAtom_sole hu hw rfl).trans ?_
  unfold onlyTlb at hframe
  rw [hframe]
  simp only [actedAs_span, actedAs_off, hnow]
  rfl

end

/-- Settles O17: an atomic's checks give its thread's part, case by case, over the state in which it acts as a release where it is one. -/
theorem atomicsIssue : Obligations.AtomicsIssue := by
  intro i s g G t th w d sz op mo form x y h ha un
  refine ⟨fun p hk hf hm => atom_goesOut h ha un hk hf hm, fun k hk => ?poisoned, fun z hz => ?make, fun hk hf => ?dropped⟩
  case poisoned =>
    refine atom_suppressed h ha (thOf_atomForm h ha) k fun ff data hp => ?_
    rcases hk with hf | ⟨hk, hf⟩
    · exact atomThread_fault h un hp hf
    · exact atomThread_poisoned h un hp hk hf
  case make =>
    refine atom_suppressed h ha ((thOf_makeToken ..).trans (thOf_atomForm h ha)) _ fun ff data hp => ?_
    refine (atomThread_fault h un hp hz).trans ?_
    simp only [suppressWith, atom_token h ha]
    rfl
  case dropped =>
    refine atom_answered h ha (thOf_atomForm h ha) (F := atomGives d sz.regs (.clean 0)) (fun _ => atomGives_cond ..) fun ff data hp => ?_
    rw [← zero_atomDsts _ _ _ _ ⟨_, thOf_atomForm h ha⟩]
    exact atomThread_dropped h un hp hk hf

end Sys2Proof.Machine

end

section
/-! PROOFS. The words that queue operations of the engines (R28, R153, R230, R254, R256, R257, R262, R272, R411; log 86). -/

namespace Sys2Proof.Machine

/-! ## Words that neither release nor commit first -/

/-- A word that releases nothing, commits nothing first and ends no span. -/
def isPlain (i : Instr) : Bool := !isRelease i && !commitsFirst i && !isSpanEnd i

section
variable {i : Instr} {s : State} {g : Nat} {G : Group} {t : Nat} {th : Thread} {w : Workgroup}

theorem issued_of_isPlain (hi : isPlain i = true) (s : State) (G : Group) : issued i s G = entered s := by
  simp only [isPlain, Bool.and_eq_true, Bool.not_eq_true'] at hi
  exact issued_plain s G hi.1.1 fun x _ => preCommit_eq_false hi.1.1 hi.1.2 s x

theorem thOf_sole (h : soleMember i s g G t th w) (hi : isPlain i = true) : thOf s t = some th := by
  have hth := h.2.2.1
  rwa [issued_of_isPlain hi] at hth

theorem wgAt_sole (h : soleMember i s g G t th w) (hi : isPlain i = true) : wgAt s (wgOf t) = some w := by
  have hw := h.2.2.2
  rwa [issued_of_isPlain hi] at hw

/-- What a plain word of one thread leaves, where its effect is that of `u` with a change of the thread itself and `u` is `after` but for the turn of
the issue. -/
theorem plainWord_leaves (h : soleMember i s g G t th w) (hi : isPlain i = true) {body : Nat → List Nat → State → State}
    (e : exec i s = runWord i body s) {after u : State} {F : Thread → Thread} (hb : body s.nextIssue [t] (entered s) = modTh u t F)
    (hu : thOf u t = some th) (hout : sameOutside after u) (hths : u.threads = after.threads) (hF : (F th).cond = th.cond) :
    wordLeaves i s t after (some (nextWord (F th))) := by
  have he : isSpanEnd i = false := by
    simp only [isPlain, Bool.and_eq_true, Bool.not_eq_true'] at hi
    exact hi.2
  obtain ⟨v, hv, hsame, hthread, hothers⟩ :=
    soleWord_modTh h he e ((congrArg (body s.nextIssue [t]) (issued_of_isPlain hi s G)).trans hb) hu (hF.trans (isInFlight_issued h))
  refine ⟨v, hv, sameOutside_trans hout hsame, hthread, fun x hx y hy => hothers x hx y ?_⟩
  unfold thOf at hy ⊢
  rw [hths]
  exact hy

/-- The same for a word that acts with the thread and its workgroup at hand. -/
theorem plainThreadWord_leaves (h : soleMember i s g G t th w) (hi : isPlain i = true) {f : Nat → State → Nat → Thread → Workgroup → State}
    (e : exec i s = threadWord i f s) {after u : State} {F : Thread → Thread} (hb : f s.nextIssue (entered s) t th w = modTh u t F)
    (hu : thOf u t = some th) (hout : sameOutside after u) (hths : u.threads = after.threads) (hF : (F th).cond = th.cond) :
    wordLeaves i s t after (some (nextWord (F th))) := by
  have hth : thOf (entered s) t = some th := thOf_sole (s := s) h hi
  have hw : wgAt (entered s) (wgOf t) = some w := wgAt_sole (s := s) h hi
  refine plainWord_leaves h hi e ?_ hu hout hths hF
  simp only [List.foldl_cons, List.foldl_nil, hth, hw, hb]

end

/-! ## Suppressed words (R153) -/

section
variable {i : Instr} {s : State} {g : Nat} {G : Group} {t : Nat} {th : Thread} {w : Workgroup}

/-- A word whose operand's token suppresses it. -/
theorem threadWord_poisoned (h : soleMember i s g G t th w) (hi : isPlain i = true) {f : Nat → State → Nat → Thread → Workgroup → State}
    (e : exec i s = threadWord i f s) {k : Word} {d : Reg} {n : Nat}
    (hb : f s.nextIssue (entered s) t th w = suppress (entered s) t k [(d.toNat, n)]) :
    wordLeavesOnly i s t (some (nextWord (suppressedTh k d n th))) :=
  plainThreadWord_leaves h hi e (F := suppressedTh k d n) (hb.trans (suppress_dst ..)) (thOf_sole (s := s) h hi) rfl rfl (suppressedTh_cond ..)

/-- A word that a token of its own suppresses. -/
theorem threadWord_refused (h : soleMember i s g G t th w) (hi : isPlain i = true) {f : Nat → State → Nat → Thread → Workgroup → State}
    (e : exec i s = threadWord i f s) {y : Why} {d : Reg} {n : Nat}
    (hb : f s.nextIssue (entered s) t th w = suppressWith (entered s) s.nextIssue t (.make y) [(d.toNat, n)]) :
    let k := makeToken (entered s) (orgOf s s.nextIssue t th) y
    wordLeaves i s t k.1 (some (nextWord (suppressedTh k.2 d n th))) := by
  intro k
  have hth : thOf (entered s) t = some th := thOf_sole (s := s) h hi
  refine plainThreadWord_leaves h hi e (F := suppressedTh k.2 d n) (hb.trans ?_) ((thOf_makeToken ..).trans hth) (sameOutside_refl _) rfl
    (suppressedTh_cond ..)
  simp only [suppressWith, threadToken_eq hth]
  exact suppress_dst ..

end

/-! ## MXGO, CPGO and XFER (R254, R272, R411) -/

section
variable {s : State} {g : Nat} {G : Group} {t : Nat} {th : Thread} {w : Workgroup} {d a b : Reg} {tl : BitVec 3}

theorem nextNumber_eq {u : State} {k : Nat} (hw : wgAt u k = some w) (tl : Nat) :
    nextNumber u k tl = ((timelineAt w tl).issued + 1, numbered u k tl) := by
  simp only [nextNumber, hw]
  rfl

/-- A thread that receives the number of its operation. -/
def numberedTh (d : Reg) (num : Nat) (th : Thread) : Thread := setRegs th d.toNat (splitRegs 2 (BitVec.ofNat 64 num).toNat)

theorem numberedTh_cond (d : Reg) (num : Nat) (th : Thread) : (numberedTh d num th).cond = th.cond := setRegs_cond ..

theorem mxgo_queued (h : soleMember (.mxgo d a tl) s g G t th w) (hp : (readReg th a.toNat).poison = false)
    (hal : (readReg th a.toNat).data.toNat % 128 = 0) (hin : (readReg th a.toNat).data.toNat + 128 ≤ 128 * w.hdr.scratch) :
    let num := (timelineAt w tl.toNat).issued + 1
    wordLeaves (.mxgo d a tl) s t
      (pushMx (numbered s (wgOf t) tl.toNat) t th w (s.nextIssue + 1) (.go (readReg th a.toNat).data.toNat tl.toNat num))
      (some (nextWord (numberedTh d num { th with mxc := th.mxc + 1 }))) := by
  intro num
  have hw : wgAt (entered s) (wgOf t) = some w := wgAt_sole (s := s) h rfl
  refine plainThreadWord_leaves h rfl rfl (F := fun th => numberedTh d num { th with mxc := th.mxc + 1 })
    (u := { pushMx (numbered (entered s) (wgOf t) tl.toNat) t th w (s.nextIssue + 1) (.go (readReg th a.toNat).data.toNat tl.toNat num) with
      nextIssue := s.nextIssue + 2 })
    ?_ (thOf_sole (s := s) h rfl) rfl rfl (numberedTh_cond ..)
  simp only [mxgoThread, hp, hal, Nat.not_lt.mpr hin, nextNumber_eq hw, Bool.false_eq_true, ne_eq, not_true_eq_false, if_false]
  exact modTh_modTh (s := { pushMx (numbered (entered s) (wgOf t) tl.toNat) t th w (s.nextIssue + 1)
    (.go (readReg th a.toNat).data.toNat tl.toNat num) with nextIssue := s.nextIssue + 2 }) ..

theorem cpgo_queued (h : soleMember (.cpgo d a tl) s g G t th w) (hp : (readReg th a.toNat).poison = false)
    (hal : (readReg th a.toNat).data.toNat % 64 = 0) (hin : (readReg th a.toNat).data.toNat + 64 ≤ 128 * w.hdr.scratch)
    (hclean : poisonIn w.spadPoison (readReg th a.toNat).data.toNat 64 = none)
    (hfault : copyFault w (memGetN w.spad (readReg th a.toNat).data.toNat 64) = none) :
    let num := (timelineAt w tl.toNat).issued + 1
    let req := copyReqOf (memGetN w.spad (readReg th a.toNat).data.toNat 64)
    wordLeaves (.cpgo d a tl) s t
      (pushCopy { clearPresence (numbered s (wgOf t) tl.toNat) (wgOf t) req with nextIssue := s.nextIssue + 1 } t th w tl.toNat num req false []).2
      (some (nextWord (numberedTh d num { th with cpc := th.cpc + 1 }))) := by
  intro num req
  have hw : wgAt (entered s) (wgOf t) = some w := wgAt_sole (s := s) h rfl
  refine plainThreadWord_leaves h rfl rfl (F := fun th => numberedTh d num { th with cpc := th.cpc + 1 })
    (u := (pushCopy (clearPresence (numbered (entered s) (wgOf t) tl.toNat) (wgOf t) req) t th w tl.toNat num req false []).2)
    ?_ (thOf_sole (s := s) h rfl) rfl rfl (numberedTh_cond ..)
  simp only [cpgoThread, hp, hal, Nat.not_lt.mpr hin, nextNumber_eq hw, hclean, hfault, Bool.false_eq_true, ne_eq, not_true_eq_false, if_false]
  exact modTh_modTh (s := (pushCopy (clearPresence (numbered (entered s) (wgOf t) tl.toNat) (wgOf t) req) t th w tl.toNat num req false []).2) ..

theorem xfer_queued (h : soleMember (.xfer d a tl) s g G t th w) (hp : firstTok (readRegs th a.toNat 8) = none)
    (hfault : xferFault s w (octetRec th a.toNat) = none) :
    let num := (timelineAt w tl.toNat).issued + 1
    let e : Xfer :=
      { desc := xferDescOf (octetRec th a.toNat), core := w.core, wg := wgOf t, launch := w.launch, th := t, issue := s.nextIssue + 1,
        span := th.span, off := th.off, tl := tl.toNat, num := num, part := w.part, running := false, entry := 0, sent := 0, done := [],
        event := none, entered := 0 }
    wordLeaves (.xfer d a tl) s t { numbered s (wgOf t) tl.toNat with nextId := s.nextId + 1, xfers := put s.xfers s.nextId e }
      (some (nextWord (numberedTh d num th))) := by
  intro num e
  have hw : wgAt (entered s) (wgOf t) = some w := wgAt_sole (s := s) h rfl
  have hx : xferFault (numbered (entered s) (wgOf t) tl.toNat) w (octetRec th a.toNat) = none := hfault
  refine plainThreadWord_leaves h rfl rfl (F := numberedTh d num)
    (u := { numbered (entered s) (wgOf t) tl.toNat with nextId := s.nextId + 1, nextIssue := s.nextIssue + 2, xfers := put s.xfers s.nextId e })
    ?_ (thOf_sole (s := s) h rfl) rfl rfl (numberedTh_cond ..)
  simp only [xferThread, hp, nextNumber_eq hw, hx]
  rfl

end

/-! ## MXRD and MXWR (R256, R257) -/

section
variable {s : State} {g : Nat} {G : Group} {t : Nat} {th : Thread} {w : Workgroup} {d a b : Reg} {acc : BitVec 2}

theorem pushElems_nil (s : State) (issue : Nat) (kind : List MxElem → MxKind) : pushElems s issue [] kind = s := rfl

theorem pushElems_sole {u : State} (issue : Nat) (e : MxElem) (kind : List MxElem → MxKind) (hth : thOf u e.th = some th)
    (hw : wgAt u (wgOf e.th) = some w) : pushElems u issue [e] kind = pushMx u e.th th w issue (kind [e]) := by
  simp [pushElems, pushElemsOf, List.eraseDups_cons, hth, hw]

theorem firstTok_clean {vs : List RegVal} (h : ∀ v ∈ vs, v.poison = false) : firstTok vs = none := by
  induction vs with
  | nil => rfl
  | cons v vs ih =>
    rw [firstTok, h v List.mem_cons_self]
    exact ih fun x hx => h x (List.mem_cons_of_mem v hx)

/-- The thread of an element access: MXC has risen, and the destination awaits the element. -/
def mxRisen (dst : List Nat) (th : Thread) : Thread :=
  { th with mxc := th.mxc + 1, pending := th.pending ++ dst.filter fun r => !th.pending.contains r }

theorem pushElems_mxRise {u : State} (issue : Nat) (e : MxElem) (kind : List MxElem → MxKind) (dst : List Nat) (hth : thOf u e.th = some th)
    (hw : wgAt u (wgOf e.th) = some w) :
    pushElems (mxRise u e.th dst) issue [e] kind = modTh (pushMx u e.th th w issue (kind [e])) e.th (mxRisen dst) := by
  have hrisen : thOf (mxRise u e.th dst) e.th = some (mxRisen dst th) := (thOf_modTh_same ..).trans (congrArg (Option.map _) hth)
  exact (pushElems_sole issue e kind hrisen hw).trans rfl

/-- The element of an MXRD or an MXWR. -/
def elemOf (t : Nat) (th : Thread) (d a b : Reg) (data : Word) : MxElem :=
  ⟨t, th.serial, d.toNat, (readReg th a.toNat).data.toNat, (readReg th b.toNat).data.toNat, data⟩

theorem mxrd_queued (h : soleMember (.mxrd d a b acc) s g G t th w) (ha : (readReg th a.toNat).poison = false)
    (hb : (readReg th b.toNat).poison = false) (hra : (readReg th a.toNat).data.toNat ≤ 127) (hrb : (readReg th b.toNat).data.toNat ≤ 127) :
    wordLeaves (.mxrd d a b acc) s t (pushMx s t th w s.nextIssue (.rd acc.toNat [elemOf t th d a b 0]))
      (some (nextWord (mxRisen (if d = 0 then [] else [d.toNat]) th))) := by
  have hth : thOf (entered s) t = some th := thOf_sole (s := s) h rfl
  have hw : wgAt (entered s) (wgOf t) = some w := wgAt_sole (s := s) h rfl
  have hclean : firstTok [readReg th a.toNat, readReg th b.toNat] = none := firstTok_clean (by simp [ha, hb])
  refine plainWord_leaves h rfl rfl (F := mxRisen (if d = 0 then [] else [d.toNat]))
    (u := pushMx (entered s) t th w s.nextIssue (.rd acc.toNat [elemOf t th d a b 0])) ?_ hth rfl rfl rfl
  simp only [List.foldl_cons, List.foldl_nil, mxrdThread, hth, hw, hclean, Nat.not_lt.mpr hra, Nat.not_lt.mpr hrb, Bool.or_self, decide_false,
    Bool.false_eq_true, if_false, List.nil_append]
  exact pushElems_mxRise _ (elemOf t th d a b 0) _ _ hth hw

theorem mxwr_queued (h : soleMember (.mxwr d a b acc) s g G t th w) (ha : (readReg th a.toNat).poison = false)
    (hb : (readReg th b.toNat).poison = false) (hd : (readReg th d.toNat).poison = false) (hra : (readReg th a.toNat).data.toNat ≤ 127)
    (hrb : (readReg th b.toNat).data.toNat ≤ 127) :
    wordLeaves (.mxwr d a b acc) s t (pushMx s t th w s.nextIssue (.wr acc.toNat [elemOf t th d a b (readReg th d.toNat).data]))
      (some (nextWord (mxRisen [] th))) := by
  have hth : thOf (entered s) t = some th := thOf_sole (s := s) h rfl
  have hw : wgAt (entered s) (wgOf t) = some w := wgAt_sole (s := s) h rfl
  have hclean : firstTok [readReg th a.toNat, readReg th b.toNat, readReg th d.toNat] = none := firstTok_clean (by simp [ha, hb, hd])
  refine plainWord_leaves h rfl rfl (F := mxRisen [])
    (u := pushMx (entered s) t th w s.nextIssue (.wr acc.toNat [elemOf t th d a b (readReg th d.toNat).data])) ?_ hth rfl rfl rfl
  simp only [List.foldl_cons, List.foldl_nil, mxwrThread, hth, hw, hclean, Nat.not_lt.mpr hra, Nat.not_lt.mpr hrb, Bool.or_self, decide_false,
    Bool.false_eq_true, if_false, List.nil_append]
  exact pushElems_mxRise _ (elemOf t th d a b (readReg th d.toNat).data) _ _ hth hw

theorem mxrd_poisoned (h : soleMember (.mxrd d a b acc) s g G t th w) {k : Word} (hk : firstTok [readReg th a.toNat, readReg th b.toNat] = some k) :
    wordLeavesOnly (.mxrd d a b acc) s t (some (nextWord (suppressedTh k d 1 th))) := by
  have hth : thOf (entered s) t = some th := thOf_sole (s := s) h rfl
  have hw : wgAt (entered s) (wgOf t) = some w := wgAt_sole (s := s) h rfl
  refine plainWord_leaves h rfl rfl (F := suppressedTh k d 1) (u := entered s) ?_ hth rfl rfl (suppressedTh_cond ..)
  simp only [List.foldl_cons, List.foldl_nil, mxrdThread, hth, hw, hk, pushElems_nil, suppress_dst]

theorem mxwr_poisoned (h : soleMember (.mxwr d a b acc) s g G t th w) {k : Word}
    (hk : firstTok [readReg th a.toNat, readReg th b.toNat, readReg th d.toNat] = some k) :
    wordLeavesOnly (.mxwr d a b acc) s t (some (nextWord { th with region := taintRegion th.region k })) := by
  have hth : thOf (entered s) t = some th := thOf_sole (s := s) h rfl
  have hw : wgAt (entered s) (wgOf t) = some w := wgAt_sole (s := s) h rfl
  refine plainWord_leaves h rfl rfl (F := fun th => { th with region := taintRegion th.region k }) (u := entered s) ?_ hth rfl rfl rfl
  simp only [List.foldl_cons, List.foldl_nil, mxwrThread, hth, hw, hk, pushElems_nil]
  rfl

/-! ### An index above 127 (log 86) -/

theorem thOf_indexToken (u : State) (issue t : Nat) (th : Thread) (core : Nat) (x y : Word) (j : Nat) :
    thOf (indexToken u issue t th core x y).1 j = thOf u j := by
  unfold indexToken
  extract_lets o f old k i
  split
  · exact thOf_makeToken ..
  · exact thOf_makeToken u o f j

theorem indexToken_token (u : State) (issue t : Nat) (th : Thread) (core : Nat) (x y : Word) :
    (indexToken u issue t th core x y).2 = (makeToken u (orgOf u issue t th) ⟨.invalid, none, false, false⟩).2 := by
  unfold indexToken
  extract_lets o f old k i
  split
  · rfl
  · rfl

theorem tokIndex_eq (k : Word) : tokIndex k = k.toNat / 2 ^ 24 := by
  unfold tokIndex
  rw [BitVec.extractLsb'_toNat, Nat.shiftRight_eq_div_pow]
  exact Nat.mod_eq_of_lt (by omega)

theorem recAt_setRec_same (u : State) (core i : Nat) (r : PoisonRec) : recAt (setRec u core i r) core i = r := by
  unfold recAt setRec
  rw [coreAt_modCore_same]
  exact lookD_put_same ..

/-- The first index token of an issue has both indices in its record (R256). -/
theorem faddr_indexToken {u : State} {issue t : Nat} {th : Thread} {core : Nat} {x y : Word} (hnew : ∀ z ∈ u.issueFaults, z.issue ≠ issue)
    (hi : (indexToken u issue t th core x y).2.toNat / 2 ^ 24 ≠ 0) :
    (recAt (indexToken u issue t th core x y).1 core ((indexToken u issue t th core x y).2.toNat / 2 ^ 24)).faddr =
      BitVec.ofNat 64 (256 * x.toNat + y.toNat) := by
  rw [← tokIndex_eq] at hi ⊢
  rw [indexToken_token] at hi ⊢
  have hold : (u.issueFaults.any fun z => z.issue = issue && z.core = core && z.wg = wgOf t && z.cause = .invalid && z.page.isNone) = false :=
    List.any_eq_false.mpr fun z hz => by simp [hnew z hz]
  unfold indexToken
  simp only [hold, hi, Bool.false_or, decide_false, Bool.false_eq_true, if_false, recAt_setRec_same]

theorem mxrd_badIndex (h : soleMember (.mxrd d a b acc) s g G t th w) (ha : (readReg th a.toNat).poison = false)
    (hb : (readReg th b.toNat).poison = false) (hr : 127 < (readReg th a.toNat).data.toNat ∨ 127 < (readReg th b.toNat).data.toNat) :
    let k := indexToken (entered s) s.nextIssue t th w.core (readReg th a.toNat).data (readReg th b.toNat).data
    wordLeaves (.mxrd d a b acc) s t k.1 (some (nextWord (setReg th d.toNat (RegVal.bad k.2)))) := by
  intro k
  have hth : thOf (entered s) t = some th := thOf_sole (s := s) h rfl
  have hw : wgAt (entered s) (wgOf t) = some w := wgAt_sole (s := s) h rfl
  have hclean : firstTok [readReg th a.toNat, readReg th b.toNat] = none := firstTok_clean (by simp [ha, hb])
  refine plainWord_leaves h rfl rfl (F := fun th => setReg th d.toNat (RegVal.bad k.2)) (u := k.1) ?_ ((thOf_indexToken ..).trans hth)
    (sameOutside_refl _) rfl (setRegs_cond th d.toNat [RegVal.bad k.2])
  simp only [List.foldl_cons, List.foldl_nil, mxrdThread, hth, hw, hclean, Bool.or_eq_true, decide_eq_true_eq, if_pos hr, pushElems_nil]
  rfl

theorem mxwr_badIndex (h : soleMember (.mxwr d a b acc) s g G t th w) (ha : (readReg th a.toNat).poison = false)
    (hb : (readReg th b.toNat).poison = false) (hd : (readReg th d.toNat).poison = false)
    (hr : 127 < (readReg th a.toNat).data.toNat ∨ 127 < (readReg th b.toNat).data.toNat) :
    let k := indexToken (entered s) s.nextIssue t th w.core (readReg th a.toNat).data (readReg th b.toNat).data
    wordLeaves (.mxwr d a b acc) s t k.1 (some (nextWord { th with region := taintRegion th.region k.2 })) := by
  intro k
  have hth : thOf (entered s) t = some th := thOf_sole (s := s) h rfl
  have hw : wgAt (entered s) (wgOf t) = some w := wgAt_sole (s := s) h rfl
  have hclean : firstTok [readReg th a.toNat, readReg th b.toNat, readReg th d.toNat] = none := firstTok_clean (by simp [ha, hb, hd])
  refine plainWord_leaves h rfl rfl (F := fun th => { th with region := taintRegion th.region k.2 }) (u := k.1) ?_ ((thOf_indexToken ..).trans hth)
    (sameOutside_refl _) rfl rfl
  simp only [List.foldl_cons, List.foldl_nil, mxwrThread, hth, hw, hclean, Bool.or_eq_true, decide_eq_true_eq, if_pos hr, pushElems_nil]
  rfl

end

/-! ## Addresses that MXGO and CPGO refuse (R254, R272) -/

/-- The token of a request address that is misaligned to n or whose n bytes lie beyond the scratchpad. -/
def requestWhy (w : Workgroup) (n : Nat) (x : Word) (f : Why) : Prop :=
  (x.toNat % n ≠ 0 ∧ f = ⟨.invalid, some (x.setWidth 64), false, false⟩)
    ∨ (x.toNat % n = 0 ∧ 128 * w.hdr.scratch < x.toNat + n ∧ f = ⟨.spadBounds, some (x.setWidth 64), false, false⟩)

section
variable {th : Thread} {w : Workgroup} {d a : Reg} {tl : BitVec 3} {f : Why}

theorem mxgoThread_refused (issue : Nat) (s : State) (t : Nat) (hp : (readReg th a.toNat).poison = false)
    (hf : requestWhy w 128 (readReg th a.toNat).data f) :
    mxgoThread d a tl issue s t th w = suppressWith s issue t (.make f) [(d.toNat, 2)] := by
  rcases hf with ⟨hal, rfl⟩ | ⟨hal, hin, rfl⟩
  · simp only [mxgoThread, hp, ne_eq, hal, not_false_eq_true, if_true, Bool.false_eq_true, if_false]
    rfl
  · simp only [mxgoThread, hp, ne_eq, hal, hin, not_true_eq_false, if_true, Bool.false_eq_true, if_false]
    rfl

theorem cpgoThread_refused (issue : Nat) (s : State) (t : Nat) (hp : (readReg th a.toNat).poison = false)
    (hf : requestWhy w 64 (readReg th a.toNat).data f) :
    cpgoThread d a tl issue s t th w = suppressWith s issue t (.make f) [(d.toNat, 2)] := by
  rcases hf with ⟨hal, rfl⟩ | ⟨hal, hin, rfl⟩
  · simp only [cpgoThread, hp, ne_eq, hal, not_false_eq_true, if_true, Bool.false_eq_true, if_false]
    rfl
  · simp only [cpgoThread, hp, ne_eq, hal, hin, not_true_eq_false, if_true, Bool.false_eq_true, if_false]
    rfl

end

/-- Settles O22: MXGO, CPGO and XFER act with their thread at hand, MXRD and MXWR collect one element; each queues one entry over a state in which its
thread's counter and destination have changed, or suppresses its thread. -/
theorem engineWordsQueueOperations : Obligations.EngineWordsQueueOperations := by
  refine ⟨fun s g G t th w d a b tl acc => ?queued, fun s g G t th w d a b tl acc k => ?poisoned, fun s g G t th w d a b tl acc => ?refused⟩
  case queued =>
    refine ⟨mxgo_queued, mxrd_queued, ?mxwr, cpgo_queued, xfer_queued⟩
    case mxwr =>
      intro h ha hb hd hra hrb
      have key := mxwr_queued h ha hb hd hra hrb
      simp only [mxRisen, List.filter_nil, List.append_nil] at key
      exact key
  case poisoned =>
    refine ⟨?numbers, fun h hk => ?xfer, fun h hk => mxrd_poisoned h hk, fun h hk => mxwr_poisoned h hk⟩
    case numbers =>
      rintro i (rfl | rfl) h hk
      · exact threadWord_poisoned h rfl rfl (n := 2) (by simp only [mxgoThread, hk]; rfl)
      · exact threadWord_poisoned h rfl rfl (n := 2) (by simp only [cpgoThread, hk]; rfl)
    case xfer => exact threadWord_poisoned h rfl rfl (n := 2) (by simp only [xferThread, hk])
  case refused =>
    refine ⟨?request, fun ha hb hr =>
      ⟨fun h => mxrd_badIndex h ha hb hr, fun h hd => mxwr_badIndex h ha hb hd hr, indexToken_token .., ?faddr⟩⟩
    case request =>
      rintro i n f (⟨rfl, rfl⟩ | ⟨rfl, rfl⟩) h hp hf
      · exact threadWord_refused h rfl rfl (n := 2) (mxgoThread_refused _ _ _ hp hf)
      · exact threadWord_refused h rfl rfl (n := 2) (cpgoThread_refused _ _ _ hp hf)
    case faddr => exact fun hnew hi => faddr_indexToken (u := entered s) hnew hi

end Sys2Proof.Machine

end

section
/-! PROOFS. A tree reduction by addition (R62, R198). -/

namespace Sys2Proof.Machine

/-- The numbers at the positions of a reduction by addition: a position without a contributor counts as its identity, 0. -/
def positionSum (l : List (Option DWord)) : Nat := (l.map fun x => (x.getD 0).toNat).sum

@[simp] theorem positionSum_cons (x : Option DWord) (l : List (Option DWord)) : positionSum (x :: l) = (x.getD 0).toNat + positionSum l := by
  simp [positionSum]

/-- Every position holds a word of 32 bits. -/
def positionsFit (l : List (Option DWord)) : Prop := ∀ x ∈ l, (x.getD 0).toNat < 2 ^ 32

theorem redFn_add_toNat (rm : Rnd) (a b : DWord) : (redFn .add rm false a b).toNat = (a.toNat + b.toNat) % 2 ^ 32 := by
  have hlow (x : DWord) : (lo x).toNat = x.toNat % 2 ^ 32 := by simp [lo]
  have hfits : (a.toNat + b.toNat) % 2 ^ 32 < 2 ^ 64 := by omega
  simpa [redFn, redInt, up, hlow] using hfits

/-- A node of the tree holds the sum of the two below it, whichever of them are empty. -/
theorem redNode_add_toNat (rm : Rnd) {x y : Option DWord} (hx : (x.getD 0).toNat < 2 ^ 32) (hy : (y.getD 0).toNat < 2 ^ 32) :
    ((redNode (redFn .add rm false) x y).getD 0).toNat = ((x.getD 0).toNat + (y.getD 0).toNat) % 2 ^ 32 := by
  cases x with
  | none => simpa [redNode] using (Nat.mod_eq_of_lt hy).symm
  | some a =>
    cases y with
    | none => simpa [redNode] using (Nat.mod_eq_of_lt hx).symm
    | some b => exact redFn_add_toNat rm a b

/-- A level of the tree keeps the sum modulo 2^32, in words of 32 bits. -/
theorem redLevel_add (rm : Rnd) (l : List (Option DWord)) (h : positionsFit l) :
    positionsFit (redLevel (redFn .add rm false) l) ∧ positionSum (redLevel (redFn .add rm false) l) % 2 ^ 32 = positionSum l % 2 ^ 32 := by
  fun_induction redLevel (redFn .add rm false) l with
  | case1 x y r ih =>
    obtain ⟨hx, hy, hr⟩ : (x.getD 0).toNat < 2 ^ 32 ∧ (y.getD 0).toNat < 2 ^ 32 ∧ positionsFit r := by
      simpa [positionsFit] using h
    obtain ⟨hfit, hsum⟩ := ih hr
    have hnode := redNode_add_toNat rm hx hy
    refine ⟨List.forall_mem_cons.mpr ⟨hnode ▸ Nat.mod_lt _ (by decide), hfit⟩, ?_⟩
    rw [positionSum_cons, positionSum_cons, positionSum_cons, ← Nat.add_assoc, hnode, Nat.mod_add_mod, Nat.add_mod, hsum, ← Nat.add_mod]
  | case2 r => exact ⟨h, rfl⟩

theorem length_redLevel (f : DWord → DWord → DWord) (l : List (Option DWord)) : (redLevel f l).length = (l.length + 1) / 2 := by
  fun_induction redLevel f l with
  | case1 x y r ih => simp only [List.length_cons, ih]; omega
  | case2 r hr =>
    match r, hr with
    | [], _ => rfl
    | [_], _ => simp
    | x :: y :: r, hr => exact absurd rfl (hr x y r)

/-- The root over at most 2^n positions, an empty tree's taken as 0, is their sum modulo 2^32: by induction on the levels. -/
theorem redTree_add (rm : Rnd) (n : Nat) (l : List (Option DWord)) (hlen : l.length ≤ 2 ^ n) (h : positionsFit l) :
    ((redTree (redFn .add rm false) n l).getD 0).toNat = positionSum l % 2 ^ 32 := by
  induction n generalizing l with
  | zero =>
    match l, hlen with
    | [], _ => rfl
    | [x], _ => simpa [redTree, positionSum] using (Nat.mod_eq_of_lt (h x List.mem_cons_self)).symm
  | succ n ih =>
    obtain ⟨hfit, hsum⟩ := redLevel_add rm l h
    have hhalf : (redLevel (redFn .add rm false) l).length ≤ 2 ^ n := by
      rw [length_redLevel]
      omega
    exact (ih _ hhalf hfit).trans hsum

/-- The contributors' sum is that of the positions. -/
theorem foldl_contributors (l : List (Option DWord)) (n : Nat) :
    (l.filterMap id).foldl (fun n x => n + x.toNat) n = n + positionSum l := by
  induction l generalizing n with
  | nil => rfl
  | cons x l ih =>
    cases x with
    | none => simpa using ih n
    | some a => simpa [Nat.add_assoc] using ih (n + a.toNat)

/-- Settles O29: each level of the tree keeps the sum of the positions modulo 2^32, and eleven levels leave one position of 2,048. -/
theorem reduceAddIsTheSum : Obligations.ReduceAddIsTheSum := by
  intro rm l hlen hl
  have hfit : positionsFit l := by
    intro x hx
    cases x with
    | none => decide
    | some a => exact hl a hx
  refine BitVec.eq_of_toNat_eq ?_
  have hword : positionSum l % 2 ^ 32 < 2 ^ 64 := by omega
  rw [foldl_contributors, Nat.zero_add, BitVec.toNat_ofNat, Nat.mod_eq_of_lt hword]
  exact redTree_add rm 11 l hlen hfit

end Sys2Proof.Machine
end

section
/-! PROOFS. The DRAIN of an entry that holds a guide tile before its block is read (R231, R233, R242, R248, R250). -/

namespace Sys2Proof.Machine

/-! ## An operation alone starts (R231, R233) -/

/-- The entry of an operation outside Tandem pairs, once its block is read and passes its checks (R233, R237). -/
def entryRead (w : Workgroup) (a : Nat) (e : MxEntry) : MxEntry :=
  let b := blockOf (memGetN w.spad a 128)
  { e with
    block := some (memGetN w.spad a 128), fault := none, word0 := word0Ok w a, stage := .ready, index := none
    crec := if (look w.spadPoison (a / 64 + 1)).isSome || b.crec = 0xFFFFFFFF || !b.crecOk (128 * w.hdr.scratch) then none else some b.crec
    res := { e.res with gskip := word0Ok w a && b.isMma && b.gskip } }

section
variable {s : State} {core k : Nat} {e : MxEntry} {w : Workgroup}

theorem look_modMx (hlook : look (coreAt s core).mxq k = some e) (f : MxEntry → MxEntry) :
    look (coreAt (modMx s core k f) core).mxq k = some (f e) := by
  rw [modMx, coreAt_modCore_same, look_alter_same, hlook]
  rfl

theorem readBlock_alone (core k : Nat) (e : MxEntry) {a : Nat} (hpaired : isPaired w = false) (hclean : w.spadPoison = [])
    (hfault : blockFault (blockOf (memGetN w.spad a 128)) (rightsOf w) = none) :
    readBlock s core k e w a = modMx s core k (entryRead w a) := by
  have hpoison : poisonIn w.spadPoison a 128 = none := by simp [hclean, poisonIn]
  simp only [readBlock, hpoison, hfault, hpaired, Bool.and_false, Bool.false_eq_true, if_false]
  rfl

theorem lineAbsent_present (hw : wgAt s e.wg = some w) (habsent : w.absent = []) (a n : Nat) : lineAbsent s (.spad e.wg a) n = false := by
  simp [lineAbsent, hw, habsent]

/-- The operands of an operation that reads no memory are there, where no line of scratchpad is absent and no access is outstanding. -/
theorem operandsReady_alone (hlook : look (coreAt s core).mxq k = some e) (hw : wgAt s e.wg = some w) (habsent : w.absent = [])
    (hops : s.ops = []) (hacks : s.acks = []) (hfused : e.fusedWith = none) (hreads : allReads w (blockOf (e.block.getD [])) = []) :
    operandsReady s core k = (true, s) := by
  simp [operandsReady, hlook, hw, operandsAbsent, lineAbsent_present hw habsent, mxOutstanding, hops, hacks, hfused, hreads, missingSectors]

end

section
variable {s : State} {core k : Nat} {e : MxEntry} {w : Workgroup} {b : Block}

/-- A step of its kind starts the operation and goes on with it. -/
theorem workKind_alone (h : mxAlone s core k e w b) (hreads : allReads w b = []) (n : Nat) :
    ∃ a, b = blockOf (memGetN w.spad a 128)
      ∧ workKind b.kind core n s = goOn n core (startOp core (modMx s core k (entryRead w a)) k) k := by
  obtain ⟨hq, ⟨a, tl, num, hkind, hb⟩, hstage, hblock, hfused, hw, hactive, hpaired, habsent, hclean, hops, hacks, hissues, hfault⟩ := h
  subst hb
  refine ⟨a, rfl, ?_⟩
  have hlook : look (coreAt s core).mxq k = some e := by simp [hq, look]
  have hlook' := look_modMx hlook (entryRead w a)
  have hw' : wgAt (modMx s core k (entryRead w a)) e.wg = some w := hw
  have hcurrent : mxCurrent s core = none := by simp [mxCurrent, hq, MxEntry.pos, hstage]
  have hword : word0Ok w a = true := by simp [word0Ok, hclean]
  have hready : operandsReady (modMx s core k (entryRead w a)) core k = (true, modMx s core k (entryRead w a)) :=
    operandsReady_alone hlook' hw habsent hops hacks hfused hreads
  have hbegin : beginOp (modMx s core k (entryRead w a)) core k a n = goOn n core (startOp core (modMx s core k (entryRead w a)) k) k := by
    have hpair : pairOf (entryRead w a e) k = [k] := by simp [pairOf, entryRead, hfused]
    have hwg : wgAt (modMx s core k (entryRead w a)) (entryRead w a e).wg = some w := hw
    simp only [beginOp, hlook', hwg, hpair, List.foldl_cons, List.foldl_nil, hready, Bool.and_self, if_true]
    rfl
  have htandem : decideTandem (modMx s core k (entryRead w a)) core k (entryRead w a e) w = modMx s core k (entryRead w a) := rfl
  simp only [workKind, releaseHeld_queued hq hstage, hcurrent, startKind, mxNext_queued hw hactive hq hstage, hkind, hw, kindAt, hblock, hword,
    hissues, lineAbsent_present hw habsent, storesDone, hops, readBlock_alone core k e hpaired hclean hfault, hlook', hw', htandem]
  simpa using hbegin

end

/-! ## A DRAIN alone (R242, R248, R250) -/

section
variable {s : State} {core k : Nat} {e : MxEntry} {w : Workgroup} {b : Block}

/-- A tile without a row that an error has struck is met as it is (R379). -/
theorem meetRows_unstruck {wg tile : Nat} (hw : wgAt s wg = some w) (h : (tileOf w tile).struck = []) (core k : Nat) (e : MxEntry)
    (rows : List Nat) : meetRows core k e wg tile rows s = s := by
  simp [meetRows, hw, h]

/-- An entry whose operation starts (R252). -/
def running (e : MxEntry) : MxEntry := { e with stage := .running 0 }

/-- An entry whose k-steps or rows are done (R252). -/
def stepsDone (e : MxEntry) : MxEntry := { e with stage := .started, got := Operands.none }

/-- A DRAIN without guidance whose tile agrees with its checksums starts with nothing changed but its entry. -/
theorem startOp_drain (hlook : look (coreAt s core).mxq k = some e) (hw : wgAt s e.wg = some w) (hb : blockOf (e.block.getD []) = b)
    (hkind : b.kind = 1) (hguided : b.guided = false) (hstruck : (tileOf w b.acc).struck = []) (hclean : compareTile (tileOf w b.acc) = .clean) :
    startOp core s k = modMx s core k running := by
  have hw' : wgAt (modMx s core k running) e.wg = some w := hw
  have hstart : (modMx s core k fun e => { e with stage := .running 0 }) = modMx s core k running := rfl
  simp [startOp, hstart, hlook, hw, hb, hw', meetOpRows, Block.isMma, Block.isDrain, hkind, hguided, meetRows_unstruck hw' hstruck, startDrain,
    compareDrain, hclean]

/-- All rows of a DRAIN in one step. -/
theorem goOn_drain (hlook : look (coreAt s core).mxq k = some e) (hw : wgAt s e.wg = some w) (hb : blockOf (e.block.getD []) = b)
    (hkind : b.kind = 1) (hstage : e.stage = .running 0) {n : Nat} (hn : b.m ≤ n) :
    goOn n core s k = modMx (drainRows s core k e w b b.rows) core k stepsDone := by
  have hpos : e.pos = some 0 := by simp [MxEntry.pos, hstage]
  have hrows : b.rows.take n = b.rows := List.take_of_length_le (by simpa [Block.rows] using hn)
  simp [goOn, hlook, hpos, hw, stepOp, hb, Block.isMma, Block.isDrain, hkind, readSteps, hrows, opLength, Nat.not_lt.mpr hn, doOp]
  rfl

/-- A DRAIN alone writes its rows with whatever guide tile its entry holds. -/
theorem mxDrain_alone (h : mxAlone s core k e w b) (hkind : b.kind = 1) (hguided : b.guided = false) (hstruck : (tileOf w b.acc).struck = [])
    (hclean : compareTile (tileOf w b.acc) = .clean) {n : Nat} (hn : b.m ≤ n) :
    ∃ u x, onlyCores s u ∧ x.wg = e.wg ∧ x.guideTile = e.guideTile ∧ exec (.mxDrain ⟨core, n⟩) s =
      .next (modMx (drainRows u core k x w b b.rows) core k stepsDone) := by
  have hreads : allReads w b = [] := by simp [allReads, memReads, hkind, Block.isDrain, hclean]
  obtain ⟨a, hb, hwork⟩ := workKind_alone h hreads n
  obtain ⟨hq, -, -, -, -, hw, -⟩ := h
  have hlook : look (coreAt s core).mxq k = some e := by simp [hq, look]
  have hread := look_modMx hlook (entryRead w a)
  have hrunning := look_modMx hread running
  have hexec : exec (.mxDrain ⟨core, n⟩) s = .next (workKind b.kind core n s) := by
    rw [hkind]
    rfl
  rw [hwork, startOp_drain hread hw hb.symm hkind hguided hstruck hclean, goOn_drain hrunning hw hb.symm hkind rfl hn] at hexec
  refine ⟨_, _, ?_, ?_, ?_, hexec⟩
  all_goals exact rfl

/-- A clean row of scratchpad elements, combined with the guide's where that row is clean too (R242, R248). -/
theorem drainRow_guided {v : Workgroup} {u : Tile} {i : Nat} (hw : wgAt s e.wg = some w) (hspace : b.amap.space = 0)
    (hrow : rowTok (tileOf w b.acc) i = none) (hguide : rowTok u i = none) (core k phase : Nat) :
    drainRow core k e v b (some u) phase s i =
      (rowRuns (dfmtBytes b.dfmt) (b.cols.map fun j => (cellAddr b.gridD (i - b.row0) (j - b.col0),
        drainBits b phase i j (guide b.gscale (tileGet (tileOf w b.acc) i j) (tileGet u i j))))).foldl (spadRun e.wg none) s := by
  simp [drainRow, hw, hspace, hrow, hguide]

end

/-! ## An entry with a guide tile, queued (R230, R248) -/

/-- A tile of zeros after an i8 operation. -/
def clearedTile : Tile := { Tile.fresh with integer := true }

/-- A tile whose element (0, 0) is 1.0. -/
def oneTile : Tile := { Tile.fresh with elems := [(0, 0x3F800000)] }

/-- The bytes, but for zeros, of a block that drains element (0, 0) of tile 0 as fp32 to 0x80 of scratchpad, without guidance, dither or completion
record (R233, R234). -/
def drainBytes : Memory := [(0, 1), (4, 1), (5, 1), (36, 16), (40, 0x80), (64, 0xFF), (65, 0xFF), (66, 0xFF), (67, 0xFF)]

/-- A workgroup outside Tandem pairs with that block at 0 of its scratchpad. -/
def drainWg : Workgroup := { bootWg State.reset none with spad := drainBytes, tiles := [clearedTile] }

def drainBlock : Block := blockOf (memGetN drainWg.spad 0 128)

/-- The entry of an MXGO of that block, which holds a guide tile though its block is not yet read. -/
def guidedEntry : MxEntry :=
  { kind := .go 0 0 1, wg := 0, th := 0, serial := 0, issue := 0, since := 0, span := 0, off := 0, stage := .queued, got := Operands.none,
    res := MxResult.none, block := none, fault := none, word0 := false, crec := none, event := none, index := none, fusedWith := none,
    guideTile := some oneTile, fetched := [] }

def guidedState : State :=
  { modPart State.reset 0 bootPart with wgs := [(0, drainWg)], cores := [(0, { Core.reset with mxq := [(0, guidedEntry)] })] }

theorem compareTile_clearedTile : compareTile clearedTile = .clean := by
  have hline : lineMismatch true (List.replicate 128 0) 0 = false := by decide +kernel
  have hrow (i : Nat) : tileRow clearedTile i = List.replicate 128 0 := List.map_const' ..
  have hcol (j : Nat) : tileCol clearedTile j = List.replicate 128 0 := List.map_const' ..
  have hrows : badRows clearedTile = [] := List.filter_eq_nil_iff.mpr fun i _ => by
    rw [hrow]
    exact Bool.eq_false_iff.mp hline
  have hcols : badCols clearedTile = [] := List.filter_eq_nil_iff.mpr fun j _ => by
    rw [hcol]
    exact Bool.eq_false_iff.mp hline
  rw [compareTile, hrows, hcols]

theorem drainBlock_fields :
    drainBlock.kind = 1 ∧ drainBlock.dfmt = 0 ∧ drainBlock.amap = ⟨0x80, 16, false, 0, 0, false⟩ ∧ drainBlock.guided = false
      ∧ drainBlock.acc = 0 ∧ drainBlock.rows = [0] ∧ drainBlock.m = 1 ∧ drainBlock.n = 1 := by
  decide +kernel

/-- The one element's place receives the guide's 1.0. -/
theorem drainBlock_runs :
    rowRuns (dfmtBytes drainBlock.dfmt) (drainBlock.cols.map fun j => (cellAddr drainBlock.gridD (0 - drainBlock.row0) (j - drainBlock.col0),
      drainBits drainBlock clearedTile.phase 0 j (guide drainBlock.gscale (tileGet clearedTile 0 j) (tileGet oneTile 0 j)))) = [(0x80, [0, 0, 0x80, 0x3F])] := by
  decide +kernel

theorem mxAlone_guidedState : mxAlone guidedState 0 0 guidedEntry drainWg drainBlock := by
  refine ⟨rfl, ⟨0, 0, 1, rfl, rfl⟩, rfl, rfl, rfl, rfl, ?_, rfl, rfl, rfl, rfl, rfl, ?_, ?_⟩
  all_goals decide +kernel

theorem mxDrain_guidedState :
    ∃ u, exec (.mxDrain ⟨0, 1⟩) guidedState = .next u ∧ wgAt u 0 = some (withSpad drainWg 0x80 [0, 0, 0x80, 0x3F]) := by
  obtain ⟨hkind, -, hmap, hguided, hacc, hrows, hm, -⟩ := drainBlock_fields
  have hspace : drainBlock.amap.space = 0 := by rw [hmap]
  have htile : tileOf drainWg drainBlock.acc = clearedTile := by rw [hacc]; rfl
  obtain ⟨u, x, hu, hxwg, hxguide, hexec⟩ := mxDrain_alone mxAlone_guidedState hkind hguided (by rw [htile]; rfl)
    (by rw [htile, compareTile_clearedTile]) (Nat.le_of_eq hm)
  have hw : wgAt u x.wg = some drainWg := by
    rw [hxwg, hu]
    rfl
  refine ⟨_, hexec, ?_⟩
  have hwritten : drainRows u 0 0 x drainWg drainBlock drainBlock.rows = writeLoc u true (.spad x.wg 0x80) [0, 0, 0x80, 0x3F] := by
    have hrow := drainRow_guided (v := drainWg) (u := oneTile) (i := 0) hw hspace (by rw [htile]; rfl) rfl 0 0 clearedTile.phase
    have hstray : x.guideTile = some oneTile := hxguide
    rw [htile, drainBlock_runs] at hrow
    rw [drainRows, hrows, hstray, htile, List.foldl_cons, List.foldl_nil, hrow, List.foldl_cons, List.foldl_nil]
    rfl
  rw [hwritten, hxwg]
  rw [hxwg] at hw
  exact wgAt_writeLoc_spad_clean hw rfl true 0x80 [0, 0, 0x80, 0x3F]

/-- Refutes O43 at its DRAIN: no premise says `e.guideTile = none`, which every MXGO queues. An entry that holds a guide tile before its block is read
keeps it, and its DRAIN, though without guidance, combines its rows with that tile: it writes 1.0 where the tile's element is 0. -/
theorem not_matrixOperationsAct : ¬ Obligations.MatrixOperationsAct := by
  intro h
  obtain ⟨hkind, hdfmt, hmap, hguided, hacc, -, hm, hn⟩ := drainBlock_fields
  have htile : tileOf drainWg drainBlock.acc = clearedTile := by rw [hacc]; rfl
  have hclean : compareTile (tileOf drainWg drainBlock.acc) = .clean := by rw [htile, compareTile_clearedTile]
  obtain ⟨-, -, -, hdrain⟩ := h _ _ _ _ _ _ mxAlone_guidedState (by rw [htile]; rfl) (by rw [htile]; rfl)
  obtain ⟨u, w', hexec, hw', ⟨-, hplaces, -⟩, -⟩ := hdrain hkind (.inl hdfmt) (by rw [hmap]) (by rw [hmap]) (by rw [hmap]) (by rw [hmap, hn]; decide)
    hguided hclean (by rw [htile]; rfl) rfl 1 (Nat.le_of_eq hm)
  obtain ⟨u', hexec', hw''⟩ := mxDrain_guidedState
  obtain rfl : u' = u := by
    rw [hexec'] at hexec
    exact Host.Outcome.next.inj hexec
  obtain rfl : withSpad drainWg 0x80 [0, 0, 0x80, 0x3F] = w' := Option.some.inj (hw''.symm.trans hw')
  have hplace := hplaces 0 0 (by rw [hm]; decide) (by rw [hn]; decide)
  rw [hmap, htile] at hplace
  exact absurd hplace (by decide +kernel)

end Sys2Proof.Machine
end

section
/-! PROOFS. Arithmetic words (R94 to R120), their queue ports (R97), and words that cannot issue (R96, R183, R185, R186). -/

namespace Sys2Proof.Machine

/-! ## What an arithmetic word executes (R94, R95) -/

/-- Each integer word, constructor by constructor, is the arithmetic word of its function; it releases nothing, commits nothing first and ends no
span. -/
theorem exec_of_integerFn {i : Instr} {f : DWord → DWord → DWord → DWord} (h : integerFn i = some f) :
    exec i = aluWord i f ∧ isPlain i = true := by
  cases i <;> cases h <;> exact ⟨rfl, rfl⟩

/-- The same for the floating-point, packed and conversion words. -/
theorem exec_of_floatFn {i : Instr} {f : DWord → DWord → DWord → DWord} (h : floatFn i = some f) :
    exec i = aluWord i f ∧ isPlain i = true := by
  cases i <;> cases h <;> exact ⟨rfl, rfl⟩

theorem exec_of_arithFn {i : Instr} {f : DWord → DWord → DWord → DWord} (h : integerFn i = some f ∨ floatFn i = some f) :
    exec i = aluWord i f ∧ isPlain i = true :=
  h.elim exec_of_integerFn exec_of_floatFn

theorem isPlain_iff {i : Instr} : isPlain i = true ↔ isRelease i = false ∧ commitsFirst i = false ∧ isSpanEnd i = false := by
  simp [isPlain, and_assoc]

/-- Settles O1: each word of the tables is an arithmetic word of its function, and such a word gives each member the value of its sources. -/
theorem arithmeticWordsCompute : Obligations.ArithmeticWordsCompute := by
  intro i f s g G hf h nd hp
  obtain ⟨hexec, hplain⟩ := exec_of_arithFn hf
  obtain ⟨hr, hc, he⟩ := isPlain_iff.mp hplain
  exact wordGives_of_sources h nd hp hr hc he (congrFun hexec s) fun _ => rfl

/-! ## Queue ports (R97) -/

theorem isPort_of_hdr {v w : Workgroup} (h : v.hdr = w.hdr) (r : Nat) : isPort v r = isPort w r := by
  unfold isPort; rw [h]

theorem setWg_setWg (s : State) (k : Nat) (x y : Workgroup) : setWg (setWg s k x) k y = setWg s k y := by
  simp [setWg, put_put]

theorem setWg_self {s : State} {k : Nat} {w : Workgroup} (h : wgAt s k = some w) : setWg s k w = s := by
  unfold setWg
  rw [put_look _ _ _ h]

theorem wgAt_setWg_same (s : State) (k : Nat) (x : Workgroup) : wgAt (setWg s k x) k = some x := look_put_same ..

/-- Whether a workgroup's table of FIFOs lists that of a lane's port; one that it does not list is empty. -/
def listsFifo (w : Workgroup) (lane r : Nat) : Prop := ∃ q, look w.fifos (fifoKey lane r) = some q

theorem listsFifo_of_ne_nil {w : Workgroup} {lane r : Nat} (h : fifoAt w lane r ≠ []) : listsFifo w lane r := by
  unfold fifoAt lookD at h
  cases hq : look w.fifos (fifoKey lane r) with
  | none => simp [hq] at h
  | some q => exact ⟨q, hq⟩

theorem listsFifo_setFifo {w : Workgroup} {lane r : Nat} (h : listsFifo w lane r) (l x : Nat) (q : List RegVal) :
    listsFifo (setFifo w l x q) lane r := by
  unfold listsFifo setFifo
  rw [look_put]
  split
  · exact ⟨q, rfl⟩
  · exact h

/-- A listed FIFO written as it stands. -/
theorem setFifo_self {w : Workgroup} {lane r : Nat} (h : listsFifo w lane r) : setFifo w lane r (fifoAt w lane r) = w := by
  obtain ⟨q, hq⟩ := h
  simp [setFifo, fifoAt, lookD, hq, put_look _ _ _ hq]

theorem hdr_popSources (th : Thread) (us : List RegUse) (w : Workgroup) : (popSources th w us).2.hdr = w.hdr := by
  induction us generalizing w with
  | nil => rfl
  | cons u us ih =>
    rw [popSources]
    split
    · exact ih _
    · exact ih _

section
variable {s : State} {t : Nat} {th : Thread} {w : Workgroup}

/-- A source field that names a port takes the entry at the FIFO's head. -/
theorem readSrc_port (h : thOf s t = some th) (hw : wgAt s (wgOf t) = some w) {u : RegUse} (p : isPort w u.reg = true)
    (hq : listsFifo w th.lane u.reg) :
    readSrc s t u = (((fifoAt w th.lane u.reg).head?.map fun v => valOf [v]).getD ⟨0, none⟩,
      setWg s (wgOf t) (setFifo w th.lane u.reg (fifoAt w th.lane u.reg).tail)) := by
  unfold readSrc
  simp only [h, hw, p, if_true]
  cases hf : fifoAt w th.lane u.reg with
  | nil =>
    have hself := setFifo_self hq
    rw [hf] at hself
    simp [hself, setWg_self hw]
  | cons v q => rfl

/-- The source fields of a word pop the FIFOs of the thread's own workgroup in field order, and change nothing else. -/
theorem readSrcs_eq_popSources (h : thOf s t = some th) (hw : wgAt s (wgOf t) = some w) (us : List RegUse)
    (hq : ∀ u ∈ us, isPort w u.reg = true → listsFifo w th.lane u.reg) :
    readSrcs s t us = ((popSources th w us).1, setWg s (wgOf t) (popSources th w us).2) := by
  induction us generalizing s w with
  | nil => simp [readSrcs, popSources, setWg_self hw]
  | cons u us ih =>
    rw [readSrcs, popSources]
    by_cases p : isPort w u.reg = true
    · have hrest := ih (s := setWg s (wgOf t) (setFifo w th.lane u.reg (fifoAt w th.lane u.reg).tail)) h (wgAt_setWg_same ..)
        fun v hv hport => listsFifo_setFifo (hq v (List.mem_cons_of_mem _ hv) hport) ..
      simp only [readSrc_port h hw p (hq u List.mem_cons_self p), hrest, if_pos p, setWg_setWg]
    · have hrest := ih h hw fun v hv => hq v (List.mem_cons_of_mem _ hv)
      simp only [readSrc_noPort h hw (Bool.not_eq_true _ ▸ p), hrest, if_neg p]

/-- A destination that is a port pushes the result. -/
theorem writeDst_port (h : thOf s t = some th) (hw : wgAt s (wgOf t) = some w) {d : RegUse} (p : isPort w d.reg = true) (v : Val) :
    writeDst s t d v = setWg s (wgOf t) (setFifo w th.lane d.reg (fifoAt w th.lane d.reg ++ resultRegs 1 v)) := by
  simp [writeDst, h, hw, p]

theorem writeDst_noPort (h : thOf s t = some th) (hw : wgAt s (wgOf t) = some w) {d : RegUse} (p : isPort w d.reg = false) (v : Val) :
    writeDst s t d v = setTh s t (setRegs th d.reg (resultRegs d.n v)) := by
  simp [writeDst, h, hw, p]

/-- A thread's part of an arithmetic word of one destination: all pops, then the destination. -/
theorem arithThread_pops (h : thOf s t = some th) (hw : wgAt s (wgOf t) = some w) {us : List RegUse} {d : RegUse}
    (hd : us.filter isDst = [d]) (hq : ∀ u ∈ us.filter isSrc, isPort w u.reg = true → listsFifo w th.lane u.reg) (g : List Val → Val) :
    arithThread us g s t = writeDst (setWg s (wgOf t) (popSources th w (us.filter isSrc)).2) t d (g (popSources th w (us.filter isSrc)).1) := by
  simp only [arithThread, readSrcs_eq_popSources h hw _ hq, hd, List.foldl_cons, List.foldl_nil]

end

/-- A word of one thread that changes the thread and its workgroup, and no other. -/
theorem aluWord_leaves {i : Instr} {f : DWord → DWord → DWord → DWord} {s : State} {g : Nat} {G : Group} {t : Nat} {th th' : Thread}
    {w w' : Workgroup} (h : soleMember i s g G t th w) (hexec : exec i = aluWord i f) (hplain : isPlain i = true)
    (hb : arithThread (usesOf i) (arithVal f) (entered s) t = setTh (setWg (entered s) (wgOf t) w') t th') (hc : th'.cond = th.cond) :
    ∃ u, exec i s = .next u ∧ othersKept s u t ∧ u.mem = s.mem ∧ u.cores = s.cores ∧ u.ops = s.ops
      ∧ wgAt u (wgOf t) = some w' ∧ thOf u t = some (nextWord th') := by
  have hafter : [t].foldl (arithThread (usesOf i) (arithVal f)) (issued i s G) = setTh (setWg (entered s) (wgOf t) w') t th' := by
    rw [issued_of_isPlain hplain, List.foldl_cons, List.foldl_nil, hb]
  obtain ⟨u, hu, hsame, hthread, hothers⟩ := soleWord h (isPlain_iff.mp hplain).2.2 _ (congrFun hexec s)
    (by rw [hafter, thOf_setTh, if_pos rfl]) (hc.trans (isInFlight_issued h))
  rw [hafter] at hsame hothers
  refine ⟨u, hu, fun x hx y hy => hothers x hx y ?_, (sameOutside_mem hsame).trans rfl, (sameOutside_cores hsame).trans rfl,
    (sameOutside_ops hsame).trans rfl, ?_, hthread⟩
  · rw [thOf_setTh, if_neg hx]
    exact hy
  · rw [sameOutside_wgAt hsame]
    exact wgAt_setWg_same ..

/-- Settles O4: the sources' pops and the destination's push are a change of the thread and of its own workgroup, which the issue leaves as it is. -/
theorem portsPopAndPush : Obligations.PortsPopAndPush := by
  intro i f s g G t th w d hf h hd hne
  obtain ⟨hexec, hplain⟩ := exec_of_arithFn hf
  have hth : thOf s t = some th := thOf_sole h hplain
  have hw : wgAt s (wgOf t) = some w := wgAt_sole h hplain
  have hpops := arithThread_pops (s := entered s) hth hw hd (fun r hr hport => listsFifo_of_ne_nil (hne r hr hport)) (arithVal f)
  have hpopped := wgAt_setWg_same (entered s) (wgOf t) (popSources th w ((usesOf i).filter isSrc)).2
  have hport := isPort_of_hdr (hdr_popSources th ((usesOf i).filter isSrc) w) d.reg
  simp only
  split
  next hp =>
    refine aluWord_leaves h hexec hplain ?_ rfl
    rw [hpops, writeDst_port (s := setWg (entered s) _ _) hth hpopped (hport.trans hp), setWg_setWg]
    exact (setTh_self (s := setWg (entered s) _ _) hth).symm
  next hp =>
    refine aluWord_leaves h hexec hplain ?_ (setRegs_cond ..)
    rw [hpops, writeDst_noPort (s := setWg (entered s) _ _) hth hpopped (hport.trans (Bool.not_eq_true _ ▸ hp))]

/-! ## Words that cannot issue (R96, R183, R185, R186) -/

/-- The issue of word i holds a group back: where none of its members has acted, all may issue it, and something stalls them, the group waits or
parks and the opportunity selects again. -/
def holdsBack (i : Instr) (issue : State → Host.Outcome State Fault Refusal) : Prop :=
  ∀ s g G x, s.focus = some g → grpOf s g = some G →
    G.members.all (fun t => legalHere i s t && !txStops i s t && !hasActed s t) = true → stallAmong i s G.core G.members = some x →
    issue s = .next (heldBack i { s with focus := none } g G x)

section
variable {i : Instr} {s : State} {g : Nat} {G : Group} {x : Stall}

/-- What stalls a group stalls it when the issue has taken it out of focus. -/
theorem stallAmong_unfocused (h : stallAmong i s G.core G.members = some x) :
    stallAmong i { s with focus := none } G.core G.members = some x :=
  (stallAmong_enter i s none s.nextIssue G.core G.members).trans h

theorem grpOf_unfocused (h : grpOf s g = some G) : grpOf { s with focus := none } g = some G := h

end

theorem runWord_holdsBack (i : Instr) (body : Nat → List Nat → State → State) : holdsBack i (runWord i body) := by
  intro s g G x hf hg hl hx
  have hrun : G.members.filter (fun t => legalHere i { s with focus := none } t && !txStops i { s with focus := none } t
      && !hasActed { s with focus := none } t) = G.members := filter_eq_self_of_all hl
  unfold runWord wordStep
  simp only [hf, grpOf_unfocused hg, hrun, stallAmong_unfocused hx]

theorem arriveWord_holdsBack (i : Instr) (op : CollOp) (d a b : Reg) (n : Nat) : holdsBack i (arriveWord i op d a b n) := by
  intro s g G x hf hg hl hx
  have hrun : G.members.filter (legalHere i { s with focus := none }) = G.members := by
    refine filter_eq_self_of_all ?_
    simp only [List.all_eq_true, Bool.and_eq_true] at hl ⊢
    exact fun t ht => (hl t ht).1.1
  unfold arriveWord arriveStep
  simp only [hf, grpOf_unfocused hg, hrun, stallAmong_unfocused hx]

theorem execJoin_holdsBack (d a : Reg) : holdsBack (.join d a) (execJoin d a) := by
  intro s g G x hf hg hl hx
  have hrun : G.members.filter (fun t => legalHere (.join d a) { s with focus := none } t && !txStops (.join d a) { s with focus := none } t)
      = G.members := by
    refine filter_eq_self_of_all ?_
    simp only [List.all_eq_true, Bool.and_eq_true] at hl ⊢
    exact fun t ht => (hl t ht).1
  unfold execJoin joinStep
  simp only [hf, grpOf_unfocused hg, hrun, stallAmong_unfocused hx]

/-- Every word holds its group back: a collective as it arrives, JOIN as it reads its counter, and the others as they act. -/
theorem exec_holdsBack {i : Instr} (h : (encode i).isSome = true) : holdsBack i (exec i) := by
  obtain ⟨w, hw⟩ := Option.isSome_iff_exists.mp h
  cases i <;> cases hw
  case gred | gscan | gshf | gbcast | gredW | gscanW | gshfW | gbcastW | gvote | regsize => exact arriveWord_holdsBack _ _ _ _ _ _
  case join => exact execJoin_holdsBack _ _
  all_goals exact runWord_holdsBack _ _

/-- What the selection of an opportunity may change: the next key, what belongs to the issue, and each thread's condition. -/
structure onlySelects (s u : State) : Prop where
  outside : ∃ n, sameOutside { s with nextId := n } u
  threads : ∀ t th, thOf s t = some th → ∃ th', thOf u t = some th' ∧ sameButWait th th'

theorem sameOutside_poison {s u : State} (h : sameOutside s u) : u.poison = s.poison := by
  unfold sameOutside at h; rw [h]

theorem sameOutside_memKey {s u : State} (h : sameOutside s u) : u.memKey = s.memKey := by
  unfold sameOutside at h; rw [h]

theorem sameOutside_memoryKept {s u : State} (h : sameOutside s u) : memoryKept s u :=
  ⟨sameOutside_mem h, sameOutside_poison h, sameOutside_memKey h, sameOutside_wgs h⟩

theorem onlySelects_kept {s u : State} (h : onlySelects s u) :
    memoryKept s u ∧ u.ops = s.ops ∧ u.cores = s.cores
      ∧ ∀ t th, thOf s t = some th → ∃ th', thOf u t = some th' ∧ sameButWait th th' := by
  obtain ⟨⟨n, hsame⟩, hths⟩ := h
  have hmem := sameOutside_memoryKept hsame
  have hops := sameOutside_ops hsame
  have hcores := sameOutside_cores hsame
  exact ⟨hmem, hops, hcores, hths⟩

theorem sameButWait_refl (th : Thread) : sameButWait th th := rfl

theorem sameButWait_trans {a b c : Thread} (h : sameButWait a b) (k : sameButWait b c) : sameButWait a c := by
  unfold sameButWait at *
  rw [k, h]

/-- Threads taken in flight keep all but their condition. -/
theorem sameButWait_foldl_inFlight (ts : List Nat) {s : State} {t : Nat} {th : Thread} (h : thOf s t = some th) :
    ∃ th', thOf (ts.foldl (fun s u => modTh s u fun th => { th with cond := .inFlight }) s) t = some th' ∧ sameButWait th th' := by
  induction ts generalizing s th with
  | nil => exact ⟨th, h, sameButWait_refl th⟩
  | cons u ts ih =>
    rw [List.foldl_cons]
    by_cases e : t = u
    · subst e
      obtain ⟨th', hth', hsame⟩ := ih (s := modTh s t fun th => { th with cond := .inFlight }) (by rw [thOf_modTh_same, h]; rfl)
      exact ⟨th', hth', sameButWait_trans (b := { th with cond := .inFlight }) rfl hsame⟩
    · exact ih (by rw [thOf_modTh_other _ _ e, h])

theorem onlySelects_formGroup (s : State) (c p t : Nat) : onlySelects s (formGroup s c p t) where
  outside := ⟨s.nextId + 1, sameOutside_trans (sameOutside_foldl _ (fun s u => sameOutside_modTh s u _) _ (freshId s).2) rfl⟩
  threads _ _ h := sameButWait_foldl_inFlight _ (s := (freshId s).2) h

/-- A selection forms a group, takes one up again, or ends the opportunity. -/
theorem onlySelects_selectWord (s : State) (c p : Nat) : onlySelects s (selectWord s c p) := by
  unfold selectWord
  simp only
  split
  · exact onlySelects_formGroup ..
  · split
    · exact ⟨⟨s.nextId, rfl⟩, fun t th h => ⟨th, h, sameButWait_refl th⟩⟩
    · exact ⟨⟨s.nextId, sameOutside_endOpportunity ..⟩, fun t th h => sameButWait_endOpportunity h ..⟩

/-- A group that is held back waits or parks, and only the selection that follows changes more. -/
theorem onlySelects_heldBack (i : Instr) (s : State) (g : Nat) (G : Group) (x : Stall) :
    onlySelects s (heldBack i { s with focus := none } g G x) := by
  cases x with
  | wait =>
    obtain ⟨hout, hths⟩ := onlySelects_selectWord (waitGroup { s with focus := none } g) G.core G.port
    exact ⟨hout, hths⟩
  | park p =>
    obtain ⟨hout, hths⟩ := onlySelects_selectWord (parkGroup { s with focus := none } g p i) G.core G.port
    exact ⟨hout, hths⟩

/-- Settles O5: the issue holds the group back, and a selection keeps memory, workgroups, accesses, cores, and all of a thread but its condition. -/
theorem stalledWordChangesNothing : Obligations.StalledWordChangesNothing := by
  intro i s g G he hf hg hl
  exact ⟨fun hx => ⟨exec_holdsBack he s g G .wait hf hg hl hx, onlySelects_kept (onlySelects_heldBack i s g G .wait)⟩,
    fun p hx => ⟨exec_holdsBack he s g G (.park p) hf hg hl hx, onlySelects_kept (onlySelects_heldBack i s g G (.park p))⟩⟩

end Sys2Proof.Machine
end

section
/-! PROOFS. Rendezvous collectives as their words issue (R186, R188; log 103). -/

namespace Sys2Proof.Machine

section
variable (op : CollOp) (d a b : Reg) (n : Nat)

/-! ## Arrivals recorded (R188) -/

/-- Only workgroups have changed. -/
def onlyWgs (s u : State) : Prop := u = { s with wgs := u.wgs }

theorem onlyWgs_trans {s t u : State} (h : onlyWgs s t) (k : onlyWgs t u) : onlyWgs s u := by
  unfold onlyWgs at *
  rw [k, h]

theorem onlyWgs_fields {s u : State} (h : onlyWgs s u) :
    u.threads = s.threads ∧ u.groups = s.groups ∧ u.mem = s.mem ∧ u.ops = s.ops ∧ u.cores = s.cores := by
  unfold onlyWgs at h
  rw [h]
  exact ⟨rfl, rfl, rfl, rfl, rfl⟩

theorem onlyWgs_noteArrival (s : State) (t : Nat) : onlyWgs s (noteArrival op d a b n s t) := by
  unfold noteArrival
  split <;> rfl

theorem onlyWgs_noteArrivals (ts : List Nat) (s : State) : onlyWgs s (ts.foldl (noteArrival op d a b n) s) :=
  foldl_rel (R := onlyWgs) (fun _ => rfl) onlyWgs_trans (onlyWgs_noteArrival op d a b n) ts s

/-- What a thread brings depends on the threads alone. -/
theorem brings_congr {s u : State} (h : u.threads = s.threads) : brings u op d a b n = brings s op d a b n := by
  funext t
  unfold brings thOf
  rw [h]

/-- A workgroup with more arrivals recorded. -/
def withArrivals (w : Workgroup) (xs : List Arrival) : Workgroup := { w with arrivals := w.arrivals ++ xs }

theorem withArrivals_nil (w : Workgroup) : withArrivals w [] = w := by simp [withArrivals]

theorem withArrivals_append (w : Workgroup) (xs ys : List Arrival) : withArrivals (withArrivals w xs) ys = withArrivals w (xs ++ ys) := by
  simp [withArrivals]

/-- A thread's arrival is recorded with its own workgroup. -/
theorem wgAt_noteArrival_same {s : State} {t : Nat} {w : Workgroup} (hw : wgAt s (wgOf t) = some w) :
    wgAt (noteArrival op d a b n s t) (wgOf t) = some (withArrivals w (brings s op d a b n t).toList) := by
  unfold noteArrival brings
  cases thOf s t with
  | none => exact hw.trans (congrArg some (withArrivals_nil w).symm)
  | some th => exact (wgAt_modWg_same ..).trans (congrArg (Option.map _) hw)

theorem wgAt_noteArrival_other (s : State) {t k : Nat} (h : wgOf t ≠ k) : wgAt (noteArrival op d a b n s t) k = wgAt s k := by
  unfold noteArrival
  cases thOf s t with
  | none => rfl
  | some th => exact (wgAt_modWg ..).trans (if_neg h.symm)

/-- Arrivals are recorded in the order of the threads, each with its own workgroup. -/
theorem wgAt_noteArrivals (ts : List Nat) {s : State} {k : Nat} {w : Workgroup} (hw : wgAt s k = some w) :
    wgAt (ts.foldl (noteArrival op d a b n) s) k
      = some (withArrivals w ((ts.filter fun t => wgOf t = k).filterMap (brings s op d a b n))) := by
  induction ts generalizing s w with
  | nil => exact hw.trans (congrArg some (withArrivals_nil w).symm)
  | cons t ts ih =>
    have hbrings := brings_congr op d a b n (onlyWgs_fields (onlyWgs_noteArrival op d a b n s t)).1
    rw [List.foldl_cons]
    by_cases hk : wgOf t = k
    · subst hk
      rw [ih (wgAt_noteArrival_same op d a b n hw), withArrivals_append, hbrings, List.filter_cons_of_pos (by simp)]
      cases hb : brings s op d a b n t with
      | none => rw [List.filterMap_cons_none hb]; rfl
      | some x => rw [List.filterMap_cons_some hb]; rfl
    · rw [ih ((wgAt_noteArrival_other op d a b n s hk).trans hw), hbrings, List.filter_cons_of_neg (by simpa using hk)]

/-! ## A group that has arrived -/

/-- The state in which every member of a group has arrived at its collective, and the issue has ended. -/
def groupArrived (s : State) (G : Group) : State := G.members.foldl (noteArrival op d a b n) (endIssue (entered s) s.nextIssue)

variable (s : State) (G : Group)

/-- The arrival of a group changes workgroups, and nothing else that the statements speak of. -/
theorem groupArrived_fields :
    (groupArrived op d a b n s G).threads = s.threads ∧ (groupArrived op d a b n s G).groups = s.groups
      ∧ (groupArrived op d a b n s G).mem = s.mem ∧ (groupArrived op d a b n s G).ops = s.ops
      ∧ (groupArrived op d a b n s G).cores = s.cores := by
  obtain ⟨hths, hgrps, hmem, hops, hcores⟩ := onlyWgs_fields (onlyWgs_noteArrivals op d a b n G.members (endIssue (entered s) s.nextIssue))
  have hend := sameOutside_endIssue (entered s) s.nextIssue
  exact ⟨hths.trans (threads_endIssue ..), hgrps.trans (groups_endIssue ..), hmem.trans (sameOutside_mem hend),
    hops.trans (sameOutside_ops hend), hcores.trans (sameOutside_cores hend)⟩

theorem thOf_groupArrived (t : Nat) : thOf (groupArrived op d a b n s G) t = thOf s t :=
  congrArg (look · t) (groupArrived_fields op d a b n s G).1

theorem grpOf_groupArrived (g : Nat) : grpOf (groupArrived op d a b n s G) g = grpOf s g :=
  congrArg (look · g) (groupArrived_fields op d a b n s G).2.1

theorem isInFlight_groupArrived : isInFlight (groupArrived op d a b n s G) = isInFlight s := by
  funext t
  unfold isInFlight
  rw [thOf_groupArrived]

theorem wgAt_groupArrived {k : Nat} {w : Workgroup} (hw : wgAt s k = some w) :
    wgAt (groupArrived op d a b n s G) k
      = some (withArrivals w ((G.members.filter fun t => wgOf t = k).filterMap (brings s op d a b n))) := by
  have hend := sameOutside_endIssue (entered s) s.nextIssue
  rw [groupArrived, wgAt_noteArrivals op d a b n G.members ((sameOutside_wgAt hend k).trans hw),
    brings_congr op d a b n (threads_endIssue (entered s) s.nextIssue)]
  rfl

end

/-! ## The word of a collective (R186, R188) -/

/-- Each of the ten collectives arrives with its own operation, destination and operands. -/
theorem exec_of_collective {i : Instr} {op : CollOp} {d a b : Reg} {n : Nat} (h : collective i op d a b n) : exec i = arriveWord i op d a b n := by
  rcases h with ⟨_, _, rfl, rfl, rfl⟩ | ⟨_, _, rfl, rfl, rfl⟩ | ⟨_, _, _, rfl, rfl, rfl⟩ | ⟨_, _, _, rfl, rfl, rfl⟩ | ⟨_, rfl, rfl, rfl⟩
    | ⟨_, rfl, rfl, rfl⟩ | ⟨rfl, rfl, rfl⟩ | ⟨rfl, rfl, rfl⟩ | ⟨_, rfl, rfl, rfl⟩ | ⟨_, rfl, rfl, rfl, rfl⟩ <;> rfl

/-- A group whose members are all in flight keeps them all. -/
theorem trimGroup_inFlight {s : State} {g : Nat} {G : Group} (hg : grpOf s g = some G) (hne : G.members ≠ [])
    (hall : G.members.all (isInFlight s) = true) : trimGroup s g = s := by
  have hlook : look s.groups g = some G := hg
  unfold trimGroup
  simp only [hg, filter_eq_self_of_all hall, List.isEmpty_iff, hne, if_false, setGrp, put_look _ _ _ hlook]

/-- Where the word of a collective is legal for every member, nothing stalls it and no operand meets an error, the members arrive and the group
parks. -/
theorem arriveWord_parks {i : Instr} (op : CollOp) (d a b : Reg) (n : Nat) {s : State} {g : Nat} {G : Group} (hf : s.focus = some g)
    (hg : grpOf s g = some G) (hlegal : G.members.all (legalHere i s) = true) (herr : G.members.any (meetsErrorHere i s) = false)
    (hstall : stallAmong i s G.core G.members = none) :
    arriveWord i op d a b n s = .next (endOpportunity (parkGroup (trimGroup (groupArrived op d a b n s G) g) g .rendezvous i)
      G.core G.port (some G.members)) := by
  have hrun : G.members.filter (legalHere i { s with focus := none }) = G.members := filter_eq_self_of_all hlegal
  have hstop : G.members.filter (fun t => !legalHere i { s with focus := none, nextIssue := s.nextIssue + 1 } t) = [] := filter_not_eq_nil hlegal
  have hgo : stallAmong i { s with focus := none } G.core G.members = none :=
    (stallAmong_enter i s none s.nextIssue G.core G.members).trans hstall
  have hmeet : meetErrors i s.nextIssue { s with focus := none, nextIssue := s.nextIssue + 1 } G.members = entered s :=
    meetErrors_none (s := entered s) fun t ht => Bool.eq_false_iff.mpr (List.any_eq_false.mp herr t ht)
  unfold arriveWord arriveStep groupArrived
  simp only [hf, grpOf_unfocused hg, hrun, hgo, hstop, List.foldl_nil, hmeet]

/-- Settles O19: the group stays whole and parks, and the end of the opportunity changes no more of a thread than its wait. -/
theorem collectivesArriveAndPark : Obligations.CollectivesArriveAndPark := by
  intro i op d a b n s g G hcoll hf hg hne hall herr hstall
  simp only [List.all_eq_true, Bool.and_eq_true] at hall
  have hlegal : G.members.all (legalHere i s) = true := List.all_eq_true.mpr fun t ht => (hall t ht).1
  have hflight : G.members.all (isInFlight (groupArrived op d a b n s G)) = true := by
    rw [isInFlight_groupArrived]
    exact List.all_eq_true.mpr fun t ht => (hall t ht).2
  have hgrp : grpOf (groupArrived op d a b n s G) g = some G := (grpOf_groupArrived op d a b n s G g).trans hg
  have hexec := arriveWord_parks op d a b n hf hg hlegal herr hstall
  rw [trimGroup_inFlight hgrp hne hflight] at hexec
  have hout : sameOutside (groupArrived op d a b n s G) _ :=
    sameOutside_trans (t := parkGroup (groupArrived op d a b n s G) g .rendezvous i) rfl (sameOutside_endOpportunity _ G.core G.port (some G.members))
  obtain ⟨-, -, hmem, hops, hcores⟩ := groupArrived_fields op d a b n s G
  refine ⟨_, (congrFun (exec_of_collective hcoll) s).trans hexec, ?_, fun k w hw => ?_, fun t th hth => ?_, (sameOutside_mem hout).trans hmem,
    (sameOutside_ops hout).trans hops, (sameOutside_cores hout).trans hcores⟩
  · rw [grpOf, groups_endOpportunity]
    exact (look_alter_same ..).trans (congrArg (Option.map _) hgrp)
  · exact (sameOutside_wgAt hout k).trans (wgAt_groupArrived op d a b n s G hw)
  · exact sameButWait_endOpportunity (s := parkGroup (groupArrived op d a b n s G) g .rendezvous i)
      ((thOf_groupArrived op d a b n s G t).trans hth) ..

end Sys2Proof.Machine
end

section
/-! PROOFS. Barrier words as they issue (R153, R195 to R197, R203, R267). -/

namespace Sys2Proof.Machine

/-! ## A thread changed before or after -/

theorem modTh_id (s : State) (t : Nat) : modTh s t id = s := by
  cases h : thOf s t with
  | none => exact modTh_none h id
  | some th => rw [← setTh_eq_modTh h]; exact setTh_self h

/-- A bit written to a destination register. -/
theorem writeD_bit (s : State) (t : Nat) (d : Reg) (p : Bool) :
    writeD s t d 1 (cleanVal (predBit p)) = modTh s t fun th => setReg th d.toNat (RegVal.clean (if p then 1 else 0)) := by
  cases p <;> rfl

theorem setReg_cond (th : Thread) (r : Nat) (v : RegVal) : (setReg th r v).cond = th.cond := setRegs_cond th r [v]

theorem afterArrival_modTh (s : State) (t : Nat) (F : Thread → Thread) (k x : Nat) (w : Workgroup) (sc : Option Scope) (c : Nat) :
    afterArrival (modTh s t F) k x w sc c = modTh (afterArrival s k x w sc c) t F := rfl

theorem thOf_afterArrival (s : State) (t k x : Nat) (w : Workgroup) (sc : Option Scope) (c : Nat) :
    thOf (afterArrival s k x w sc c) t = thOf s t := rfl

theorem acquirePhase_modTh (s : State) (t : Nat) (F : Thread → Thread) (w : Workgroup) (x : Nat) (acq : Option Scope) :
    acquirePhase (modTh s t F) w x acq = modTh (acquirePhase s w x acq) t F := by
  cases acq with
  | none => rfl
  | some sc =>
    exact (congrArg (fun u => (lookD w.arrScopes x ([], [])).2.foldl (fun s c => dropSelfInv s w.core c) u) (acquireNow_modTh ..)).trans
      (List.foldl_hom (modTh · t F) fun s c => acquireNow_modTh s t F w.core (some c))

theorem thOf_acquirePhase (s : State) (t : Nat) (w : Workgroup) (x : Nat) (acq : Option Scope) :
    thOf (acquirePhase s w x acq) t = thOf s t := by
  cases acq with
  | none => rfl
  | some sc =>
    exact foldl_keeps (P := fun u => thOf u t = thOf s t) (fun u c hu => (thOf_acquireNow u t w.core (some c)).trans hu) _ _
      (thOf_acquireNow s t w.core (some sc))

/-! ## One thread's operation on an object (R195, R197) -/

section
variable {s : State} {t : Nat} {th : Thread} {w : Workgroup} {a : Reg} {operands : List Reg} {x : Nat}

/-- The checks of R197 pass: the operands are clean and the address names an object. -/
def namesObject (th : Thread) (w : Workgroup) (a : Reg) (operands : List Reg) (x : Nat) : Prop :=
  (∀ r ∈ a :: operands, (readReg th r.toNat).poison = false) ∧ spadForm th w a.toNat 0 16 = .ok x

/-- The operation itself, at an object that is not refused. -/
theorem barrierThread_acts (ht : thOf s t = some th) (hw : wgAt s (wgOf t) = some w) (hn : namesObject th w a operands x) (issue : Nat)
    (dsts : List (Nat × Nat)) {checkObj : Bool} (hobj : checkObj = true → objectRefused w x = none)
    (f : State → Nat → Thread → Workgroup → Nat → State) : barrierThread issue a operands dsts checkObj f s t = f s t th w x := by
  have hclean : firstTok ((a :: operands).map fun r => readReg th r.toNat) = none := firstTok_clean (by simpa using hn.1)
  have hpass : (if checkObj = true then objectRefused w x else none) = none := ite_eq_right_iff.mpr hobj
  simp only [barrierThread, ht, hw, hclean, hn.2, hpass]

/-- At a refused object the destination receives a token with the cause, and nothing else happens. -/
theorem barrierThread_refused (ht : thOf s t = some th) (hw : wgAt s (wgOf t) = some w) (hn : namesObject th w a operands x) (issue : Nat)
    (d : Reg) {c : Cause} (hobj : objectRefused w x = some c) (f : State → Nat → Thread → Workgroup → Nat → State) :
    let k := makeToken s (orgOf s issue t th) (why c (BitVec.ofNat 64 x))
    barrierThread issue a operands [(d.toNat, 1)] true f s t = modTh k.1 t fun th => setReg th d.toNat (RegVal.bad k.2) := by
  have hclean : firstTok ((a :: operands).map fun r => readReg th r.toNat) = none := firstTok_clean (by simpa using hn.1)
  simp only [barrierThread, ht, hw, hclean, hn.2, if_true, hobj, threadToken_eq ht, List.foldl_cons, List.foldl_nil]
  rfl

/-- A barrier word's object is the one that its address operand names. -/
theorem barrierOf_waitph {d b : Reg} (mo : MemOrder) (hn : namesObject th w a [b] x) : barrierOf (.waitph d a b mo) th w = some x := by
  obtain ⟨hclean, hx⟩ := hn
  have hsrc : ((usesOf (.waitph d a b mo)).flatMap fun u => if isSrc u then readRegs th u.reg u.n else [])
      = [readReg th a.toNat, readReg th b.toNat] := rfl
  have hnone : firstTok [readReg th a.toNat, readReg th b.toNat] = none := firstTok_clean (by simpa using hclean)
  simp only [barrierOf, barAddr, hsrc, hnone, Option.isSome_none, Bool.false_eq_true, if_false, hx]

end

/-- A word that issues for its group meets no phase that it would park on. -/
theorem issuesNow_noPhaseStall {i : Instr} {s : State} {g : Nat} {G : Group} (h : issuesNow i s g G = true) :
    G.members.findSome? (phaseStallHere i (issued i s G)) = none := by
  simp only [issuesNow, Bool.and_eq_true] at h
  obtain ⟨⟨-, hphase⟩, -⟩ := h
  exact Option.isNone_iff_eq_none.mp hphase

/-! ## The four words, for one thread (R203) -/

section
variable {s : State} {g : Nat} {G : Group} {t : Nat} {th : Thread} {w : Workgroup} {d a b c : Reg} {mo : MemOrder} {x : Nat}

/-- A barrier word at an object that its checks let pass, where its operation is that of `after` with a change of the thread itself. -/
theorem barrierWord_leaves {i : Instr} {operands : List Reg} {dsts : List (Nat × Nat)} {checkObj : Bool}
    {f : State → Nat → Thread → Workgroup → Nat → State} (h : soleMember i s g G t th w) (he : isSpanEnd i = false)
    (e : exec i s = runWord i (fun issue ts s => ts.foldl (barrierThread issue a operands dsts checkObj f) s) s) (hn : namesObject th w a operands x)
    (hobj : checkObj = true → objectRefused w x = none) {after : State} {F : Thread → Thread} (hf : f (issued i s G) t th w x = modTh after t F)
    (hafter : thOf after t = thOf (issued i s G) t) (hF : (F th).cond = th.cond) : wordLeaves i s t after (some (nextWord (F th))) := by
  have ⟨_, _, ht, hw⟩ := h
  refine soleWord_modTh h he e ?_ (hafter.trans ht) (hF.trans (isInFlight_issued h))
  rw [List.foldl_cons, List.foldl_nil, barrierThread_acts ht hw hn s.nextIssue dsts hobj f, hf]

theorem barinit_writes (h : soleMember (.barinit a b c) s g G t th w) (hn : namesObject th w a [b, c] x) :
    wordLeaves (.barinit a b c) s t
      (setObj (modWg (issued (.barinit a b c) s G) (wgOf t) fun v => noteScopes v x ([], [])) (wgOf t) x
        { phase := false, tcount := min (readReg th b.toNat).data.toNat 65535, acount := 0, tbytes := (readReg th c.toNat).data.toNat, abytes := 0 })
      (some (nextWord th)) :=
  barrierWord_leaves h rfl rfl hn (absurd · Bool.false_ne_true) (modTh_id ..).symm rfl rfl

/-- A word that may release acts for a thread whose release is not cut short by its bound. -/
theorem orUnacked_acts {u : State} (ht : thOf u t = some th) (un : th.unacked = none) (rel : Bool) (issue : Nat) (dsts : List (Nat × Nat))
    (act : State → State) : (if rel = true then orUnacked u issue t dsts act else act u) = act (actsFor rel u t) := by
  cases rel with
  | false => rfl
  | true => simp only [if_true, orUnacked, ht, un, unlessUnacked, actsFor]

theorem actsFor_eq_modTh (rel : Bool) (u : State) (t : Nat) : actsFor rel u t = modTh u t (actedAs rel) := by
  cases rel with
  | false => exact (modTh_id u t).symm
  | true => rfl

theorem readReg_actedAs (rel : Bool) (th : Thread) (r : Nat) : readReg (actedAs rel th) r = readReg th r := by cases rel <;> rfl

theorem arrive_arrives (h : soleMember (.arrive d a b mo) s g G t th w) (hn : namesObject th w a [b] x) (un : th.unacked = none)
    (hobj : objectRefused w x = none) :
    wordLeaves (.arrive d a b mo) s t
      (afterArrival (issued (.arrive d a b mo) s G) (wgOf t) x w none (if b = 0 then 1 else (readReg th b.toNat).data.toNat))
      (some (nextWord (setReg (actedAs (isRel mo) th) d.toNat (RegVal.clean (if phaseBit w x then 1 else 0))))) := by
  have ⟨_, _, ht, hw⟩ := h
  have hn' : namesObject (actedAs (isRel mo) th) w a [b] x := by simpa only [namesObject, spadForm, readReg_actedAs] using hn
  have hw' : wgAt (actsFor (isRel mo) (issued (.arrive d a b mo) s G) t) (wgOf t) = some w := by
    rw [actsFor_eq_modTh]
    exact hw
  refine soleWord_modTh h rfl (F := fun th => setReg (actedAs (isRel mo) th) d.toNat (RegVal.clean (if phaseBit w x then 1 else 0))) rfl ?_ ht
    ((setReg_cond ..).trans ((actedAs_cond ..).trans (isInFlight_issued h)))
  rw [List.foldl_cons, List.foldl_nil]
  dsimp only
  rw [orUnacked_acts ht un, barrierThread_acts (thOf_actsFor _ ht) hw' hn' _ _ fun _ => hobj, writeD_bit, actsFor_eq_modTh, modTh_modTh,
    arriveAt, arriveWith_eq_afterArrival (s := modTh _ _ _) hw, afterArrival_modTh, arriveCount, readReg_actedAs]

/-- WAITPH parks on the phase whose parity it is given, so one that issues has met the other. -/
theorem waitph_phase (h : soleMember (.waitph d a b mo) s g G t th w) (hn : namesObject th w a [b] x) (hobj : objectRefused w x = none) :
    phaseBit w x ≠ (readReg th b.toNat).data.getLsbD 0 := by
  have ⟨hissues, hmembers, ht, hw⟩ := h
  have hnone := issuesNow_noPhaseStall hissues
  intro hphase
  have hparks : phaseStallHere (.waitph d a b mo) (issued (.waitph d a b mo) s G) t = some (.park .phase) := by
    simp [phaseStallHere, ht, hw, phaseStall, barrierOf_waitph mo hn, hobj, hphase, stallIf]
  rw [hmembers, List.findSome?_cons, hparks] at hnone
  cases hnone

theorem waitph_acquires (h : soleMember (.waitph d a b mo) s g G t th w) (hn : namesObject th w a [b] x) (hobj : objectRefused w x = none) :
    wordLeaves (.waitph d a b mo) s t (acquirePhase (issued (.waitph d a b mo) s G) w x (acqScope mo))
      (some (nextWord (setReg th d.toNat (RegVal.clean (if phaseBit w x then 1 else 0))))) :=
  barrierWord_leaves h rfl rfl hn (fun _ => hobj) (F := fun th => setReg th d.toNat (RegVal.clean (if phaseBit w x then 1 else 0)))
    (by rw [writeD_bit, acquirePhase_modTh]) (thOf_acquirePhase ..) (setReg_cond ..)

theorem testph_differs (h : soleMember (.testph d a b mo) s g G t th w) (hn : namesObject th w a [b] x) (hobj : objectRefused w x = none)
    (hp : phaseBit w x ≠ (readReg th b.toNat).data.getLsbD 0) :
    wordLeaves (.testph d a b mo) s t (acquirePhase (issued (.testph d a b mo) s G) w x (acqScope mo))
      (some (nextWord (setReg th d.toNat (RegVal.clean 1)))) :=
  barrierWord_leaves h rfl rfl hn (fun _ => hobj) (F := fun th => setReg th d.toNat (RegVal.clean 1))
    (by simp only [bne_iff_ne.mpr hp, if_true, writeD_bit, acquirePhase_modTh]) (thOf_acquirePhase ..) (setReg_cond ..)

theorem testph_same (h : soleMember (.testph d a b mo) s g G t th w) (hn : namesObject th w a [b] x) (hobj : objectRefused w x = none)
    (hp : phaseBit w x = (readReg th b.toNat).data.getLsbD 0) :
    wordLeaves (.testph d a b mo) s t (issued (.testph d a b mo) s G) (some (nextWord (setReg th d.toNat (.clean 0)))) :=
  barrierWord_leaves h rfl rfl hn (fun _ => hobj) (F := fun th => setReg th d.toNat (RegVal.clean 0))
    (by simp only [bne_eq_false_iff_eq.mpr hp, Bool.false_eq_true, if_false, writeD_bit]) rfl (setReg_cond ..)

theorem testph_refused (h : soleMember (.testph d a b mo) s g G t th w) (hn : namesObject th w a [b] x) {cause : Cause}
    (hobj : objectRefused w x = some cause) :
    let k := makeToken (issued (.testph d a b mo) s G) (orgOf (issued (.testph d a b mo) s G) s.nextIssue t th)
      ⟨cause, some (BitVec.ofNat 64 x), false, false⟩
    wordLeaves (.testph d a b mo) s t k.1 (some (nextWord (setReg th d.toNat (RegVal.bad k.2)))) := by
  intro k
  have ⟨_, _, ht, hw⟩ := h
  refine soleWord_modTh h rfl (F := fun th => setReg th d.toNat (RegVal.bad k.2)) rfl ?_ ((thOf_makeToken ..).trans ht)
    ((setReg_cond ..).trans (isInFlight_issued h))
  rw [List.foldl_cons, List.foldl_nil]
  exact barrierThread_refused ht hw hn s.nextIssue d hobj _

end

/-- Settles O20: each word by the lemma that says what it leaves. -/
theorem barrierWordsAct : Obligations.BarrierWordsAct := by
  intro s g G t th w d a b c mo x ha hb hx
  have hn : namesObject th w a [b] x := ⟨by simp [ha, hb], hx⟩
  refine ⟨fun h hc => ?barinit, fun h un hobj => ?arrive, fun h hobj => ?waitph, fun h hobj => ⟨fun hp => ?differs, fun hp => ?same⟩,
    fun cause hobj h => ?refused⟩
  case barinit => exact barinit_writes h ⟨by simp [ha, hb, hc], hx⟩
  case arrive => exact arrive_arrives h hn un hobj
  case waitph => exact ⟨waitph_phase h hn hobj, waitph_acquires h hn hobj⟩
  case differs => exact testph_differs h hn hobj hp
  case same => exact testph_same h hn hobj (Decidable.not_not.mp hp)
  case refused => exact testph_refused h hn hobj

end Sys2Proof.Machine
end
